-- ==== Sys2Proof/Word.lean ====
section
/-! DEFINITION. The word types of the HZ7168 model and their plainest arithmetic. -/

namespace Sys2Proof

/-- One byte. -/
abbrev Byte := BitVec 8
/-- One register word of the module register space (R7). -/
abbrev Word := BitVec 32
/-- One 128-byte memory line, byte `n` in bits `[8n+7:8n]` (R4). -/
abbrev Line := BitVec 1024
/-- An end-point coordinate (R34). -/
abbrev Epc := BitVec 24
/-- A sparse table: keys strictly rising, no entry equal to the table's default. -/
abbrev SMap (α : Type) := List (Nat × α)

/-- The fabric and twin ports, 0-257 (chapter 3). -/
abbrev PortNo := Fin 258
/-- The fabric and twin lanes, 0-527 (chapter 3). -/
abbrev LaneNo := Fin 528

/-- Bits `[hi:lo]` of a number (R5). -/
def bits (v hi lo : Nat) : Nat := v / 2 ^ lo % 2 ^ (hi + 1 - lo)

/-- Bit `n` of a number. -/
def bit (v n : Nat) : Bool := v / 2 ^ n % 2 == 1

/-- A Bool as a bit. -/
def b2n (b : Bool) : Nat := if b then 1 else 0

/-- `v` with bits `[hi:lo]` replaced by the low bits of `x`. -/
def setBits (v hi lo x : Nat) : Nat :=
  let w := 2 ^ (hi + 1 - lo)
  v - bits v hi lo * 2 ^ lo + (x % w) * 2 ^ lo

end Sys2Proof
end

