-- ==== Sys2Proof/Syntax.lean ====
section
/-! DEFINITION. The commands of the block, one constructor per row of spec/opcode_table.json, and the operands they carry:
packets (R110-R112), flits (R94, R95), register paths (R375), capability blocks (R77) and the environment's observations. -/

namespace Sys2Proof

/-- The die kinds a `DIE_LOST` names (R51, R61). -/
inductive Die where
  | hearth | hall | store (d : Fin 2) | port (d : Fin 4)
  deriving DecidableEq, Repr

/-- An ingress point of the switch core: a port, one of the six internal ingress points (R160), or an agent on the Hearth
itself (Units 12 and 31 and Clasp), which needs no crossing. -/
inductive Ingress where
  | port (p : PortNo) | store (d : Fin 2) | hall | host (j : Fin 2) | mgmt | hearth
  deriving DecidableEq, Repr

/-- An egress point of the switch core: a port or an internal egress point (R142). -/
inductive Egress where
  | port (p : PortNo) | store (d : Fin 2) | hall | host (j : Fin 2) | mgmt
  deriving DecidableEq, Repr

/-- A packet: the 32-byte header of R110 field by field, its operation field (bytes 20-31, R112), the security extension
(R123, meaningful when `enc`), the payload and the GCM tag (meaningful when `enc`). -/
structure Packet where
  opcode : Byte
  cls : BitVec 3
  enc : Bool
  flag : Bool
  mcast : Bool
  opn : Bool
  retx : Bool
  dest : Epc
  src : Epc
  partition : Byte
  job : BitVec 16
  status : BitVec 4
  hint : BitVec 4
  seq : BitVec 16
  length : BitVec 13
  regionKey : Word
  opf : BitVec 96
  ext : BitVec 128
  payload : List Byte
  gtag : BitVec 128
  deriving DecidableEq, Repr

/-- A flit: the control word of R95, the payload area of R94 (240 bytes) and the CRC field of R96. -/
structure Flit where
  seq : BitVec 12
  fvc : BitVec 3
  stop : Bool
  ackSeq : BitVec 12
  ackKind : BitVec 2
  c0Grant : BitVec 12
  crVc : BitVec 3
  crGrant : BitVec 12
  payload : List Byte
  crc : BitVec 64
  deriving DecidableEq, Repr

/-- A packet passed to a local Unit: the packet in clear, where it came from, whether R118 found it a duplicate, and whether
it travelled encrypted. -/
structure Delivered where
  pkt : Packet
  ing : Ingress
  dup : Bool
  deriving DecidableEq, Repr

/-- A path by which the module register space is reached (R375): a host function, Annex, I3C, JTAG or the Asquin register
window as used by a source EPC. -/
inductive Path where
  | host (j : Fin 2) (fn : Fin 128) | annex | i3c | jtag | window (src : Epc)
  deriving DecidableEq, Repr

/-- A fence's owner: a Hall context's FENCE command (R278) or a host function's fence (R453). -/
inductive FenceId where
  | hall (c : Fin 16) | host (j : Fin 2) (fn : Fin 128)
  deriving DecidableEq, Repr

/-- A wake event (R422), named by what was seen. -/
inductive WakeEvent where
  | burst (n : LaneNo)
  | hostActivity (j : Fin 2)
  | inputChange
  | semaphore
  | cmdWrite
  | timeout
  | i3cRun
  | perstDeassert (j : Fin 2)
  | pwrgoodRise
  deriving DecidableEq, Repr

/-- A discrete input (R432), in the order of the PWR_INPUTS bits. -/
inductive Input where
  | pwrgood | perst0 | perst1 | capLow | twinPrsnt
  deriving DecidableEq, Repr

/-- A reset domain for an internal domain reset (R59, R438). -/
inductive Domain where
  | lane (macroNo : Fin 66) | txPll (n : Fin 8) | hbm (n : Fin 4) | lpddr (n : Fin 8) | pcie (j : Fin 2)
  | hearthCore | storeHome | hallEngines | hallArray | hub
  | crypto | clasp | annex | nvmIf | sensors | debug
  deriving DecidableEq, Repr

/-- One mirrored change on the twin link (R185, R199, R237): data of a line, or a directory record. -/
inductive MirrorMsg where
  | data (line : Nat) (value : Line) (version : Nat)
  | dir (line : Nat) (holders : List Epc) (owned : Bool)
  deriving DecidableEq, Repr

/-- What a scrub read's check finds in the stored line (R230, R244, R245): clean, a corrected error on a device and row, an
uncorrectable error, a failed tag, or a failed counter line at a level. -/
inductive CheckResult where
  | clean
  | corrected (dev : Fin 12) (row : Nat)
  | uncorrectable (dev : Fin 12)
  | tagFail
  | counterFail (level counterLine : Nat)
  deriving DecidableEq, Repr

/-- The commands of the block: one constructor per row of spec/opcode_table.json. -/
inductive Instr where
  -- registers and switch core
  | registerWrite (path : Path) (off : BitVec 26) (size : Nat) (val : BitVec 64)
  | packetArrive (ing : Ingress) (p : Packet)
  | congestionNote (port : PortNo) (cls : Fin 5)
  | transmitSlot (eg : Egress)
  | c0TokenGrant (port : PortNo)
  -- links and lanes
  | flitReceive (port : PortNo) (f : Flit) (fecFlagged : Bool)
  | ackTimeoutReplay (port : PortNo)
  | codewordDecode (lane : LaneNo) (errA errB : Nat) (burst : Bool)
  | fecLock (lane : LaneNo)
  | blockLock (lane : LaneNo)
  | superframeLock (lane : LaneNo)
  | lossOfLock (lane : LaneNo)
  | quarReceive (lane : LaneNo) (seconds : BitVec 24)
  | quarantineEnd (lane : LaneNo)
  | quarantineLevelReset (lane : LaneNo)
  | laneDetect (lane : LaneNo)
  | capBlockAccept (lane : LaneNo) (set1 set2 : BitVec 384)
  | equaliseDone (lane : LaneNo)
  | verifyDone (lane : LaneNo) (ok : Bool)
  | trainingPhaseTimeout (lane : LaneNo)
  | stepAdvance (lane : LaneNo)
  | laneRestart (lane : LaneNo)
  | portEnterService (port : PortNo) (skewUi : Nat)
  | checkingRetry (port : PortNo)
  | laneAlignManual (path : Path) (lane : LaneNo) (on : Bool)
  | slip (path : Path) (lane : LaneNo)
  | manualAlignTimeout (lane : LaneNo)
  | idleEntry (port : PortNo)
  | eiEnterReceive (lane : LaneNo)
  | idleExit (port : PortNo)
  | trainingBurstReceive (lane : LaneNo)
  | idleExitFail (lane : LaneNo)
  | widthReceive (port : PortNo) (seq mask : Byte) (boundary : BitVec 24)
  | widthApply (port : PortNo)
  | twinPortReturn
  | eyeSearchDone (lane : LaneNo) (width height : Byte) (eye : BitVec 2)
  | eyeManualDone (lane : LaneNo) (count : BitVec 64)
  | eyeCtrlWrite (path : Path) (lane : LaneNo) (val : Word)
  | opticalRefresh (lane : LaneNo) (rxPwr txOma bias laserIn : BitVec 16)
  | droopResetMin (path : Path) (die site : Fin 4)
  | retrain (path : Path) (port : PortNo)
  -- end-to-end layer at the module's own sources
  | e2eRetryTimeout (src dst : Epc)
  | pairClose (src dst : Epc)
  | c0RequestTimeout (issue : Nat)
  | deferredResend (src dst : Epc) (c0 : Bool)
  | flaggedWriteRelease (issue : Nat)
  | fenceComplete (f : FenceId)
  -- requests at their destination
  | read (d : Delivered)
  | readVol (d : Delivered)
  | write (d : Delivered)
  | writeMask (d : Delivered)
  | atomic (d : Delivered)
  | regRead (d : Delivered)
  | regWrite (d : Delivered)
  | takeShared (d : Delivered)
  | takeExcl (d : Delivered)
  | give (d : Delivered)
  | evictNotice (d : Delivered)
  -- snoops at the module's own caches
  | snoopInv (d : Delivered)
  | fwdShared (d : Delivered)
  | fwdExcl (d : Delivered)
  | recall (d : Delivered)
  -- responses
  | comp (d : Delivered)
  | data (d : Delivered)
  | compAck (d : Delivered)
  | snoopResp (d : Delivered)
  | snoopData (d : Delivered)
  -- collective packets
  | collPush (d : Delivered)
  | collPartial (d : Delivered)
  | collResult (d : Delivered)
  | collA2a (d : Delivered)
  | revoke (d : Delivered)
  | streamWrite (d : Delivered)
  | telemetry (d : Delivered)
  | vote (d : Delivered)
  | committed (d : Delivered)
  | arrived (d : Delivered)
  | release (d : Delivered)
  | reissue (d : Delivered)
  | regather (d : Delivered)
  | a2aEnd (d : Delivered)
  | a2aCount (d : Delivered)
  -- homes
  | hotRunServe (line : Nat)
  | tokenLapse (line : Nat) (token : BitVec 16)
  | snoopResendTimeout (line : Nat) (holder : Epc)
  | grantCheckTimeout (line : Nat) (member : Epc)
  | twinMirrorReceive (m : MirrorMsg)
  | twinMirrorAck (line : Nat)
  | patrolScrubRead (line : Nat) (obs : CheckResult)
  | memTrainingDone (dev : Fin 12) (ok stored : Bool)
  | memDeviceLost (dev : Fin 12)
  | poisonMarkingDone (cellar : Bool)
  | evacRestoreDone (region : Fin 16384)
  | dieLost (die : Die)
  -- switch maintenance
  | routeAddRequest (port : PortNo)
  | bufAudit
  | mirrorRecordDelivered
  | drainQuiesced
  | drainSettleEnd
  | holdQueuesEmpty
  | drainAbandon
  -- Hall
  | array (c : Fin 16)
  | vector (c : Fin 16)
  | dmaLoad (c : Fin 16)
  | dmaStore (c : Fin 16)
  | dmaCopy (c : Fin 16)
  | dmaTakeS (c : Fin 16)
  | dmaTakeX (c : Fin 16)
  | dmaGive (c : Fin 16)
  | dmaCupOut (c : Fin 16)
  | dmaCupIn (c : Fin 16)
  | dmaAtomic (c : Fin 16)
  | signal (c : Fin 16)
  | fence (c : Fin 16)
  | loop (c : Fin 16)
  | tlbInv (c : Fin 16)
  | endCmd (c : Fin 16)
  | semaphoreWaitSatisfied (c : Fin 16)
  | releasePointReached (c : Fin 16)
  | commandComplete (c : Fin 16) (id : Nat)
  | arrayPassEnd (residueOk : Bool)
  | spillComplete
  | restoreComplete
  | epilogueComplete
  | sliceFrameEnd
  | translationWalkDone (c : Fin 16) (va : BitVec 48)
  | halSemAdd (path : Path) (sem : Fin 256) (val : Word)
  | ctxStart (path : Path) (c : Fin 16)
  | ctxStop (path : Path) (c : Fin 16)
  | halCtxListWrite (path : Path) (c : Fin 16) (va : BitVec 64)
  | contextConfigApply (c : Fin 16)
  -- collectives, time-driven
  | groupChangeApply (g : Fin 1024)
  | groupChangeAbandon (g : Fin 1024)
  | pieceCombineDone (g : Fin 1024) (step chunk : Word) (strand : Bool) (piece : Fin 16) (ok : Bool)
  | shardRelease (g : Fin 1024) (step : Word)
  | reissueTimeout (g : Fin 1024) (step chunk : Word) (strand : Bool)
  | voteTimeout (g : Fin 1024)
  | memberLost (g : Fin 1024) (member : Nat)
  -- resilience
  | twinConfirmTimeout
  | takeoverDirectoryLoaded
  | aliasBroadcast
  | handoff (path : Path)
  | handoffComplete
  | twinHandoffReceive
  | resyncDone
  | windowEvaluate
  | faultQueueDrain
  | ringWriteRetry
  | faultSummaryWrite
  | fltQueuePop (path : Path)
  | fltRingTailWrite (path : Path) (val : Word)
  | fltOvfClear (path : Path) (source : Fin 16)
  -- security
  | windowRequest (path : Path) (w : Fin 5) (count : Byte)
  | locketRequest (path : Path) (w : Fin 5) (partScope : Bool) (partition : Byte)
  | keyGrant (path : Path) (w : Fin 5)
  | claspRequestValidated
  | locketSigned
  | locketRateTimeout (w : Fin 5)
  | keyDelivery
  | debugToken (token : List Byte)
  | twinLocketReceive (locket : List Byte)
  | twinKeyReceive (partition : Byte) (held : Bool) (check : BitVec 64) (kemCt : List Byte) (wrapped : List Byte)
      (wtag : BitVec 128)
  | partitionKeyTimeout (partition : Byte)
  | claspBootStep (n : Fin 3)
  -- configuration
  | stage (path : Path)
  | stagingComplete (nvmErr : Bool)
  | stageFw (path : Path) (annex : Bool)
  | commit (path : Path) (reset : Bool)
  | commitApply
  | confirm (path : Path)
  | returnCmd (path : Path)
  | readSummary (path : Path)
  | clearSummary (path : Path)
  | probationPass
  | probationPortTimeout (port : PortNo)
  -- power, clocks, reset
  | wake (e : WakeEvent)
  | pwrCmdRun (path : Path)
  | enterStill (path : Path)
  | enterVigil (path : Path)
  | powerStateEntered
  | stillExit (e : WakeEvent)
  | vigilExit (e : WakeEvent)
  | poiseEntry
  | hushEntry
  | moduleReset (path : Path)
  | powerOnReset
  | internalDomainReset (d : Domain)
  | crossingResume (d : Domain)
  | pwrCapWrite (path : Path) (watts : BitVec 16)
  | capControl (watts : BitVec 16)
  | capLowAssert
  | capLowRelease
  | inputAccept (input : Input) (active : Bool)
  | inputStuck (input : Input)
  | dampingEnd (input : Input)
  | thermalTrip (die : Die)
  | thermalRestart
  | phaseEnd
  | startupLate
  | undervoltageLockout
  | overvoltageLockout
  -- host ports and sideband
  | bar2Write (j : Fin 2) (fn : Fin 128) (x : BitVec 38) (data : List Byte)
  | bar2Read (j : Fin 2) (fn : Fin 128) (x : BitVec 38) (len : Nat)
  | bar2Fetchadd (j : Fin 2) (fn : Fin 128) (x : BitVec 38) (size : Nat) (operand : BitVec 128)
  | bar2Swap (j : Fin 2) (fn : Fin 128) (x : BitVec 38) (size : Nat) (operand : BitVec 128)
  | bar2Cas (j : Fin 2) (fn : Fin 128) (x : BitVec 38) (size : Nat) (compare operand : BitVec 128)
  | hstApBaseWrite (path : Path) (j : Fin 2) (fn : Fin 128) (a : Fin 4) (val : BitVec 64)
  | hstApCtrlWrite (path : Path) (j : Fin 2) (fn : Fin 128) (a : Fin 4) (val : Word)
  | hstFnFence (path : Path) (j : Fin 2) (fn : Fin 128)
  | hostInboundRequest (d : Delivered)
  | hostDmaComplete (j : Fin 2) (n : Nat) (data : List Byte)
  | hostDmaTimeout (j : Fin 2) (n : Nat)
  | msixHoldoffEnd (j : Fin 2) (fn : Fin 128) (vec : Fin 4)
  | vfEnable (j : Fin 2) (on : Bool) (numVfs : BitVec 7)
  | hostPerst (j : Fin 2)
  | hostLinkDown (j : Fin 2)
  | hostTlpErr (j : Fin 2) (poisoned : Bool)
  | hostNoteTailWrite (path : Path) (j : Fin 2) (fn : Fin 128) (val : Word)
  | i3cRead4 (off : Word)
  | i3cRead8 (off : Word)
  | i3cWrite4 (off : Word) (val : Word)
  | i3cWrite8 (off : Word) (val : BitVec 64)
  | i3cAddressAssign (addr : BitVec 7)
  -- counters
  | localCounterRead (path : Path)
  | cntSnap (path : Path) (mask : BitVec 64)
  | snapshotCapture (slot : Fin 64)
  | clear (path : Path) (event : BitVec 12)
  | clearAll (path : Path)
  | cntChainWrite (path : Path) (w : Fin 48) (val : Word)
  | slotEventWrite (path : Path) (slot : Fin 64) (event : BitVec 12)
  | liveRead (path : Path) (slot : Fin 64) (size : Nat)
  | registerRead (path : Path) (off : BitVec 26) (size : Nat)
  | hostLinkUp (j : Fin 2) (rate : BitVec 3) (width : BitVec 4)
  | stageFwDone (nvmErr : Bool)
  | summaryOpDone (nvmErr : Bool)
  | supplyDroop (die site : Fin 4) (mv margin : BitVec 12)
  | resyncSignalReceive (started : Bool)
  | twinDigestReceive (digest : BitVec 256)
  deriving DecidableEq, Repr

end Sys2Proof
end

