-- ==== Sys2Proof/Config.lean ====
section
/-! DEFINITION. What the manual leaves open: free values and uninterpreted functions of outside standards. None has a
body, so no statement can rest on a value of one. -/

namespace Sys2Proof.Config

/-- A fresh free value: the n-th value the manual leaves open (State.freeIdx counts them). Log entry 3. -/
opaque free : Nat → BitVec 64
/-- SHA-256 of a byte string (R376, R401). Left uninterpreted: log entry 4. -/
opaque sha256 : List Byte → BitVec 256
/-- SLH-DSA-SHA2-128s verification: public key, signed bytes, signature (R376, FIPS 205). Log entry 4. -/
opaque slhdsaVerify : BitVec 256 → List Byte → List Byte → Bool
/-- The SLH-DSA signature Clasp makes with its identity key (R380, R382). Log entry 4. -/
opaque slhdsaSign : BitVec 384 → List Byte → List Byte
/-- The public key of an identity seed (R380). Log entry 4. -/
opaque slhdsaPub : BitVec 384 → BitVec 256
/-- HKDF-SHA256 of the fused identity seed, salt and an info tag (R380). Log entry 4. -/
opaque hkdfIdentity : BitVec 256 → BitVec 64 → Bool → BitVec 384
/-- AES-256-GCM opening: key, IV, additional data, ciphertext, tag; none when the tag fails (R123). Log entry 4. -/
opaque gcmOpen : BitVec 256 → BitVec 96 → List Byte → List Byte → BitVec 128 → Option (List Byte)
/-- AES-256-GCM sealing: ciphertext and tag (R123). Log entry 4. -/
opaque gcmSeal : BitVec 256 → BitVec 96 → List Byte → List Byte → List Byte × BitVec 128
/-- ML-KEM-768 decapsulation under this boot's key, then HKDF (R391, R388). Log entry 4. -/
opaque kemOpen : BitVec 256 → List Byte → BitVec 256
/-- ML-KEM-768 encapsulation to an end point's key with fresh randomness: ciphertext and secret (R393). Log entry 4. -/
opaque kemSeal : List Byte → BitVec 64 → List Byte × BitVec 256
/-- ML-KEM-768 encapsulation key of a boot's seed (R378). Log entry 4. -/
opaque kemEk : BitVec 256 → List Byte
/-- AES-256 of the all-zero block: a memory key's check value (R387). Log entry 4. -/
opaque keyCheck : BitVec 256 → BitVec 64
/-- The digest twins compare of their twinned region entries (R237); its function is not stated. Log entry 4. -/
opaque regionDigest : List Nat → BitVec 256
/-- The identity key of the peer module in a twin's certificate and whether it chains to the root (R377). Log entry 4. -/
opaque twinCertOk : List Byte → Bool
/-- The set a line falls in: the sparse directory's hash (R196) is not stated. Log entry 5. -/
opaque sdirSet : Nat → Nat
/-- RSQRT within 2 ulp (R266): which result is open. Log entry 6. -/
opaque rsqrt32 : Word → Word
/-- EXP within 2 ulp (R266): which result is open. Log entry 6. -/
opaque exp32 : Word → Word
/-- LOG within 2 ulp (R266): which result is open. Log entry 6. -/
opaque log32 : Word → Word
/-- GELU in its tanh form (R257): its FP32 rounding is not stated. Log entry 6. -/
opaque gelu32 : Word → Word
/-- SiLU (R257): its FP32 rounding is not stated. Log entry 6. -/
opaque silu32 : Word → Word
/-- The E8M0 scale chosen when a block of 32 FP32 results is cast to an MX format (R257): not stated. Log entry 6. -/
opaque mxScale : Nat → List Word → Byte
/-- A NaN result whose bit pattern the manual does not give (vector and array arithmetic): function of the operation's
number and operands. Log entry 6. -/
opaque nan32 : Nat → Word → Word → Word
/-- The FP32 sum of a RED_SUM (or, with true, a RED_SUMSQ) over two or more elements (R266): its fixed tree is not stated. Log
entry 6. -/
opaque redSum : Bool → List Word → Word
/-- A cast of an FP32 value that an INT8 or INT32 output cannot hold, NaN among them (R257, R265): bits and value. Log entry 6. -/
opaque intOf : Nat → Word → Word
/-- What a command whose output overlaps its own input leaves there (R287): undefined. Log entry 6. -/
opaque overlapByte : Nat → Nat → Byte
/-- Spare rows of a memory device (R245): how many it has is not stated. Log entry 19. -/
opaque spareRows : Nat → Nat

end Sys2Proof.Config
end

