-- ==== Sys2Proof/Machine/Sparse.lean ====
section
/-! DEFINITION. Sparse tables: a list of key and value pairs in one canonical form (keys strictly rising, no entry equal to
what an unlisted key reads as), with the read and the write every table of the model uses. -/

namespace Sys2Proof.Machine

/-- The value at key `k`, or the default where none is listed. -/
def sget {α : Type} (d : Nat → α) : SMap α → Nat → α
  | [], k => d k
  | (a, v) :: m, k => if a = k then v else sget d m k

/-- Insert or replace at key `k`, keeping keys rising. -/
def sput {α : Type} (k : Nat) (v : α) : SMap α → SMap α
  | [] => [(k, v)]
  | (a, w) :: m => if k < a then (k, v) :: (a, w) :: m else if k = a then (k, v) :: m else (a, w) :: sput k v m

/-- Remove key `k`. -/
def sdel {α : Type} (k : Nat) : SMap α → SMap α
  | [] => []
  | (a, w) :: m => if a = k then m else (a, w) :: sdel k m

/-- Write `v` at key `k`: a value equal to the default removes the entry. -/
def sset {α : Type} [DecidableEq α] (d : Nat → α) (m : SMap α) (k : Nat) (v : α) : SMap α :=
  if v = d k then sdel k m else sput k v m

/-- All keys of the table are above `k`. -/
def sAbove {α : Type} (k : Nat) (m : SMap α) : Bool := m.all fun e => decide (k < e.1)

/-- The canonical form. -/
def swf {α : Type} [DecidableEq α] (d : Nat → α) : SMap α → Bool
  | [] => true
  | (a, v) :: m => decide (v ≠ d a) && sAbove a m && swf d m

/-- Read with a constant default. -/
def cget {α : Type} (d : α) (m : SMap α) (k : Nat) : α := sget (fun _ => d) m k

/-- Write with a constant default. -/
def cset {α : Type} [DecidableEq α] (d : α) (m : SMap α) (k : Nat) (v : α) : SMap α := sset (fun _ => d) m k v

end Sys2Proof.Machine
end

