-- ==== Sys2Proof/Machine/Bytes.lean ====
section
/-! DEFINITION. Byte order (R4), byte-string fields and the cyclic redundancy codes of R77, R96 and R136. -/

namespace Sys2Proof.Machine

/-- The number a byte string spells, least significant byte first (R4). -/
def leNat : List Byte → Nat
  | [] => 0
  | b :: bs => b.toNat + 256 * leNat bs

/-- The `n` bytes of a number, least significant first (R4). -/
def leBytes : Nat → Nat → List Byte
  | 0, _ => []
  | n + 1, v => BitVec.ofNat 8 (v % 256) :: leBytes n (v / 256)

/-- `n` bytes from position `i`; positions past the end read as zero. -/
def slice (bs : List Byte) (i n : Nat) : List Byte := (bs.drop i).take n ++ List.replicate (n - (bs.length - i)) 0

/-- The little-endian field of `n` bytes at position `i`. -/
def leAt (bs : List Byte) (i n : Nat) : Nat := leNat ((bs.drop i).take n)

/-- Replace the bytes from position `i` by `xs`. -/
def splice (bs : List Byte) (i : Nat) (xs : List Byte) : List Byte := bs.take i ++ xs ++ bs.drop (i + xs.length)

/-- The 128 bytes of a line. -/
def lineBytes (l : Line) : List Byte := leBytes 128 l.toNat

/-- The line a byte string spells. -/
def bytesLine (bs : List Byte) : Line := BitVec.ofNat 1024 (leNat bs)

/-- One step of an unreflected CRC of width `w`. -/
def crcBitUp (w : Nat) (poly : BitVec w) (r : BitVec w) : BitVec w :=
  if r.msb then (r <<< 1) ^^^ poly else r <<< 1

/-- `n`-fold iteration. -/
def iter {α : Type} (f : α → α) : Nat → α → α
  | 0, a => a
  | n + 1, a => iter f n (f a)

/-- CRC-64 of ECMA-182 over a byte string (R96): all ones at start, bit 7 of each byte first, result inverted. -/
def crc64 (bs : List Byte) : BitVec 64 :=
  ~~~ bs.foldl (fun r b => iter (crcBitUp 64 0x42F0E1EBA9EA3693) 8 (r ^^^ (BitVec.ofNat 64 (b.toNat * 2 ^ 56)))) (BitVec.allOnes 64)

/-- CRC-16 of the capability block (R77): polynomial 0x1021, initial value 0xFFFF. -/
def crc16 (bs : List Byte) : BitVec 16 :=
  bs.foldl (fun r b => iter (crcBitUp 16 0x1021) 8 (r ^^^ (BitVec.ofNat 16 (b.toNat * 2 ^ 8)))) 0xFFFF

/-- One step of the reflected CRC-32C (R136). -/
def crc32cBit (r : Word) : Word := if r.getLsbD 0 then (r >>> 1) ^^^ 0x82F63B78 else r >>> 1

/-- The reflected CRC-32C register after a byte string, from a given register, without final inversion (R136). -/
def crc32cReg (init : Word) (bs : List Byte) : Word :=
  bs.foldl (fun r b => iter crc32cBit 8 (r ^^^ BitVec.ofNat 32 b.toNat)) init

/-- CRC-32C as RFC 3720 uses it (R401). -/
def crc32c (bs : List Byte) : Word := ~~~ crc32cReg (BitVec.allOnes 32) bs

/-! ## Memory as cells -/

/-- What an unlisted byte of memory, the Pantry or a stored copy reads as (log entry 8). -/
def cellDefault : Nat → Byte := fun _ => 0

/-- One byte of a cell list. -/
def cellGet (m : List Host.Cell) (a : Nat) : Byte := sget cellDefault m a

/-- Write one byte of a cell list. -/
def cellSet (m : List Host.Cell) (a : Nat) (b : Byte) : List Host.Cell := sset cellDefault m a b

/-- The memory's canonical form: addresses strictly rising, no entry equal to what an unlisted address reads as. -/
def Memory.wf (m : List Host.Cell) : Bool := swf cellDefault m

/-- `n` bytes from address `a`. -/
def cellRead (m : List Host.Cell) (a : Nat) : Nat → List Byte
  | 0 => []
  | n + 1 => cellGet m a :: cellRead m (a + 1) n

/-- Write a byte string from address `a` upward. -/
def cellWrite (m : List Host.Cell) (a : Nat) : List Byte → List Host.Cell
  | [] => m
  | b :: bs => cellWrite (cellSet m a b) (a + 1) bs

/-- Drop every byte of the half-open range `[lo, hi)`, so that it reads as the default. -/
def cellErase (m : List Host.Cell) (lo hi : Nat) : List Host.Cell := m.filter fun e => !(decide (lo ≤ e.1) && decide (e.1 < hi))

end Sys2Proof.Machine
end

