-- ==== Sys2Proof/Machine/Float.lean ====
section
/-! DEFINITION. Number formats (R254, R313): exact values of binary floating-point numbers, IEEE 754 rounding to any of the
formats (nearest-even or the stochastic rule of R257), binary32 add, multiply, fused multiply-add and compare, the Philox4x32-10
generator, and packing of elements. -/

namespace Sys2Proof.Machine

/-- An exact value: NaN, an infinity, or `±mant × 2^exp` (a signed zero when `mant` is 0). -/
inductive FVal where
  | nan
  | inf (neg : Bool)
  | fin (neg : Bool) (mant : Nat) (exp : Int)
  deriving DecidableEq, Repr

/-- What the top exponent of a format means: infinities and NaNs of IEEE 754, the one NaN of E4M3, or nothing special. -/
inductive FTop where
  | ieee | e4m3 | plain
  deriving DecidableEq, Repr

/-- A binary format: exponent bits, fraction bits, the meaning of its top exponent. -/
structure FFmt where
  eb : Nat
  mb : Nat
  top : FTop
  deriving DecidableEq, Repr

def fFP32 : FFmt := ⟨8, 23, .ieee⟩
def fBF16 : FFmt := ⟨8, 7, .ieee⟩
def fFP16 : FFmt := ⟨5, 10, .ieee⟩
def fE4M3 : FFmt := ⟨4, 3, .e4m3⟩
def fE5M2 : FFmt := ⟨5, 2, .ieee⟩
def fE3M2 : FFmt := ⟨3, 2, .plain⟩
def fE2M3 : FFmt := ⟨2, 3, .plain⟩
def fE2M1 : FFmt := ⟨2, 1, .plain⟩

/-- Exponent bias. -/
def FFmt.bias (f : FFmt) : Int := 2 ^ (f.eb - 1) - 1
/-- Bits of an element. -/
def FFmt.width (f : FFmt) : Nat := 1 + f.eb + f.mb

/-- The exact value an encoding spells. -/
def fDecode (f : FFmt) (x : Nat) : FVal :=
  let neg := bit x (f.eb + f.mb)
  let e := bits x (f.eb + f.mb - 1) f.mb
  let m := x % 2 ^ f.mb
  let allOnes := e == 2 ^ f.eb - 1
  if f.top == .ieee && allOnes then (if m = 0 then .inf neg else .nan)
  else if f.top == .e4m3 && allOnes && m == 2 ^ f.mb - 1 then .nan
  else if e = 0 then .fin neg m (1 - f.bias - f.mb)
  else .fin neg (m + 2 ^ f.mb) (Int.ofNat e - f.bias - f.mb)

/-- The largest finite encoding, without sign. -/
def fMax (f : FFmt) : Nat :=
  match f.top with
  | .ieee => (2 ^ f.eb - 1) * 2 ^ f.mb - 1
  | .e4m3 => 2 ^ (f.eb + f.mb) - 2
  | .plain => 2 ^ (f.eb + f.mb) - 1

/-- The encoding of infinity of an IEEE format, without sign. -/
def fInf (f : FFmt) : Nat := (2 ^ f.eb - 1) * 2 ^ f.mb

/-- The canonical NaN (R317). The formats without one have no NaN to give: zero stands here and is reached by no cast. -/
def fNan (f : FFmt) : Nat :=
  match f.top with
  | .ieee => (2 ^ f.eb - 1) * 2 ^ f.mb + 2 ^ (f.mb - 1)
  | .e4m3 => 2 ^ (f.eb + f.mb) - 1
  | .plain => 0

/-- How a quotient is rounded: to nearest, ties to even; or by R257's rule with a 32-bit random word. -/
inductive Rnd where
  | rne | stoch (r : Nat)
  deriving DecidableEq, Repr

/-- Round `n / 2^k` to an integer. -/
def roundQuot (rnd : Rnd) (n k : Nat) : Nat :=
  let q := n / 2 ^ k
  let rem := n % 2 ^ k
  match rnd with
  | .rne => if 2 ^ k < 2 * rem || (2 ^ k == 2 * rem && q % 2 == 1) then q + 1 else q
  | .stoch r => if r < 2 ^ 32 * rem / 2 ^ k then q + 1 else q

/-- Round an exact value to a format. A finite value too large becomes infinity, or the largest finite value when `sat`; an
infinity of a format that has none becomes the largest finite value of its sign (R317). -/
def fRound (f : FFmt) (sat : Bool) (rnd : Rnd) : FVal → Nat
  | .nan => fNan f
  | .inf neg => b2n neg * 2 ^ (f.eb + f.mb) + (if f.top = .ieee then fInf f else fMax f)
  | .fin neg m e =>
    let sign := b2n neg * 2 ^ (f.eb + f.mb)
    if m = 0 then sign
    else
      let top := e + Int.ofNat (Nat.log2 m)
      let q := max top (1 - f.bias) - Int.ofNat f.mb
      let sh := q - e
      let r := if 0 ≤ sh then roundQuot rnd m sh.toNat else m * 2 ^ (-sh).toNat
      let big := r == 2 ^ (f.mb + 1)
      let r := if big then 2 ^ f.mb else r
      let q := if big then q + 1 else q
      let enc := if r < 2 ^ f.mb then r else ((q + Int.ofNat f.mb + f.bias).toNat) * 2 ^ f.mb + (r - 2 ^ f.mb)
      if enc ≤ fMax f then sign + enc
      else sign + (if sat || f.top ≠ .ieee then fMax f else fInf f)

/-- The sum of two exact values; two zeros or an exact cancellation give +0 unless both are negative. -/
def fAdd : FVal → FVal → FVal
  | .nan, _ => .nan
  | _, .nan => .nan
  | .inf a, .inf b => if a = b then .inf a else .nan
  | .inf a, _ => .inf a
  | _, .inf b => .inf b
  | .fin na ma ea, .fin nb mb eb =>
    let e := min ea eb
    let a : Int := Int.ofNat (ma * 2 ^ (ea - e).toNat)
    let b : Int := Int.ofNat (mb * 2 ^ (eb - e).toNat)
    let sum := (if na then -a else a) + (if nb then -b else b)
    if sum = 0 then .fin (na && nb) 0 0 else .fin (decide (sum < 0)) sum.natAbs e

/-- The product of two exact values. -/
def fMul : FVal → FVal → FVal
  | .nan, _ => .nan
  | _, .nan => .nan
  | .inf a, .inf b => .inf (a != b)
  | .inf a, .fin b m _ => if m = 0 then .nan else .inf (a != b)
  | .fin a m _, .inf b => if m = 0 then .nan else .inf (a != b)
  | .fin a ma ea, .fin b mb eb => .fin (a != b) (ma * mb) (ea + eb)

/-- Sign of an exact value. -/
def FVal.neg : FVal → Bool
  | .nan => false
  | .inf n => n
  | .fin n _ _ => n

/-- Negate an exact value. -/
def fNeg : FVal → FVal
  | .nan => .nan
  | .inf n => .inf (!n)
  | .fin n m e => .fin (!n) m e

/-- Is the first value less than the second, with -0 below +0 (R317); NaN is less than nothing. -/
def fLess : FVal → FVal → Bool
  | .nan, _ => false
  | _, .nan => false
  | .inf a, .inf b => a && !b
  | .inf a, _ => a
  | _, .inf b => !b
  | .fin na ma ea, .fin nb mb eb =>
    if ma = 0 && mb = 0 then na && !nb
    else
      let e := min ea eb
      let a : Int := Int.ofNat (ma * 2 ^ (ea - e).toNat)
      let b : Int := Int.ofNat (mb * 2 ^ (eb - e).toNat)
      decide ((if na then -a else a) < (if nb then -b else b))

/-- The value of a binary32 word. -/
def f32 (w : Word) : FVal := fDecode fFP32 w.toNat

/-- Round to binary32, nearest-even; every NaN is 0x7FC0_0000. -/
def toF32 (v : FVal) : Word := BitVec.ofNat 32 (fRound fFP32 false .rne v)

/-- Binary32 sum, every NaN result 0x7FC0_0000 (R167, R317). -/
def f32Add (a b : Word) : Word := toF32 (fAdd (f32 a) (f32 b))
/-- Binary32 product. -/
def f32Mul (a b : Word) : Word := toF32 (fMul (f32 a) (f32 b))

/-- IEEE 754-2019 maximum: NaN wins, +0 above -0 (R317). -/
def f32Max (a b : Word) : Word :=
  match f32 a, f32 b with
  | .nan, _ => 0x7FC00000
  | _, .nan => 0x7FC00000
  | x, y => if fLess x y then b else a

/-- IEEE 754-2019 minimum. -/
def f32Min (a b : Word) : Word :=
  match f32 a, f32 b with
  | .nan, _ => 0x7FC00000
  | _, .nan => 0x7FC00000
  | x, y => if fLess y x then b else a

/-- A quotient of exact values, to 60 bits below the divisor and a sticky bit: enough for one correct rounding to binary32. -/
def fDiv : FVal → FVal → FVal
  | .nan, _ => .nan
  | _, .nan => .nan
  | .inf _, .inf _ => .nan
  | .inf a, .fin b _ _ => .inf (a != b)
  | .fin a _ _, .inf b => .fin (a != b) 0 0
  | .fin a ma ea, .fin b mb eb =>
    if mb = 0 then (if ma = 0 then .nan else .inf (a != b))
    else
      let n := ma * 2 ^ 60
      .fin (a != b) (2 * (n / mb) + (if n % mb = 0 then 0 else 1)) (ea - eb - 61)

/-- Integer square root of a number below 2^(2n), bit by bit. -/
def isqrt : Nat → Nat → Nat
  | 0, _ => 0
  | n + 1, v =>
    let r := 2 * isqrt n (v / 4)
    if (r + 1) * (r + 1) ≤ v then r + 1 else r

/-- A square root, to 32 fraction bits and a sticky bit: enough for one correct rounding to binary32. -/
def fSqrt : FVal → FVal
  | .nan => .nan
  | .inf n => if n then .nan else .inf false
  | .fin n m e =>
    if m = 0 then .fin n 0 0
    else if n then .nan
    else
      let odd := if e % 2 = 0 then 0 else 1
      let v := m * 2 ^ (64 + odd)
      let r := isqrt 48 v
      .fin false (2 * r + (if r * r = v then 0 else 1)) ((e - Int.ofNat odd - 64) / 2 - 1)

/-! ## Philox4x32-10 (R257) -/

/-- One round's counter and key update. -/
def philoxRound (c0 c1 c2 c3 k0 k1 : Word) : Word × Word × Word × Word :=
  let p0 := 0xD2511F53 * c0.toNat
  let p1 := 0xCD9E8D57 * c2.toNat
  let hi0 := BitVec.ofNat 32 (p0 / 2 ^ 32)
  let lo0 := BitVec.ofNat 32 p0
  let hi1 := BitVec.ofNat 32 (p1 / 2 ^ 32)
  let lo1 := BitVec.ofNat 32 p1
  (hi1 ^^^ c1 ^^^ k0, lo1, hi0 ^^^ c3 ^^^ k1, lo0)

/-- `n` rounds. -/
def philoxRounds : Nat → Word × Word × Word × Word → Word → Word → Word × Word × Word × Word
  | 0, c, _, _ => c
  | n + 1, (c0, c1, c2, c3), k0, k1 =>
    philoxRounds n (philoxRound c0 c1 c2 c3 k0 k1) (k0 + 0x9E3779B9) (k1 + 0xBB67AE85)

/-- First output word of Philox4x32 with 10 rounds, key (k0, k1) and counter (c0, c1, 0, 0). -/
def philox (k0 k1 c0 c1 : Word) : Nat := (philoxRounds 10 (c0, c1, 0, 0) k0 k1).1.toNat

/-! ## Element formats (R254, R313) -/

/-- The element format of a FMT; none for INT8, INT32, RAW and the reserved values. -/
def elemFmt (fmt : Nat) : Option FFmt :=
  match fmt with
  | 0 => some fFP32
  | 1 => some fBF16
  | 2 => some fFP16
  | 3 => some fE4M3
  | 4 => some fE5M2
  | 5 => some fE4M3
  | 6 => some fE5M2
  | 7 => some fE3M2
  | 8 => some fE2M3
  | 9 => some fE2M1
  | _ => none

/-- An MX format. -/
def isMx (fmt : Nat) : Bool := 5 ≤ fmt && fmt ≤ 9

/-- Bits of an element of a FMT, INT8 and INT32 included. -/
def elemBits (fmt : Nat) : Nat :=
  match fmt with
  | 0 => 32 | 1 => 16 | 2 => 16 | 3 => 8 | 4 => 8 | 5 => 8 | 6 => 8 | 7 => 6 | 8 => 6 | 9 => 4 | 10 => 8 | 11 => 32
  | _ => 8

/-- Bytes that `n` packed elements take, without scales. -/
def packedBytes (fmt n : Nat) : Nat := (n * elemBits fmt + 7) / 8

/-- Payload of a piece of `n` elements: elements, then one E8M0 scale per 32 for MX (R313). -/
def pieceBytes (fmt n : Nat) : Nat := packedBytes fmt n + (if isMx fmt then (n + 31) / 32 else 0)

/-- Element `i` of packed bytes, least significant bit first. -/
def unpackAt (fmt : Nat) (bs : List Byte) (i : Nat) : Nat :=
  let w := elemBits fmt
  let b := i * w
  bits (leAt bs (b / 8) ((w + 14) / 8)) (b % 8 + w - 1) (b % 8)

/-- Pack elements, least significant bit first. -/
def packElems (fmt : Nat) (xs : List Nat) : List Byte :=
  let w := elemBits fmt
  let v := xs.foldr (fun x acc => x % 2 ^ w + 2 ^ w * acc) 0
  leBytes (packedBytes fmt xs.length) v

/-- Scale an exact value by an E8M0 scale: 2^(s - 127), or NaN for 0xFF. -/
def mxScaled (s : Nat) : FVal → FVal
  | .fin n m e => if s = 255 then .nan else .fin n m (e + Int.ofNat s - 127)
  | v => if s = 255 then .nan else v

/-- The exact value of element `i`, scaled for MX by the scale byte of its block of 32. -/
def elemVal (fmt : Nat) (elems scales : List Byte) (i : Nat) : FVal :=
  match elemFmt fmt with
  | some f =>
    let v := fDecode f (unpackAt fmt elems i)
    if isMx fmt then mxScaled (leAt scales (i / 32) 1) v else v
  | none => .nan

/-- Cast an exact value to a FMT that is not MX or INT32 (R257, R317): FP8 saturates. -/
def castTo (fmt : Nat) (rnd : Rnd) (v : FVal) : Nat :=
  match elemFmt fmt with
  | some f => fRound f (f.width ≤ 8) rnd v
  | none => 0

/-- The FP32 elements of a piece's payload, each converted exactly (R317); a scaled MX value beyond FP32 becomes infinity. -/
def pieceToF32 (fmt n : Nat) (payload : List Byte) : List Word :=
  let scales := payload.drop (packedBytes fmt n)
  (List.range n).map fun i => toF32 (elemVal fmt payload scales i)

end Sys2Proof.Machine
end

