-- ==== Sys2Proof/Machine/Packet.lean ====
section
/-! DEFINITION. Coordinates (R34), packets (R110-R115) and their wire form, flits (R94-R96), and what the opcode table of R113
says of each opcode. -/

namespace Sys2Proof

open Machine

/-! ## Coordinates (R34) -/

/-- Plane field of an EPC. -/
def epcPlane (e : Epc) : Nat := bits e.toNat 23 21
/-- Rack field of an EPC. -/
def epcRack (e : Epc) : Nat := bits e.toNat 20 13
/-- Seat field of an EPC. -/
def epcSeat (e : Epc) : Nat := bits e.toNat 12 5
/-- Unit field of an EPC. -/
def epcUnit (e : Epc) : Nat := bits e.toNat 4 0
/-- An EPC from its fields (R34). -/
def mkEpc (plane rack seat unit : Nat) : Epc :=
  BitVec.ofNat 24 (plane % 8 * 2 ^ 21 + rack % 256 * 2 ^ 13 + seat % 256 * 2 ^ 5 + unit % 32)
/-- The same end point with another Unit. -/
def epcWithUnit (e : Epc) (u : Nat) : Epc := mkEpc (epcPlane e) (epcRack e) (epcSeat e) u
/-- Two EPCs name the same end point: all but the Unit field agree. -/
def sameSeat (a b : Epc) : Bool := a.toNat / 32 == b.toNat / 32

/-! ## Opcodes (R113) -/

def opREAD : Byte := 0x01
def opREAD_VOL : Byte := 0x02
def opWRITE : Byte := 0x03
def opWRITE_MASK : Byte := 0x04
def opATOMIC : Byte := 0x05
def opREG_READ : Byte := 0x06
def opREG_WRITE : Byte := 0x07
def opTAKE_SHARED : Byte := 0x10
def opTAKE_EXCL : Byte := 0x11
def opGIVE : Byte := 0x12
def opEVICT_NOTICE : Byte := 0x13
def opSNOOP_INV : Byte := 0x30
def opFWD_SHARED : Byte := 0x31
def opFWD_EXCL : Byte := 0x32
def opRECALL : Byte := 0x33
def opCOMP : Byte := 0x40
def opDATA : Byte := 0x41
def opCOMP_ACK : Byte := 0x42
def opSNOOP_RESP : Byte := 0x43
def opSNOOP_DATA : Byte := 0x44
def opCOLL_PUSH : Byte := 0x60
def opCOLL_PARTIAL : Byte := 0x61
def opCOLL_RESULT : Byte := 0x62
def opCOLL_COUNT : Byte := 0x63
def opCOLL_A2A : Byte := 0x64
def opREVOKE : Byte := 0x65
def opSTREAM_WRITE : Byte := 0x70
def opTELEMETRY : Byte := 0x71

/-- The operation-field formats of R112. -/
inductive Fmt where
  | m | f | r | k | s
  deriving DecidableEq, Repr

/-- The format of an opcode; none for a reserved opcode (R113). -/
def fmtOf (o : Byte) : Option Fmt :=
  let n := o.toNat
  if (1 ≤ n && n ≤ 7) || (0x10 ≤ n && n ≤ 0x13) then some .m
  else if 0x30 ≤ n && n ≤ 0x33 then some .f
  else if 0x40 ≤ n && n ≤ 0x44 then some .r
  else if 0x60 ≤ n && n ≤ 0x65 then some .k
  else if n = 0x70 || n = 0x71 then some .s
  else none

/-- The classes an opcode allows (R113). -/
def classesOf (o : Byte) : List Nat :=
  if o = opREAD_VOL || o = opWRITE || o = opWRITE_MASK then [0, 1]
  else if o = opCOMP || o = opDATA then [0, 3]
  else match fmtOf o with
    | some .m => [1]
    | some .f => [2]
    | some .r => [3]
    | some .k => [4]
    | some .s => [5]
    | none => []

/-- The LENGTHs an opcode allows (R113), for a status and an ASIZE where they matter. -/
def lengthOk (o : Byte) (len asize status : Nat) : Bool :=
  if o = opWRITE || o = opSNOOP_DATA then len == 128
  else if o = opWRITE_MASK then len == 144
  else if o = opREG_WRITE then (len == 4 && asize == 2) || (len == 8 && asize == 3)
  else if o = opGIVE then len == 0 || len == 128
  else if o = opDATA then (if status = 0 then len == 128 || len == 4 || len == 8 else len == 0)
  else if o = opREVOKE then len == 0
  else if o = opSTREAM_WRITE then 128 ≤ len && len ≤ 4096 && len % 128 == 0
  else match fmtOf o with
    | some .k => 1 ≤ len && len ≤ 4096
    | some .s => 1 ≤ len && len ≤ 4096
    | _ => len == 0

/-! ## Fields of the operation field (R112): header byte 20 is bits [7:0] of `opf` -/

/-- OFFSET (formats M, F, R, S). -/
def Packet.offset (p : Packet) : Nat := bits p.opf.toNat 39 0
/-- ASIZE (format M). -/
def Packet.asize (p : Packet) : Nat := bits p.opf.toNat 43 40
/-- AOP (format M). -/
def Packet.aop (p : Packet) : Nat := bits p.opf.toNat 47 44
/-- TAG (formats M, F, R). -/
def Packet.tag (p : Packet) : BitVec 16 := BitVec.ofNat 16 (bits p.opf.toNat 63 48)
/-- TOKEN (formats M, R). -/
def Packet.token (p : Packet) : BitVec 16 := BitVec.ofNat 16 (bits p.opf.toNat 79 64)
/-- REQ (format F). -/
def Packet.req (p : Packet) : Epc := BitVec.ofNat 24 (bits p.opf.toNat 87 64)
/-- STATE (format R): 0 I, 1 S, 2 E, 3 M, 4 F. -/
def Packet.lstate (p : Packet) : BitVec 3 := BitVec.ofNat 3 (bits p.opf.toNat 42 40)
/-- FWD_DATA (format R). -/
def Packet.fwdData (p : Packet) : Bool := bit p.opf.toNat 43
/-- EVICTING (format R). -/
def Packet.evicting (p : Packet) : Bool := bit p.opf.toNat 44
/-- GROUP (format K). -/
def Packet.group (p : Packet) : Nat := bits p.opf.toNat 9 0
/-- STEP (format K). -/
def Packet.step (p : Packet) : Word := BitVec.ofNat 32 (bits p.opf.toNat 47 16)
/-- CHUNK (format K). -/
def Packet.chunk (p : Packet) : Word := BitVec.ofNat 32 (bits p.opf.toNat 79 48)
/-- STRAND (format K): false A, true B. -/
def Packet.strand (p : Packet) : Bool := bit p.opf.toNat 80
/-- FMT (format K). -/
def Packet.fmt (p : Packet) : Nat := bits p.opf.toNat 87 84
/-- PIECE (format K). -/
def Packet.piece (p : Packet) : Nat := bits p.opf.toNat 91 88

/-- Operation field of format M. -/
def opfM (offset asize aop : Nat) (tag token : BitVec 16) : BitVec 96 :=
  BitVec.ofNat 96 (offset % 2 ^ 40 + asize % 16 * 2 ^ 40 + aop % 16 * 2 ^ 44 + tag.toNat * 2 ^ 48 + token.toNat * 2 ^ 64)
/-- Operation field of format F. -/
def opfF (offset : Nat) (tag : BitVec 16) (req : Epc) : BitVec 96 :=
  BitVec.ofNat 96 (offset % 2 ^ 40 + tag.toNat * 2 ^ 48 + req.toNat * 2 ^ 64)
/-- Operation field of format R. -/
def opfR (offset : Nat) (state : BitVec 3) (fwd evicting : Bool) (tag token : BitVec 16) : BitVec 96 :=
  BitVec.ofNat 96 (offset % 2 ^ 40 + state.toNat * 2 ^ 40 + b2n fwd * 2 ^ 43 + b2n evicting * 2 ^ 44 + tag.toNat * 2 ^ 48
    + token.toNat * 2 ^ 64)
/-- Operation field of format K. -/
def opfK (group : Nat) (step chunk : Word) (strand : Bool) (fmt piece : Nat) : BitVec 96 :=
  BitVec.ofNat 96 (group % 1024 + step.toNat * 2 ^ 16 + chunk.toNat * 2 ^ 48 + b2n strand * 2 ^ 80 + fmt % 16 * 2 ^ 84
    + piece % 16 * 2 ^ 88)
/-- Operation field of format S. -/
def opfS (offset : Nat) : BitVec 96 := BitVec.ofNat 96 (offset % 2 ^ 40)

/-! ## Wire form -/

/-- Wire length W in bytes (R111). -/
def wireLen (enc : Bool) (len : Nat) : Nat := 16 * ((32 + (if enc then 32 else 0) + len + 15) / 16)
/-- Wire length of a packet. -/
def Packet.wire (p : Packet) : Nat := wireLen p.enc p.length.toNat
/-- Cells, and so credits, of a packet (R105). -/
def Packet.cells (p : Packet) : Nat := (p.wire + 255) / 256
/-- The class as a number. -/
def Packet.vc (p : Packet) : Nat := p.cls.toNat

/-- The 32 header bytes (R110). -/
def Packet.header (p : Packet) : List Byte :=
  leBytes 1 p.opcode.toNat ++
  leBytes 1 (p.cls.toNat + b2n p.enc * 8 + b2n p.flag * 16 + b2n p.mcast * 32 + b2n p.opn * 64 + b2n p.retx * 128) ++
  leBytes 3 p.dest.toNat ++ leBytes 3 p.src.toNat ++ leBytes 1 p.partition.toNat ++ leBytes 2 p.job.toNat ++
  leBytes 1 (p.status.toNat + p.hint.toNat * 16) ++ leBytes 2 p.seq.toNat ++ leBytes 2 p.length.toNat ++
  leBytes 4 p.regionKey.toNat ++ leBytes 12 p.opf.toNat

/-- The bytes of a packet on the wire: header, extension, payload, tag and padding to W (R111, R123). -/
def Packet.toBytes (p : Packet) : List Byte :=
  let body := p.header ++ (if p.enc then leBytes 16 p.ext.toNat else []) ++ p.payload ++
    (if p.enc then leBytes 16 p.gtag.toNat else [])
  body ++ List.replicate (p.wire - body.length) 0

/-- Largest packet of a class, in cells (R108). -/
def maxCells (c : Nat) : Nat := if c = 4 || c = 5 then 17 else 1

/-- The packet a byte string begins with, and how many bytes it takes; none until all of it is there (R97, R110, R111). A header
whose LENGTH is above its class's largest packet (R115) is seen at once. -/
def parsePacket (bs : List Byte) : Option (Packet × Nat) :=
  if bs.length < 32 then none
  else
    let b1 := leAt bs 1 1
    let enc := bit b1 3
    let len := leAt bs 14 2 % 2 ^ 13
    let w := wireLen enc len
    if bs.length < w && decide ((w + 255) / 256 ≤ maxCells (b1 % 8)) then none
    else
      let po := if enc then 48 else 32
      some ({ opcode := BitVec.ofNat 8 (leAt bs 0 1), cls := BitVec.ofNat 3 b1, enc := enc, flag := bit b1 4,
              mcast := bit b1 5, opn := bit b1 6, retx := bit b1 7, dest := BitVec.ofNat 24 (leAt bs 2 3),
              src := BitVec.ofNat 24 (leAt bs 5 3), partition := BitVec.ofNat 8 (leAt bs 8 1),
              job := BitVec.ofNat 16 (leAt bs 9 2), status := BitVec.ofNat 4 (leAt bs 11 1),
              hint := BitVec.ofNat 4 (leAt bs 11 1 / 16), seq := BitVec.ofNat 16 (leAt bs 12 2),
              length := BitVec.ofNat 13 len, regionKey := BitVec.ofNat 32 (leAt bs 16 4),
              opf := BitVec.ofNat 96 (leAt bs 20 12), ext := if enc then BitVec.ofNat 128 (leAt bs 32 16) else 0,
              payload := slice bs po len, gtag := if enc then BitVec.ofNat 128 (leAt bs (po + len) 16) else 0 }, w)

/-! ## Checks of R115 -/

/-- R115's last case: a LENGTH above the class's largest packet. -/
def Packet.framing (p : Packet) : Bool := decide (maxCells p.vc < p.cells)

/-- The ASIZE check of R115. -/
def asizeOk (p : Packet) : Bool :=
  if p.opcode = opREG_READ || p.opcode = opREG_WRITE then p.asize == 2 || p.asize == 3
  else if p.opcode = opATOMIC then true
  else match fmtOf p.opcode with
    | some .m => p.asize == 0
    | _ => true

/-- The OFFSET alignment check of R115. -/
def offsetOk (p : Packet) : Bool :=
  if p.opcode = opATOMIC then true
  else if p.opcode = opREG_READ || p.opcode = opREG_WRITE then p.offset % 2 ^ p.asize == 0
  else match fmtOf p.opcode with
    | some .m | some .f | some .s => p.offset % 128 == 0
    | _ => true

/-- R115: the packet is discarded without completion. -/
def Packet.malformed (p : Packet) : Bool :=
  (fmtOf p.opcode).isNone || !((classesOf p.opcode).contains p.vc) ||
  !(lengthOk p.opcode p.length.toNat p.asize p.status.toNat) || !(asizeOk p) || !(offsetOk p) ||
  (p.mcast && !(p.opcode == opCOLL_RESULT || p.opcode == opREVOKE || p.opcode == opSTREAM_WRITE)) ||
  (p.flag && !(p.opcode == opWRITE || p.opcode == opWRITE_MASK)) || (p.enc && p.job == 0)

/-- A request that expects a completion: format M (R113). -/
def Packet.isRequest (p : Packet) : Bool := fmtOf p.opcode == some .m

/-- A response that a source matches by pair, SEQ and TAG: COMP or DATA. -/
def Packet.isCompletion (p : Packet) : Bool := p.opcode == opCOMP || p.opcode == opDATA

/-- A packet of the module's making, in clear, with the fields most packets share. -/
def mkPkt (opcode : Byte) (cls : Nat) (dest src : Epc) (opf : BitVec 96) (payload : List Byte) : Packet :=
  { opcode := opcode, cls := BitVec.ofNat 3 cls, enc := false, flag := false, mcast := false, opn := false, retx := false,
    dest := dest, src := src, partition := 0, job := 0, status := 0, hint := 0, seq := 0,
    length := BitVec.ofNat 13 payload.length, regionKey := 0, opf := opf, ext := 0, payload := payload, gtag := 0 }

/-- Which response answers a request (R113): DATA for those that return a line or a value, COMP otherwise. -/
def answersWithData (o : Byte) : Bool :=
  o == opREAD || o == opREAD_VOL || o == opATOMIC || o == opREG_READ || o == opTAKE_SHARED || o == opTAKE_EXCL

/-- The response to a request, in the destination's name (R110, R112, R113, R498): the request's SRC as DEST and DEST as SRC,
its PARTITION, JOB, SEQ, TAG and OFFSET, in C0 where it was in C0 and in C3 otherwise; a status other than OK carries no data. -/
def answerPkt (p : Packet) (status : Nat) (state : Nat) (token : BitVec 16) (hint : Nat) (data : List Byte) : Packet :=
  let d := if status = 0 then data else []
  { mkPkt (if answersWithData p.opcode then opDATA else opCOMP) (if p.vc = 0 then 0 else 3) p.src p.dest
      (opfR p.offset (BitVec.ofNat 3 state) false false p.tag token) d with
    partition := p.partition, job := p.job, status := BitVec.ofNat 4 status, hint := BitVec.ofNat 4 hint, seq := p.seq }

/-! ## Status codes (R114) -/

def stOK : Nat := 0
def stDEFERRED : Nat := 1
def stPOISON : Nat := 2
def stKEYFAIL : Nat := 3
def stNOREGION : Nat := 4
def stPARTITION : Nat := 5
def stUNREACHABLE : Nat := 6
def stRETIRED : Nat := 7

/-- A requester treats a reserved STATUS as UNREACHABLE (R114). -/
def statusOf (p : Packet) : Nat := if 8 ≤ p.status.toNat then stUNREACHABLE else p.status.toNat

/-! ## Flits (R94-R96) -/

/-- The control word (R95). -/
def Flit.control (f : Flit) : Nat :=
  f.seq.toNat + f.fvc.toNat * 2 ^ 12 + b2n f.stop * 2 ^ 15 + f.ackSeq.toNat * 2 ^ 16 + f.ackKind.toNat * 2 ^ 28 +
  f.c0Grant.toNat * 2 ^ 32 + f.crVc.toNat * 2 ^ 44 + f.crGrant.toNat * 2 ^ 48

/-- The CRC that R96 gives for bytes 0-247 of the flit. -/
def Flit.goodCrc (f : Flit) : BitVec 64 := crc64 (slice f.payload 0 240 ++ leBytes 8 f.control)

/-- The flit with its CRC field made good. -/
def Flit.seal (f : Flit) : Flit := { f with crc := f.goodCrc }

/-- Parse the packets of a class stream (R97): whole packets, and the bytes of a partly received one. A byte 0x00 at a packet
boundary ends the flit's bytes. -/
def parseStream : Nat → List Byte → List Packet × List Byte
  | 0, bs => ([], bs)
  | n + 1, bs =>
    match bs with
    | [] => ([], [])
    | b :: _ =>
      if b = 0 then ([], [])
      else match parsePacket bs with
        | none => ([], bs)
        | some (p, w) => let (ps, rest) := parseStream n (bs.drop w); (p :: ps, rest)

end Sys2Proof
end

