-- ==== Sys2Proof/Machine/RegMap.lean ====
section
/-! DEFINITION. The module register space as a table (R6 and the register table of every chapter): where each register lies,
how its words repeat, and each field's bits, access code (R12) and reserved encodings (R11). Registers are named as the
manual names them; a name applied to its index is the offset of its first word. -/

namespace Sys2Proof.Machine

/-- A field's access code (R12). `rwsW1c` is a W1C field marked RWS. -/
inductive Acc where
  | ro | rw | w1c | wo | rwc | rws | rwsW1c
  deriving DecidableEq, Repr

/-- A field: word within the register, bits, access code, the encodings that are not reserved (none listed: all are
allowed), and whether it reads as zero although it is stored. -/
structure FieldRow where
  word : Nat
  hi : Nat
  lo : Nat
  acc : Acc
  legal : List (Nat × Nat) := []
  hidden : Bool := false
  deriving DecidableEq, Repr

/-- A register: offset of its first instance, how instances repeat (stride and count, outermost first), its words, whether
two words are one 64-bit register (R7), and its fields. -/
structure RegRow where
  base : Nat
  dims : List (Nat × Nat)
  words : Nat
  wide : Bool
  fields : List FieldRow
  deriving DecidableEq, Repr

/-! ## Offsets -/

def IDN_PART : Nat := 0x00
def IDN_STEP : Nat := 0x04
def IDN_SERIAL : Nat := 0x08
def IDN_SIZES : Nat := 0x10
def IDN_ACCESS_ERR : Nat := 0x20
def IDN_ACCESS_ADDR : Nat := 0x24
def IDN_SCRATCH : Nat := 0x28

def CFG_STATUS : Nat := 0x100000
def CFG_RESULT : Nat := 0x100004
def CFG_CUR_VERSION : Nat := 0x100008
def CFG_PREV_VERSION : Nat := 0x100010
def CFG_STG_VERSION : Nat := 0x100018
def CFG_STG_STATE : Nat := 0x100020
def CFG_PROBATION : Nat := 0x100024
def CFG_PROBE_LEFT : Nat := 0x100028
def CFG_BUF : Nat := 0x100030
def CFG_LEN : Nat := 0x100038
def CFG_CMD : Nat := 0x10003C
def CFG_STG_DIGEST : Nat := 0x100040
def CFG_CUR_DIGEST : Nat := 0x100060

def PWR_STATUS : Nat := 0x200000
def PWR_CAP : Nat := 0x200004
def PWR_CFG : Nat := 0x200008
def PWR_IDLE_CFG : Nat := 0x20000C
def PWR_CMD : Nat := 0x200010
def PWR_MEASURE : Nat := 0x200014
def PWR_MEASURES : Nat := 0x200018
def PWR_INPUTS : Nat := 0x20001C
def PWR_RESET_CAUSE : Nat := 0x200020
def PWR_COUNTER : Nat := 0x200028
def PWR_PHASE_END (n : Nat) : Nat := 0x200040 + 4 * n

def LNK_PORT_CFG (p : Nat) : Nat := 0x400000 + 0x1000 * p
def LNK_PORT_EXPECT (p : Nat) : Nat := 0x400004 + 0x1000 * p
def LNK_PORT_STATUS (p : Nat) : Nat := 0x400008 + 0x1000 * p
def LNK_PORT_PARTNER (p : Nat) : Nat := 0x40000C + 0x1000 * p
def LNK_PORT_PART (p : Nat) : Nat := 0x400010 + 0x1000 * p
def LNK_PORT_EVENTS (p : Nat) : Nat := 0x400014 + 0x1000 * p
def LNK_PORT_CMD (p : Nat) : Nat := 0x400018 + 0x1000 * p
def LNK_LANE_STATUS (n : Nat) : Nat := 0x600000 + 0x100 * n
def LNK_LANE_QUAR (n : Nat) : Nat := 0x600004 + 0x100 * n
def LNK_LANE_ALIGN (n : Nat) : Nat := 0x600008 + 0x100 * n
def LNK_LANE_FEC_CORR (n : Nat) : Nat := 0x600010 + 0x100 * n
def LNK_LANE_FEC_UNCORR (n : Nat) : Nat := 0x600018 + 0x100 * n
def LNK_LANE_EYE_CTRL (n : Nat) : Nat := 0x600020 + 0x100 * n
def LNK_LANE_EYE_RESULT (n : Nat) : Nat := 0x600024 + 0x100 * n
def LNK_LANE_EYE_ERR (n : Nat) : Nat := 0x600028 + 0x100 * n
def LNK_LANE_OPT_RX (n : Nat) : Nat := 0x600030 + 0x100 * n
def LNK_LANE_OPT_LASER (n : Nat) : Nat := 0x600034 + 0x100 * n
def LNK_TWIN_STATUS : Nat := 0x700000
def LNK_MARGIN_CFG : Nat := 0x700004
def LNK_MARGIN_ALERT : Nat := 0x700008
def LNK_DROOP (d s : Nat) : Nat := 0x700100 + 4 * (4 * d + s)

def SWC_ROLE : Nat := 0x800000
def SWC_HASH_SEED : Nat := 0x800004
def SWC_BUF_CFG : Nat := 0x800008
def SWC_BUF_FREE : Nat := 0x800010
def SWC_BUF_HELD : Nat := 0x800014
def SWC_AUDIT : Nat := 0x800020
def SWC_AUDIT_RECLAIMED : Nat := 0x800024
def SWC_DRAIN_CFG : Nat := 0x800030
def SWC_DRAIN_STATUS : Nat := 0x800034
def SWC_DISC_MISDIR : Nat := 0x800040
def SWC_DISC_UNROUTE : Nat := 0x800048
def SWC_DISC_SPOOF : Nat := 0x800050
def SWC_DISC_MALFORMED : Nat := 0x800058
def SWC_DISC_DEADPORT : Nat := 0x800060
def SWC_MIRROR_SKIP : Nat := 0x800068
def SWC_ROUTE_EN (w : Nat) : Nat := 0x800100 + 4 * w
def SWC_SHOST (w : Nat) : Nat := 0x800180 + 4 * w
def SWC_SEAT (s : Nat) : Nat := 0x801000 + 4 * s
def SWC_DOWN (i : Nat) : Nat := 0x802000 + 4 * i
def SWC_MASK (k w : Nat) : Nat := 0x900000 + 64 * k + 4 * w
def SWC_C0_POLICE (p : Nat) : Nat := 0xA00000 + 0x100 * p
def SWC_DWRR (p : Nat) : Nat := 0xA00004 + 0x100 * p
def SWC_MARK (p : Nat) : Nat := 0xA00008 + 0x100 * p
def SWC_TCM_RATE (p : Nat) : Nat := 0xA0000C + 0x100 * p
def SWC_TCM_BURST (p : Nat) : Nat := 0xA00010 + 0x100 * p
def SWC_RED (p colour : Nat) : Nat := 0xA00014 + 0x100 * p + 4 * colour
def SWC_RED_CFG (p : Nat) : Nat := 0xA00020 + 0x100 * p
def SWC_MIRROR_N (p pair : Nat) : Nat := 0xA00024 + 0x100 * p + 4 * pair

def HOM_HOT_CFG : Nat := 0x1000000
def HOM_TIMEOUT : Nat := 0x1000004
def HOM_CONVOY : Nat := 0x1000008
def HOM_COH_ERR : Nat := 0x1000020
def HOM_COH_ERR_EPC : Nat := 0x1000024
def HOM_SDIR_PRIMARY (d : Nat) : Nat := 0x1000100 + 0x40 * d
def HOM_SDIR_EXT (d : Nat) : Nat := 0x1000104 + 0x40 * d
def HOM_POOL (d : Nat) : Nat := 0x1000108 + 0x40 * d
def HOM_HOT (d : Nat) : Nat := 0x100010C + 0x40 * d
def HOM_RECALLS (d : Nat) : Nat := 0x1000110 + 0x40 * d
def HOM_DEFERRED (d : Nat) : Nat := 0x1000118 + 0x40 * d
def HOM_REGION (i w : Nat) : Nat := 0x1100000 + 32 * i + 4 * w

def MEM_STATUS : Nat := 0x1400000
def MEM_TRAIN_CFG : Nat := 0x1400004
def MEM_TRAIN_STATUS : Nat := 0x1400008
def MEM_SCRUB_CFG : Nat := 0x140000C
def MEM_SCRUB_STATUS : Nat := 0x1400010
def MEM_ERR_LAST : Nat := 0x1400020
def MEM_CE_COUNT (n : Nat) : Nat := 0x1400100 + 8 * n
def MEM_UE_COUNT (n : Nat) : Nat := 0x1400180 + 8 * n
def MEM_INTEG_FAIL : Nat := 0x1400200
def MEM_SEAL_FAIL : Nat := 0x1400208
def MEM_SEAL_USED (d t : Nat) : Nat := 0x1400210 + 4 * (2 * d + t)

def HAL_STATUS : Nat := 0x1800000
def HAL_ERR : Nat := 0x1800004
def HAL_SLICE_FRAME : Nat := 0x1800008
def HAL_SLOT_RETIRED : Nat := 0x1800020
def HAL_SLOT_WASTED : Nat := 0x1800028
def HAL_SLOT_FRONT : Nat := 0x1800030
def HAL_SLOT_BACK : Nat := 0x1800038
def HAL_MAC_USEFUL : Nat := 0x1800040
def HAL_WATCH (w : Nat) : Nat := 0x1800100 + 8 * w
def HAL_SEM (s : Nat) : Nat := 0x1802000 + 4 * s
def HAL_SEM_ADD (s : Nat) : Nat := 0x1803000 + 4 * s
def HAL_CTX_CFG (c : Nat) : Nat := 0x1801000 + 0x100 * c
def HAL_CTX_PANTRY (c : Nat) : Nat := 0x1801004 + 0x100 * c
def HAL_CTX_CUP_BASE (c : Nat) : Nat := 0x1801008 + 0x100 * c
def HAL_CTX_CUP_SIZE (c : Nat) : Nat := 0x180100C + 0x100 * c
def HAL_CTX_DMA (c : Nat) : Nat := 0x1801010 + 0x100 * c
def HAL_CTX_SHARE (c : Nat) : Nat := 0x1801014 + 0x100 * c
def HAL_CTX_JOB (c : Nat) : Nat := 0x1801018 + 0x100 * c
def HAL_CTX_PT_BASE (c : Nat) : Nat := 0x1801020 + 0x100 * c
def HAL_CTX_LIST (c : Nat) : Nat := 0x1801028 + 0x100 * c
def HAL_CTX_CTRL (c : Nat) : Nat := 0x1801030 + 0x100 * c
def HAL_CTX_STATUS (c : Nat) : Nat := 0x1801034 + 0x100 * c
def HAL_CTX_ERR_VA (c : Nat) : Nat := 0x1801038 + 0x100 * c
def HAL_CTX_ERR_DETAIL (c : Nat) : Nat := 0x1801040 + 0x100 * c

def COL_STATUS : Nat := 0x1C00000
def COL_TIMEOUT : Nat := 0x1C00004
def COL_ERR : Nat := 0x1C00008
def COL_RECOMBINES : Nat := 0x1C00010
def COL_MOVES : Nat := 0x1C00018
def COL_REVOKES : Nat := 0x1C00020
def COL_REISSUES : Nat := 0x1C00028
def COL_DUPLICATES : Nat := 0x1C00030
def COL_TRIG_IGNORED : Nat := 0x1C00038
def COL_A2A_DROPS : Nat := 0x1C00040
def COL_GSTATE (g w : Nat) : Nat := 0x1C10000 + 16 * g + 4 * w
def COL_GROUP (g w : Nat) : Nat := 0x1C20000 + 128 * g + 4 * w
def COL_MEMBER (i : Nat) : Nat := 0x1E00000 + 4 * i

def FLT_STATUS : Nat := 0x2000000
def FLT_RING_CFG : Nat := 0x2000004
def FLT_RING_BASE : Nat := 0x2000008
def FLT_RING_HEAD : Nat := 0x2000010
def FLT_RING_TAIL : Nat := 0x2000014
def FLT_QUEUE : Nat := 0x2000018
def FLT_QUEUE_HEAD : Nat := 0x2000020
def FLT_QUEUE_POP : Nat := 0x2000040
def FLT_OVF (s : Nat) : Nat := 0x2000100 + 4 * s
def FLT_SUSPECT_CFG : Nat := 0x2000200
def FLT_WINDOW : Nat := 0x2000204
def FLT_SCORE (p : Nat) : Nat := 0x2000C00 + 4 * p
def FLT_TWIN_CFG : Nat := 0x2000800
def FLT_TWIN_CMD : Nat := 0x2000804
def FLT_RESYNC : Nat := 0x2000808
def FLT_ALIAS (w : Nat) : Nat := 0x2000810 + 4 * w
def FLT_ALIAS_CFG : Nat := 0x2000820
def FLT_ALIAS_OFFSET : Nat := 0x2000828
def FLT_STANDBY_BASE : Nat := 0x2000830
def FLT_RETIRED (r : Nat) : Nat := 0x2000900 + 4 * r
def FLT_SPARE (q : Nat) : Nat := 0x2000A00 + 4 * q

def SEC_STATUS : Nat := 0x2400000
def SEC_FUSE : Nat := 0x2400004
def SEC_SVN : Nat := 0x2400008
def SEC_BOOTS : Nat := 0x240000C
def SEC_JOBKEYS : Nat := 0x2400010
def SEC_VIOLATIONS : Nat := 0x2400018
def SEC_PART_USE (w : Nat) : Nat := 0x2400020 + 4 * w
def SEC_PART_MIRROR (w : Nat) : Nat := 0x2400040 + 4 * w
def SEC_ADMIT (p w : Nat) : Nat := 0x2401000 + 32 * p + 4 * w
def SEC_W_CMD (w : Nat) : Nat := 0x2410000 + 0x1000 * w
def SEC_W_STATUS (w : Nat) : Nat := 0x2410004 + 0x1000 * w
def SEC_W_BUF (w : Nat) : Nat := 0x2410008 + 0x1000 * w
def SEC_W_LEN (w : Nat) : Nat := 0x2410010 + 0x1000 * w
def SEC_W_NONCE (w k : Nat) : Nat := 0x2410020 + 0x1000 * w + 4 * k
def SEC_W_ITEMS (w k : Nat) : Nat := 0x2410800 + 0x1000 * w + 4 * k

def HST_PORT_STATUS (j : Nat) : Nat := 0x2800000 + 0x100 * j
def HST_PORT_CFG (j : Nat) : Nat := 0x2800004 + 0x100 * j
def HST_IN_BASE (j : Nat) : Nat := 0x2800008 + 0x100 * j
def HST_PORT_ERR (j : Nat) : Nat := 0x2800010 + 0x100 * j
def HST_IN_COUNT (j : Nat) : Nat := 0x2800018 + 0x100 * j
def HST_IN_DISCARD (j : Nat) : Nat := 0x2800020 + 0x100 * j
def HST_ALERT_MASK : Nat := 0x2800200
def HST_ALERT_STATE : Nat := 0x2800204
def HST_FN (j f : Nat) : Nat := 0x2810000 + 0x8000 * j + 0x100 * f
def HST_FN_CFG (j f : Nat) : Nat := HST_FN j f
def HST_FN_INKEY (j f : Nat) : Nat := HST_FN j f + 0x04
def HST_FN_ERR (j f : Nat) : Nat := HST_FN j f + 0x08
def HST_FN_ERR_ADDR (j f : Nat) : Nat := HST_FN j f + 0x10
def HST_FN_FENCE (j f : Nat) : Nat := HST_FN j f + 0x18
def HST_FN_FENCE_STATUS (j f : Nat) : Nat := HST_FN j f + 0x20
def HST_FN_NOTE_BASE (j f : Nat) : Nat := HST_FN j f + 0x28
def HST_FN_NOTE_HEAD (j f : Nat) : Nat := HST_FN j f + 0x30
def HST_FN_NOTE_TAIL (j f : Nat) : Nat := HST_FN j f + 0x34
def HST_AP_BASE (j f a : Nat) : Nat := HST_FN j f + 0x40 + 0x10 * a
def HST_AP_CTRL (j f a : Nat) : Nat := HST_FN j f + 0x48 + 0x10 * a
def HST_AP_KEY (j f a : Nat) : Nat := HST_FN j f + 0x4C + 0x10 * a
def HST_MSIX (j f w : Nat) : Nat := HST_FN j f + 0x80 + 4 * w
def HST_PBA (j f : Nat) : Nat := HST_FN j f + 0xC0

def CNT_SNAP : Nat := 0x2C00008
def CNT_CMD : Nat := 0x2C00010
def CNT_CHAIN (w : Nat) : Nat := 0x2C00100 + 4 * w
def CNT_OVF (w : Nat) : Nat := 0x2C00200 + 4 * w
def CNT_SLOT_CFG (s : Nat) : Nat := 0x2C00400 + 4 * s
def CNT_SLOT_OWNER (s : Nat) : Nat := 0x2C00500 + 4 * s
def CNT_LIVE (s : Nat) : Nat := 0x2C01000 + 64 * s
def CNT_LIVE_HI (s : Nat) : Nat := 0x2C01008 + 64 * s
def CNT_VIEW_STATUS (s : Nat) : Nat := 0x2C0100C + 64 * s
def CNT_SNAP_LO (s : Nat) : Nat := 0x2C01010 + 64 * s
def CNT_SNAP_HI (s : Nat) : Nat := 0x2C01018 + 64 * s
def CNT_SNAP_STATUS (s : Nat) : Nat := 0x2C0101C + 64 * s
def CNT_SNAP_STAMP (s : Nat) : Nat := 0x2C01020 + 64 * s

/-! ## The table -/

/-- A field `[hi:lo]` of word `w`. -/
def fld (w hi lo : Nat) (a : Acc) (legal : List (Nat × Nat) := []) : FieldRow := ⟨w, hi, lo, a, legal, false⟩

/-- A stored field that reads as zero (R235, R466). -/
def hid (w hi lo : Nat) (a : Acc) : FieldRow := ⟨w, hi, lo, a, [], true⟩

/-- A single 32-bit register. -/
def r1 (base : Nat) (fs : List FieldRow) : RegRow := ⟨base, [], 1, false, fs⟩
/-- A single 64-bit register. -/
def r2 (base : Nat) (fs : List FieldRow) : RegRow := ⟨base, [], 2, true, fs⟩
/-- Repeated 32-bit registers. -/
def rn (base stride count : Nat) (fs : List FieldRow) : RegRow := ⟨base, [(stride, count)], 1, false, fs⟩
/-- Repeated 64-bit registers. -/
def rn2 (base stride count : Nat) (fs : List FieldRow) : RegRow := ⟨base, [(stride, count)], 2, true, fs⟩
/-- A 32-bit field row of one access code in word `w`. -/
def all32 (w : Nat) (a : Acc) : FieldRow := fld w 31 0 a
/-- A 64-bit counter's fields. -/
def cnt64 : List FieldRow := [all32 0 .ro, all32 1 .ro]

def rowsIdn : List RegRow := [
  r1 IDN_PART [all32 0 .ro], r1 IDN_STEP [fld 0 15 0 .ro], r2 IDN_SERIAL cnt64, r1 IDN_SIZES [fld 0 30 0 .ro],
  r1 IDN_ACCESS_ERR [fld 0 0 0 .w1c, fld 0 1 1 .w1c, fld 0 4 2 .ro, fld 0 17 8 .ro],
  r1 IDN_ACCESS_ADDR [fld 0 25 0 .ro], r1 IDN_SCRATCH [all32 0 .rw]]

def rowsCfg : List RegRow := [
  r1 CFG_STATUS [fld 0 7 0 .ro], r1 CFG_RESULT [fld 0 4 0 .ro, fld 0 11 8 .ro], r2 CFG_CUR_VERSION cnt64,
  r2 CFG_PREV_VERSION cnt64, r2 CFG_STG_VERSION cnt64, r1 CFG_STG_STATE [fld 0 2 0 .ro],
  r1 CFG_PROBATION [fld 0 4 0 .rwc, fld 0 31 16 .rwc], r1 CFG_PROBE_LEFT [fld 0 14 0 .ro],
  r2 CFG_BUF [fld 0 31 20 .rw, fld 1 7 0 .rw], r1 CFG_LEN [fld 0 25 0 .rw [(0, 0x3000000)]],
  r1 CFG_CMD [fld 0 2 0 .wo [(1, 7)], fld 0 3 3 .wo, fld 0 4 4 .wo],
  ⟨CFG_STG_DIGEST, [], 8, false, (List.range 8).map (all32 · .ro)⟩,
  ⟨CFG_CUR_DIGEST, [], 8, false, (List.range 8).map (all32 · .ro)⟩]

def rowsPwr : List RegRow := [
  r1 PWR_STATUS [fld 0 10 0 .ro], r1 PWR_CAP [fld 0 15 0 .rw],
  r1 PWR_CFG [fld 0 10 0 .rwc [(1150, 1450)], fld 0 12 11 .rwc [(0, 2)]],
  r1 PWR_IDLE_CFG [fld 0 15 0 .rwc [(1, 65535)], fld 0 31 16 .rwc [(1, 65535)]],
  r1 PWR_CMD [fld 0 2 0 .wo [(0, 1), (3, 4)], fld 0 3 3 .wo], r1 PWR_MEASURE [all32 0 .ro],
  r1 PWR_MEASURES [fld 0 25 0 .ro],
  r1 PWR_INPUTS ([fld 0 4 0 .ro] ++ (List.range 5).map (fun b => fld 0 (8 + b) (8 + b) .w1c) ++
    (List.range 5).map (fun b => fld 0 (16 + b) (16 + b) .w1c)),
  r1 PWR_RESET_CAUSE ((List.range 5).map (fun b => fld 0 b b .rwsW1c)), r2 PWR_COUNTER cnt64,
  rn (PWR_PHASE_END 0) 4 6 [all32 0 .ro]]

/-- LNK rows: `np` fabric ports and `nl` fabric lanes exist (R93), with the twin ports and lanes. -/
def rowsLnk (np nl : Nat) : List RegRow :=
  let port (o : Nat) (fs : List FieldRow) : List RegRow :=
    [rn (0x400000 + o) 0x1000 np fs, rn (0x400000 + o + 0x1000 * 256) 0x1000 2 fs]
  let lane (o : Nat) (fs : List FieldRow) : List RegRow :=
    [rn (0x600000 + o) 0x100 nl fs, rn (0x600000 + o + 0x100 * 512) 0x100 16 fs]
  let lane2 (o : Nat) : List RegRow :=
    [rn2 (0x600000 + o) 0x100 nl cnt64, rn2 (0x600000 + o + 0x100 * 512) 0x100 16 cnt64]
  port 0x00 [fld 0 0 0 .rwc, fld 0 3 1 .rwc [(1, 4)], fld 0 7 4 .rwc [(1, 8)], fld 0 9 8 .rwc, fld 0 10 10 .rwc,
    fld 0 11 11 .rwc, fld 0 31 16 .rwc [(1, 65535)]] ++
  port 0x04 [fld 0 23 0 .rwc] ++ port 0x08 [fld 0 18 0 .ro] ++ port 0x0C [fld 0 23 0 .ro] ++ port 0x10 [all32 0 .ro] ++
  port 0x14 ((List.range 7).map (fun b => fld 0 b b .w1c)) ++ port 0x18 [fld 0 0 0 .wo] ++
  lane 0x00 [fld 0 7 0 .ro] ++ lane 0x04 [fld 0 17 0 .ro] ++
  lane 0x08 [fld 0 0 0 .rw, fld 0 1 1 .wo, fld 0 2 2 .w1c, fld 0 31 16 .ro] ++ lane2 0x10 ++ lane2 0x18 ++
  lane 0x20 [fld 0 0 0 .rw, fld 0 7 2 .rw [(10, 40)], fld 0 15 8 .rw, fld 0 23 16 .rw, fld 0 25 24 .rw [(0, 2)]] ++
  lane 0x24 [fld 0 18 0 .ro, fld 0 31 24 .ro] ++ lane2 0x28 ++ lane 0x30 [all32 0 .ro] ++ lane 0x34 [all32 0 .ro] ++
  [r1 LNK_TWIN_STATUS [fld 0 3 0 .ro, fld 0 31 16 .ro],
   r1 LNK_MARGIN_CFG [fld 0 7 0 .rw, fld 0 15 8 .rw, fld 0 23 16 .rw, fld 0 31 24 .rw],
   r1 LNK_MARGIN_ALERT ((List.range 3).map (fun b => fld 0 b b .w1c)),
   rn (LNK_DROOP 0 0) 4 16 [fld 0 23 0 .ro, fld 0 31 31 .wo]]

def rowsSwc : List RegRow := [
  r1 SWC_ROLE [fld 0 0 0 .rwc, fld 0 3 1 .rwc, fld 0 11 4 .rwc, fld 0 19 12 .rwc, fld 0 27 20 .rwc],
  r1 SWC_HASH_SEED [all32 0 .rwc], r1 SWC_BUF_CFG [fld 0 19 0 .rwc, fld 0 27 20 .rwc], r1 SWC_BUF_FREE [fld 0 19 0 .ro],
  r1 SWC_BUF_HELD [fld 0 19 0 .ro], r1 SWC_AUDIT [all32 0 .ro], r1 SWC_AUDIT_RECLAIMED [all32 0 .rws],
  r1 SWC_DRAIN_CFG [fld 0 15 0 .rwc [(1, 65535)], fld 0 31 16 .rwc [(1, 65535)]], r1 SWC_DRAIN_STATUS [all32 0 .ro],
  r2 SWC_DISC_MISDIR cnt64, r2 SWC_DISC_UNROUTE cnt64, r2 SWC_DISC_SPOOF cnt64, r2 SWC_DISC_MALFORMED cnt64,
  r2 SWC_DISC_DEADPORT cnt64, r2 SWC_MIRROR_SKIP cnt64, rn (SWC_ROUTE_EN 0) 4 8 [all32 0 .ro],
  rn (SWC_SHOST 0) 4 4 [all32 0 .rwc], rn (SWC_SEAT 0) 4 256 [fld 0 1 0 .rwc, fld 0 9 2 .rwc],
  rn (SWC_DOWN 0) 4 256 [fld 0 7 0 .rwc, fld 0 14 8 .rwc, fld 0 15 15 .rwc],
  ⟨SWC_MASK 0 0, [(64, 4096)], 16, false, (List.range 12).map (all32 · .rwc) ++ [fld 12 0 0 .rwc]⟩,
  rn (SWC_C0_POLICE 0) 0x100 256 [fld 0 10 0 .rwc [(0, 1024)]],
  rn (SWC_DWRR 0) 0x100 256 ((List.range 4).map (fun k => fld 0 (8 * k + 7) (8 * k) .rwc [(1, 255)])),
  rn (SWC_MARK 0) 0x100 256 [fld 0 15 0 .rwc],
  rn (SWC_TCM_RATE 0) 0x100 256 [fld 0 15 0 .rwc [(0, 1024)], fld 0 31 16 .rwc [(0, 1024)]],
  rn (SWC_TCM_BURST 0) 0x100 256 [fld 0 15 0 .rwc, fld 0 31 16 .rwc],
  ⟨SWC_RED 0 0, [(0x100, 256), (4, 3)], 1, false, [fld 0 11 0 .rwc, fld 0 23 12 .rwc, fld 0 31 24 .rwc]⟩,
  rn (SWC_RED_CFG 0) 0x100 256 [fld 0 3 0 .rwc [(1, 15)], fld 0 15 4 .rwc],
  ⟨SWC_MIRROR_N 0 0, [(0x100, 256), (4, 3)], 1, false, [fld 0 15 0 .rwc, fld 0 31 16 .rwc]⟩]

def rowsHom : List RegRow := [
  r1 HOM_HOT_CFG [fld 0 7 0 .rwc [(16, 255)], fld 0 20 8 .rwc [(1024, 7168)]],
  r1 HOM_TIMEOUT [fld 0 15 0 .rwc [(100, 1000)], fld 0 31 16 .rwc [(100, 1000)]],
  r1 HOM_CONVOY [fld 0 4 0 .rwc [(1, 16)]], r1 HOM_COH_ERR ((List.range 5).map (fun b => fld 0 b b .w1c)),
  r1 HOM_COH_ERR_EPC [fld 0 23 0 .ro], rn (HOM_SDIR_PRIMARY 0) 0x40 2 [fld 0 21 0 .ro],
  rn (HOM_SDIR_EXT 0) 0x40 2 [fld 0 19 0 .ro], rn (HOM_POOL 0) 0x40 2 [fld 0 13 0 .ro, fld 0 29 16 .ro],
  rn (HOM_HOT 0) 0x40 2 [all32 0 .ro], rn2 (HOM_RECALLS 0) 0x40 2 cnt64, rn2 (HOM_DEFERRED 0) 0x40 2 cnt64,
  ⟨HOM_REGION 0 0, [(32, 16384)], 8, false,
    [fld 0 19 0 .rwc] ++ (List.range 9).map (fun b => fld 0 (20 + b) (20 + b) .rwc) ++
    [fld 1 19 0 .rwc [(1, 0xFFFFF)], fld 1 27 20 .rwc, hid 2 31 0 .rwc, fld 3 23 0 .rwc, fld 4 8 0 .rwc, fld 5 19 0 .rwc]⟩]

/-- MEM rows: `ns` stacks and `ng` groups exist (R246). -/
def rowsMem (ns ng : Nat) : List RegRow := [
  r1 MEM_STATUS [fld 0 14 0 .ro], r1 MEM_TRAIN_CFG [fld 0 0 0 .rwc, fld 0 15 8 .rwc [(5, 40)]],
  r1 MEM_TRAIN_STATUS [fld 0 23 0 .ro], r1 MEM_SCRUB_CFG [fld 0 7 0 .rwc [(1, 168)], fld 0 8 8 .rwc],
  r1 MEM_SCRUB_STATUS [all32 0 .ro], r2 MEM_ERR_LAST [all32 0 .ro, fld 1 14 0 .ro],
  rn2 (MEM_CE_COUNT 0) 8 ns cnt64, rn2 (MEM_CE_COUNT 4) 8 ng cnt64, rn2 (MEM_UE_COUNT 0) 8 ns cnt64,
  rn2 (MEM_UE_COUNT 4) 8 ng cnt64, r2 MEM_INTEG_FAIL cnt64, r2 MEM_SEAL_FAIL cnt64,
  rn (MEM_SEAL_USED 0 0) 4 4 [fld 0 23 0 .ro]]

def rowsHal : List RegRow := [
  r1 HAL_STATUS [fld 0 10 0 .ro], r1 HAL_ERR ((List.range 3).map (fun b => fld 0 b b .w1c)),
  r1 HAL_SLICE_FRAME [fld 0 15 0 .rwc [(100, 10000)]], r2 HAL_SLOT_RETIRED cnt64, r2 HAL_SLOT_WASTED cnt64,
  r2 HAL_SLOT_FRONT cnt64, r2 HAL_SLOT_BACK cnt64, r2 HAL_MAC_USEFUL cnt64,
  rn2 (HAL_WATCH 0) 8 16 [all32 0 .rwc, fld 1 8 0 .rwc, fld 1 31 31 .rwc], rn (HAL_SEM 0) 4 256 [all32 0 .ro],
  rn (HAL_SEM_ADD 0) 4 256 [all32 0 .wo],
  rn (HAL_CTX_CFG 0) 0x100 16 [fld 0 7 0 .rwc, fld 0 9 8 .rwc, fld 0 10 10 .rwc, fld 0 23 16 .rwc, fld 0 31 24 .rwc [(1, 255)]],
  rn (HAL_CTX_PANTRY 0) 0x100 16 [fld 0 11 0 .rwc, fld 0 23 12 .rwc], rn (HAL_CTX_CUP_BASE 0) 0x100 16 [fld 0 17 0 .rwc],
  rn (HAL_CTX_CUP_SIZE 0) 0x100 16 [fld 0 18 0 .rwc [(0, 262144)]], rn (HAL_CTX_DMA 0) 0x100 16 [fld 0 15 0 .rwc],
  rn (HAL_CTX_SHARE 0) 0x100 16 [fld 0 7 0 .rwc], rn (HAL_CTX_JOB 0) 0x100 16 [fld 0 15 0 .rwc, fld 0 19 16 .rwc, fld 0 20 20 .rwc],
  rn2 (HAL_CTX_PT_BASE 0) 0x100 16 [fld 0 31 20 .rwc, fld 1 7 0 .rwc],
  rn2 (HAL_CTX_LIST 0) 0x100 16 [fld 0 31 7 .rw, fld 1 15 0 .rw],
  rn (HAL_CTX_CTRL 0) 0x100 16 [fld 0 0 0 .wo, fld 0 1 1 .wo],
  rn (HAL_CTX_STATUS 0) 0x100 16 [fld 0 3 0 .ro, fld 0 11 8 .ro], rn2 (HAL_CTX_ERR_VA 0) 0x100 16 [all32 0 .ro, fld 1 15 0 .ro],
  rn2 (HAL_CTX_ERR_DETAIL 0) 0x100 16 [all32 0 .ro, fld 1 19 0 .ro]]

def rowsCol : List RegRow := [
  r1 COL_STATUS [fld 0 2 0 .ro], r1 COL_TIMEOUT [fld 0 15 0 .rwc [(1, 10000)], fld 0 31 16 .rwc [(1, 6000)]],
  r1 COL_ERR ((List.range 7).map (fun b => fld 0 b b .w1c)), r2 COL_RECOMBINES cnt64, r2 COL_MOVES cnt64, r2 COL_REVOKES cnt64,
  r2 COL_REISSUES cnt64, r2 COL_DUPLICATES cnt64, r2 COL_TRIG_IGNORED cnt64, r2 COL_A2A_DROPS cnt64,
  ⟨COL_GSTATE 0 0, [(16, 1024)], 4, false, [all32 0 .ro, all32 1 .ro, fld 2 3 0 .ro, fld 3 15 0 .ro]⟩,
  ⟨COL_GROUP 0 0, [(128, 1024)], 32, false,
    [fld 0 0 0 .rwc, fld 0 3 1 .rwc [(0, 6)], fld 0 7 4 .rwc, fld 0 11 8 .rwc, fld 0 15 12 .rwc, fld 0 19 16 .rwc,
     fld 0 21 20 .rwc [(0, 2)], fld 0 23 22 .rwc, fld 0 26 24 .rwc, fld 1 15 0 .rwc, fld 1 23 16 .rwc, fld 1 31 24 .rwc,
     fld 2 14 0 .rwc, fld 2 24 16 .rwc, fld 3 18 0 .rwc, fld 4 18 0 .rwc, fld 5 11 0 .rwc, fld 5 31 16 .rwc, fld 6 23 0 .rwc,
     all32 7 .rwc, all32 8 .rwc, all32 9 .rwc, all32 10 .rwc, fld 11 15 0 .rwc, fld 11 28 16 .rwc,
     all32 12 .rwc, fld 13 7 0 .rwc, all32 14 .rwc, fld 15 7 0 .rwc, all32 16 .rwc, fld 17 7 0 .rwc, all32 18 .rwc,
     fld 19 7 0 .rwc, all32 20 .rwc, fld 21 7 0 .rwc, fld 22 14 0 .rwc]⟩,
  rn (COL_MEMBER 0) 4 524288 [fld 0 23 0 .rwc, fld 0 24 24 .rwc]]

def rowsFlt : List RegRow := [
  r1 FLT_STATUS [fld 0 10 0 .ro], r1 FLT_RING_CFG [fld 0 0 0 .rwc, fld 0 3 1 .rwc],
  r2 FLT_RING_BASE [fld 0 31 21 .rwc, fld 1 7 0 .rwc], r1 FLT_RING_HEAD [all32 0 .ro], r1 FLT_RING_TAIL [all32 0 .rw],
  r1 FLT_QUEUE [fld 0 15 0 .ro], ⟨FLT_QUEUE_HEAD, [], 8, false, (List.range 8).map (all32 · .ro)⟩,
  r1 FLT_QUEUE_POP [fld 0 0 0 .wo], rn (FLT_OVF 0) 4 16 [fld 0 23 0 .ro, fld 0 24 24 .w1c, fld 0 27 25 .ro],
  r1 FLT_SUSPECT_CFG [fld 0 7 0 .rwc, fld 0 11 8 .rwc, fld 0 15 12 .rwc, fld 0 19 16 .rwc [(1, 15)], fld 0 20 20 .rwc],
  r1 FLT_WINDOW [fld 0 15 0 .rwc [(1, 60000)]], rn (FLT_SCORE 0) 4 258 [fld 0 27 0 .ro, fld 0 28 28 .w1c],
  r1 FLT_TWIN_CFG [fld 0 0 0 .rwc, fld 0 31 16 .rwc [(10, 1000)]], r1 FLT_TWIN_CMD [fld 0 0 0 .wo],
  r1 FLT_RESYNC [fld 0 19 0 .ro], ⟨FLT_ALIAS 0, [], 4, false, (List.range 4).map (all32 · .ro)⟩,
  r1 FLT_ALIAS_CFG [fld 0 11 0 .rwc, fld 0 12 12 .rwc], r2 FLT_ALIAS_OFFSET [fld 0 31 7 .rwc, fld 1 7 0 .rwc],
  r2 FLT_STANDBY_BASE [fld 0 31 27 .rwc, fld 1 7 0 .rwc], rn (FLT_RETIRED 0) 4 64 [fld 0 23 0 .rwc, fld 0 24 24 .rwc],
  rn (FLT_SPARE 0) 4 32 [fld 0 23 0 .rwc, fld 0 24 24 .rwc, fld 0 25 25 .ro]]

def rowsSec : List RegRow := [
  r1 SEC_STATUS [fld 0 17 0 .ro], r1 SEC_FUSE [fld 0 10 0 .ro, fld 0 31 16 .ro], r1 SEC_SVN [all32 0 .ro],
  r1 SEC_BOOTS [all32 0 .ro], r1 SEC_JOBKEYS [fld 0 12 0 .ro], r2 SEC_VIOLATIONS cnt64, rn (SEC_PART_USE 0) 4 8 [all32 0 .ro],
  rn (SEC_PART_MIRROR 0) 4 8 [all32 0 .rwc], rn (SEC_ADMIT 0 0) 4 2048 [all32 0 .rwc],
  rn (SEC_W_CMD 0) 0x1000 5 [fld 0 1 0 .wo [(1, 3)], fld 0 9 2 .wo [(1, 128)], fld 0 10 10 .wo, fld 0 18 11 .wo],
  rn (SEC_W_STATUS 0) 0x1000 5 [fld 0 15 0 .ro, fld 0 16 16 .w1c], rn2 (SEC_W_BUF 0) 0x1000 5 [fld 0 31 19 .rw, fld 1 7 0 .rw],
  rn (SEC_W_LEN 0) 0x1000 5 [fld 0 19 0 .rw], ⟨SEC_W_NONCE 0 0, [(0x1000, 5), (4, 8)], 1, false, [all32 0 .rw]⟩,
  ⟨SEC_W_ITEMS 0 0, [(0x1000, 5), (4, 512)], 1, false, [all32 0 .rw]⟩]

def rowsHst : List RegRow :=
  let fn (o : Nat) (fs : List FieldRow) : RegRow := ⟨0x2810000 + o, [(0x8000, 2), (0x100, 128)], 1, false, fs⟩
  let fn2 (o : Nat) (fs : List FieldRow) : RegRow := ⟨0x2810000 + o, [(0x8000, 2), (0x100, 128)], 2, true, fs⟩
  [rn (HST_PORT_STATUS 0) 0x100 2 [fld 0 17 0 .ro], rn (HST_PORT_CFG 0) 0x100 2 [fld 0 0 0 .rwc, fld 0 1 1 .rwc],
   rn2 (HST_IN_BASE 0) 0x100 2 [fld 0 31 12 .rw, all32 1 .rw],
   rn (HST_PORT_ERR 0) 0x100 2 ((List.range 5).map (fun b => fld 0 b b .w1c)), rn2 (HST_IN_COUNT 0) 0x100 2 cnt64,
   rn2 (HST_IN_DISCARD 0) 0x100 2 cnt64, r1 HST_ALERT_MASK [fld 0 5 0 .rwc], r1 HST_ALERT_STATE [fld 0 5 0 .ro],
   fn 0x00 [fld 0 7 0 .rwc, fld 0 12 8 .rwc, fld 0 13 13 .rwc, fld 0 14 14 .rwc], fn 0x04 [hid 0 31 0 .rw],
   fn 0x08 ((List.range 4).map (fun b => fld 0 b b .w1c) ++ [fld 0 7 4 .ro]), fn2 0x10 cnt64, fn 0x18 [fld 0 0 0 .wo],
   fn2 0x20 [fld 0 0 0 .ro, fld 0 7 4 .ro, fld 0 31 8 .ro, all32 1 .ro], fn2 0x28 [fld 0 31 13 .rw, all32 1 .rw],
   fn 0x30 [all32 0 .ro], fn 0x34 [all32 0 .rw],
   ⟨0x2810040, [(0x8000, 2), (0x100, 128), (0x10, 4)], 2, true, [fld 1 31 4 .rw]⟩,
   ⟨0x2810048, [(0x8000, 2), (0x100, 128), (0x10, 4)], 1, false, (List.range 4).map (fun b => fld 0 b b .rw)⟩,
   ⟨0x281004C, [(0x8000, 2), (0x100, 128), (0x10, 4)], 1, false, [hid 0 31 0 .rw]⟩,
   ⟨0x2810080, [(0x8000, 2), (0x100, 128), (4, 16)], 1, false, [all32 0 .rw]⟩, fn2 0xC0 [fld 0 3 0 .ro]]

def rowsCnt : List RegRow := [
  r2 CNT_SNAP [all32 0 .wo, all32 1 .wo], r1 CNT_CMD [fld 0 1 0 .wo [(1, 2)], fld 0 13 2 .wo],
  rn (CNT_CHAIN 0) 4 48 [all32 0 .rw], rn (CNT_OVF 0) 4 96 ((List.range 32).map (fun b => fld 0 b b .w1c)),
  rn (CNT_SLOT_CFG 0) 4 64 [fld 0 11 0 .rw], rn (CNT_SLOT_OWNER 0) 4 64 [fld 0 0 0 .rwc, fld 0 8 1 .rwc],
  rn2 (CNT_LIVE 0) 64 64 cnt64, rn (CNT_LIVE_HI 0) 64 64 [all32 0 .ro], rn (CNT_VIEW_STATUS 0) 64 64 [fld 0 14 0 .ro],
  rn2 (CNT_SNAP_LO 0) 64 64 cnt64, rn (CNT_SNAP_HI 0) 64 64 [all32 0 .ro], rn (CNT_SNAP_STATUS 0) 64 64 [fld 0 14 0 .ro],
  rn2 (CNT_SNAP_STAMP 0) 64 64 cnt64, ⟨0x2C01028, [(64, 64), (4, 6)], 1, false, []⟩]

/-- The rows of one block, by the offset's block (R6), for a family member. -/
def blockRows (hz7134 : Bool) (off : Nat) : List RegRow :=
  if off < 0x100000 then rowsIdn
  else if off < 0x200000 then rowsCfg
  else if off < 0x400000 then rowsPwr
  else if off < 0x800000 then rowsLnk (if hz7134 then 128 else 256) (if hz7134 then 256 else 512)
  else if off < 0x1000000 then rowsSwc
  else if off < 0x1400000 then rowsHom
  else if off < 0x1800000 then rowsMem (if hz7134 then 2 else 4) (if hz7134 then 4 else 8)
  else if off < 0x1C00000 then rowsHal
  else if off < 0x2000000 then rowsCol
  else if off < 0x2400000 then rowsFlt
  else if off < 0x2800000 then rowsSec
  else if off < 0x2C00000 then rowsHst
  else if off < 0x3000000 then rowsCnt
  else []

/-- The block an offset lies in, numbered in the order of R6; 13 outside every block. -/
def blockOf (off : Nat) : Nat :=
  if off < 0x100000 then 0 else if off < 0x200000 then 1 else if off < 0x400000 then 2 else if off < 0x800000 then 3
  else if off < 0x1000000 then 4 else if off < 0x1400000 then 5 else if off < 0x1800000 then 6
  else if off < 0x1C00000 then 7 else if off < 0x2000000 then 8 else if off < 0x2400000 then 9
  else if off < 0x2800000 then 10 else if off < 0x2C00000 then 11 else if off < 0x3000000 then 12 else 13

/-- Strip the repetition of a register from an offset relative to its base: the indices and the rest. -/
def splitDims : List (Nat × Nat) → Nat → Option (List Nat × Nat)
  | [], r => some ([], r)
  | (stride, count) :: ds, r =>
    if r / stride < count then
      match splitDims ds (r % stride) with
      | some (is, r') => some (r / stride :: is, r')
      | none => none
    else none

/-- Does a 4-byte-aligned offset fall in this register? Its indices and word. -/
def RegRow.hit (r : RegRow) (off : Nat) : Option (List Nat × Nat) :=
  if off < r.base then none
  else match splitDims r.dims (off - r.base) with
    | some (is, rest) => if rest < 4 * r.words then some (is, rest / 4) else none
    | none => none

/-- Where a 4-byte-aligned offset of the MRS lies: its register, indices and word; none when unmapped (R6, R9). -/
def findReg (hz7134 : Bool) (off : Nat) : Option (RegRow × List Nat × Nat) :=
  (blockRows hz7134 off).findSome? fun r => (r.hit off).map fun (is, w) => (r, is, w)

/-- The Reset value of a stored register word (R15, R92, R443); zero for all others. IDN words are views of the part. The
vector control word of each MSI-X entry resets with its mask bit set, as PCI Express has it (R466; log entry 9). -/
def regReset (off : Nat) : Word :=
  if off = LNK_TWIN_STATUS then 3 else if off = LNK_MARGIN_CFG then 0x141E0A0D else if off = PWR_RESET_CAUSE then 1
  else if HST_FN 0 0 ≤ off && off < HST_FN 2 0 && off % 0x100 / 0x40 = 2 && off % 0x10 = 0xC then 1 else 0

end Sys2Proof.Machine
end

