-- ==== Sys2Proof/Machine/State.lean ====
section
/-! DEFINITION. The state of the module, as plain data: every register (one sparse store, keyed by its offset in the module
register space), every table, queue, buffer, cache, counter and engine the manual names, and the queue of waiting commands.
A field's rule stands in its docstring; reset values are those of State.reset at the end (log entries 1 and 2). -/

namespace Sys2Proof.Machine

/-- Why the module stops: no row of the table has such an effect, so no meaning raises one. Kept as the interface's second
outcome; its one constructor says what would raise it. Safe: nothing raises it. -/
inductive Fault where
  /-- The module's supplies were exceeded beyond R495 (damage). No command of the table reports it; raised by nothing; safe. -/
  | damaged
  deriving DecidableEq, Repr

/-- Why a command has no meaning in the model. -/
inductive Refusal where
  /-- Raised only by exec's arm of a command whose meaning is not written yet. Safe: the model stops. -/
  | notModelled (mnemonic : String)
  deriving DecidableEq, Repr

/-! ## Outputs -/

/-- A message the module sends on the twin link outside the Asquin packet format (R30): the manual gives no wire format (log entry 7). -/
inductive TwinMsg where
  | mirror (m : MirrorMsg)
  | mirrorAck
  | handoff
  | resyncStart
  | resyncEnd
  | digest (d : BitVec 256)
  | locket (l : List Byte)
  | partitionKeys (p : Byte) (check : BitVec 64) (kemCt wrapped : List Byte) (tag : BitVec 128)
  deriving DecidableEq, Repr

/-- One thing that left the module. The list of them is the output tape (log entry 7). -/
inductive OutEvent where
  | flit (p : Nat) (f : Flit)
  | idle (p : Nat)
  | block (lane : Nat) (kind : Byte) (payload : BitVec 56)
  | silent (lane : Nat)
  | burst (lane : Nat)
  | twin (m : TwinMsg)
  | dmaRead (j fn : Nat) (n : Nat) (addr len : Nat)
  | dmaWrite (j fn : Nat) (addr : Nat) (data : List Byte)
  | msix (j fn vec : Nat)
  | readData (path : Path) (val : BitVec 64)
  | pcieData (j fn : Nat) (x : Nat) (data : List Byte)
  | pcieAtomic (j fn : Nat) (x : Nat) (old : BitVec 128)
  | i3cInterrupt (mdb : Byte)
  | mgmtTelemetry (p : Packet)
  | mirrorRecord (bytes : List Byte)
  deriving DecidableEq, Repr

/-! ## Part, fuses -/

/-- What is fixed in or fused into the part (R1, R16, R377, R380, R397): the member, the stepping word and serial number,
the fuse words, the fused seed and key digests. -/
structure PartInfo where
  hz7134 : Bool
  step : Word
  serial : BitVec 64
  fuse : Word
  svn : Word
  seed : BitVec 256
  fwKeys : List (BitVec 256)
  opKeys : List (BitVec 256)
  romDigest : BitVec 256
  deriving DecidableEq, Repr

/-! ## Lanes and ports -/

/-- The training phase a lane is in (R73). -/
inductive LanePhase where
  | off | detect | lock | exchange | equalise | verify | readyWait | inPort | failed
  deriving DecidableEq, Repr

/-- A lane's state beside its registers (R73-R91). -/
structure Lane where
  phase : LanePhase := .off
  retried : Bool := false
  deadline : Nat := 0
  completed : Option Nat := none
  stored : Bool := false
  useStored : Bool := false
  cap : Option (BitVec 384) := none
  readyTx : Bool := false
  readyRx : Bool := false
  losses : List Nat := []
  quarUntil : Nat := 0
  cleanSince : Nat := 0
  eiRx : Bool := false
  restartAt : Nat := 0
  manualSince : Nat := 0
  idleDeadline : Nat := 0
  deriving DecidableEq, Repr

/-- A flit in the replay buffer (R101) with the packets whose bytes it carries (for R163 step 3). -/
structure ReplayEntry where
  flit : Flit
  carries : List Packet
  sentAt : Nat
  deriving DecidableEq, Repr

/-- One side's WIDTH announcement (R83). -/
structure WidthMsg where
  seq : Byte
  mask : Byte
  boundary : BitVec 24
  deriving DecidableEq, Repr

/-- The link state of a port (R94-R108). -/
structure PortLink where
  period : Nat := 0
  txSeq : BitVec 12 := 0
  replay : List ReplayEntry := []
  resend : Option Nat := none
  lastReq : Option (BitVec 12) := none
  oldestTries : Nat := 0
  rtt : Option Nat := none
  probe : Option (BitVec 12 × Nat) := none
  rxNext : BitVec 12 := 0
  rxFailed : Bool := false
  owed : Nat := 0
  stopRx : Bool := false
  stopTx : Bool := false
  stopHush : Bool := false
  spent : Vector Nat 6 := Vector.replicate 6 0
  grant : Vector (Option (BitVec 12)) 6 := Vector.replicate 6 none
  init : Vector Nat 6 := Vector.replicate 6 0
  freed : Vector Nat 6 := Vector.replicate 6 0
  waitTokens : Nat := 0
  tokens : Nat := 0
  tokenAt : Nat := 0
  rot : Nat := 0
  rxBuf : Vector (List Byte) 6 := Vector.replicate 6 []
  sfAt : Nat := 0
  widthSeq : Byte := 0
  widthMine : Option WidthMsg := none
  widthPeer : Option WidthMsg := none
  busyAt : Nat := 0
  idleAt : Nat := 0
  checkAt : Nat := 0
  skewFail : Bool := false
  outAt : Nat := 0
  narrowed : Bool := false
  sentBase : Nat := 0
  deriving DecidableEq, Repr

/-- The scheduler, marker, dropper and mirror state of an egress point or port (R147, R153-R156); `c5Share` is the part of a slot, in
1/256, that C5 has gathered under C5_RATE (R428); `tc` and `tp` what the marker's buckets lacked at `tcmAt`. -/
structure PortSw where
  deficit : Vector Nat 6 := Vector.replicate 6 0
  rr : Nat := 1
  c5Share : Nat := 0
  avgC5 : Nat := 0
  tc : Nat := 0
  tp : Nat := 0
  tcmAt : Nat := 0
  marked : Vector Bool 6 := Vector.replicate 6 false
  noteAt : Vector Nat 6 := Vector.replicate 6 0
  lastIn : Vector (Option Packet) 6 := Vector.replicate 6 none
  arrivals : Vector Nat 6 := Vector.replicate 6 0
  samples : Vector Nat 6 := Vector.replicate 6 0
  skips : Vector Nat 6 := Vector.replicate 6 0
  deriving DecidableEq, Repr

/-! ## Switch core -/

/-- Which of R142's queue kinds holds an entry; `hearth` holds packets passed to an agent on the Hearth itself that it has not
taken yet. -/
inductive QKind where
  | out | mcast (n : Fin 64) | hold | combOut | hearth
  deriving DecidableEq, Repr

/-- C5 colours (R154). -/
inductive Colour where
  | green | yellow | red
  deriving DecidableEq, Repr

/-- A packet in the shared buffer: its targets with the bytes each has sent, and how many of its cells were freed. -/
structure QEntry where
  pkt : Packet
  ing : Ingress
  period : Nat
  kind : QKind
  targets : List (Egress × Nat)
  freed : Nat
  colour : Colour
  dup : Bool
  deriving DecidableEq, Repr

/-- A mirror record waiting for Annex (R156, R157). -/
structure MirrorRec where
  stamp : Nat
  port : Nat
  cls : Nat
  trunc : Bool
  wire : Nat
  samples : Nat
  skips : Nat
  copied : List Byte
  deriving DecidableEq, Repr

/-- Who asked for a drain: Clasp's queue head, a configuration commit or return, or the module for a port (R138). -/
inductive DrainOwner where
  | request (w : Nat) | commitJob | returnJob | port (p : Nat)
  deriving DecidableEq, Repr

/-- A drain in progress (R163): the register words it will make live. Its STATE is SWC_DRAIN_STATUS. -/
structure Drain where
  owner : DrainOwner
  shadow : List (Nat × Word)
  enable : List Nat
  startAt : Nat
  settleAt : Nat
  deriving DecidableEq, Repr

/-- The switch core (R135-R163). -/
structure Switch where
  free : Nat
  queue : List QEntry := []
  held : Nat := 0
  mirror : List MirrorRec := []
  drain : Option Drain := none
  spray : SMap Nat := []
  lastMissing : Nat := 0
  nextAudit : Nat := 0
  routeAdd : SMap Nat := []
  stopReserve : Bool := false
  deriving DecidableEq, Repr

/-! ## End-to-end layer -/

/-- A deferral of a pair context (R174). -/
structure Deferral where
  dseq : BitVec 16
  token : BitVec 16
  hint : BitVec 4
  deriving DecidableEq, Repr

/-- A destination pair context (R118). -/
structure PairCtx where
  src : Epc
  dst : Epc
  expect : BitVec 16
  stamp : Nat
  deferral : Option Deferral
  deriving DecidableEq, Repr

/-- A source's pair (R116, R117, R120). -/
structure SrcPair where
  src : Epc
  dst : Epc
  nextSeq : BitVec 16
  lastSend : Nat
  opened : Bool
  dead : Bool
  deriving DecidableEq, Repr

/-- On whose behalf a request of the module was issued. A `fn` of 128 stands for a host function whose link has gone since, so that the
completion is discarded (R458). -/
inductive Agent where
  | fetch (c : Nat) (va : BitVec 48)
  | walk (c : Nat) (va : BitVec 48) (level : Nat)
  | dma (c id line : Nat)
  | chunk (g : Nat) (step chunk : Word)
  | stepRec (g : Nat) (step : Word)
  | gather (g : Nat) (step chunk : Word) (piece : Nat) (member : Option Epc)
  | ring
  | probe
  | delivery (i : Nat)
  | bar (j fn : Nat) (x n : Nat) (rd : Bool)
  | barAtomic (j fn : Nat) (x size aop : Nat) (operand compare : BitVec 128)
  | cacheGive (j : Nat)
  | clasp (w : Nat)
  deriving DecidableEq, Repr

/-- Where a request of the module stands: held behind a flagged write (R178, R180), sent, or deferred until a time (R175). -/
inductive OutState where
  | held | sent | deferred (token : BitVec 16) (due : Nat)
  deriving DecidableEq, Repr

/-- A request of one of the module's own sources (R116, R122, R54). `fn` is the host function it counts for, if any. -/
structure OutReq where
  n : Nat
  pkt : Packet
  local_ : Bool
  agent : Agent
  fn : Option (Nat × Nat)
  st : OutState
  first : Nat
  last : Nat
  tries : Nat
  deriving DecidableEq, Repr

/-- A completed request that a flagged write or fence has not reported yet (R181, R183). -/
structure DoneReq where
  n : Nat
  src : Epc
  fn : Option (Nat × Nat)
  store : Bool
  status : BitVec 4
  dest : Epc
  deriving DecidableEq, Repr

/-- A fence in progress: it counts requests of its sources issued before `n` (R182); its report starts at `since` (R183). -/
structure FenceRun where
  id : FenceId
  srcs : List Epc
  fn : Option (Nat × Nat)
  n : Nat
  since : Nat
  deriving DecidableEq, Repr

/-- The end-to-end layer. `flagReport` is the report of the last flagged write sent (R181): the failed requests it covered; `stray` the requests R118 discards
and counts, whose counter the manual does not name (log entry 29). -/
structure E2E where
  ctxs : List PairCtx := []
  pairs : List SrcPair := []
  outs : List OutReq := []
  done : List DoneReq := []
  fences : List FenceRun := []
  lastFence : SMap Nat := []
  lastFlag : SMap Nat := []
  nextIssue : Nat := 1
  nextTag : BitVec 16 := 1
  flagReport : List DoneReq := []
  ivCount : SMap Nat := []
  stray : Nat := 0
  deriving DecidableEq, Repr

/-! ## Homes and memory -/

/-- A request placed in a line's queue (R192), with the stamp of its placing. -/
structure HReq where
  d : Delivered
  arrived : Nat
  deriving DecidableEq, Repr

/-- A C2 packet a transaction waits for (R200, R209): to whom, which opcode, TAG and REQ, when last sent and how often; `evict`
when it was answered EVICTING and the owner's announcement is awaited (R203); `given` when that announcement came first. -/
structure SnoopWait where
  holder : Epc
  opcode : Byte
  tag : BitVec 16
  req : Epc
  sentAt : Nat
  sends : Nat
  evict : Bool
  given : Bool
  deriving DecidableEq, Repr

/-- A grant whose COMP_ACK is awaited (R193, R210): to whom, the request's TAG and SEQ, the state granted, whether the DATA came
from the home, whether it came by a forward from an owner, and whether the home has recalled the requester. -/
structure GrantWait where
  who : Epc
  tag : BitVec 16
  seq : BitVec 16
  state : BitVec 3
  at_ : Nat
  byHome : Bool
  fromOwner : Bool
  recalled : Bool
  deriving DecidableEq, Repr

/-- The kind of a home's transaction: a request, the recall of a holder that asks again (R201), a victim recall (R198), a recall
for a region change or power-down (R238, R239), the twin's acknowledgement of a group of hot writes (R213), the recall that
makes a line hot (R212), a Shared run (R214), a convoy (R215), the twin's acknowledgement of a line copied in resynchronisation
(R350). -/
inductive TxnKind where
  | request | rerequest | victim | change | mirrorWait | hotEnter | sharedRun | convoy | resync
  deriving DecidableEq, Repr

/-- The active transaction of a line (R193). `stage`: 0 waits for snoop answers, 1 for the twin, 2 for COMP_ACKs. `mir` is set
while a mirrored change waits for the twin, sent at `since`. `fwd` records that a holder sent DATA to the requester (R203), `own`
that the line was Owned when the transaction began, `gone` the holders that answered in I. -/
structure Txn where
  kind : TxnKind
  req : Option HReq
  snoops : List SnoopWait := []
  grants : List GrantWait := []
  stage : Nat := 0
  mir : Bool := false
  since : Nat := 0
  fwd : Bool := false
  own : Bool := false
  gone : List Epc := []
  deriving DecidableEq, Repr

/-- A line's queue and hot-line state (R192, R212). -/
structure LineCtl where
  active : Option Txn := none
  queue : List HReq := []
  hot : Bool := false
  groupComps : List HReq := []
  deriving DecidableEq, Repr

/-- A sparse directory record (R196): the owner or F holder first when `first` says so. -/
structure DirRec where
  line : Nat
  owned : Bool
  fwd : Bool
  holders : List Epc
  granted : Nat
  extAt : Nat
  deriving DecidableEq, Repr

/-- An outstanding priority token (R217). -/
structure Token where
  line : Nat
  token : BitVec 16
  lapse : Nat
  deriving DecidableEq, Repr

/-- A deferral of one of the module's own Units at one home agent (R499). -/
structure UnitDefer where
  unit : Nat
  agent : Nat
  token : BitVec 16
  hint : BitVec 4
  deriving DecidableEq, Repr

/-- A counter line of a sealed region (R232): MAJOR and the 64 MINORs. -/
structure SealLine where
  major : BitVec 64 := 0
  minors : List Byte := List.replicate 64 0
  bad : Bool := false
  deriving DecidableEq, Repr

/-- The homes, their directories and the memory tiers (R190-R246). -/
structure Homes where
  mem : List Host.Cell := []
  dirBits : SMap (BitVec 2) := []
  lines : SMap LineCtl := []
  dir : List DirRec := []
  tokens : List Token := []
  tokenCtr : Vector Nat 2 := Vector.replicate 2 0
  unitDefers : List UnitDefer := []
  grantCtr : Nat := 0
  tagCtr : Nat := 0
  seals : SMap SealLine := []
  roots : SMap Nat := []
  standbyDir : List DirRec := []
  evacCopy : List Host.Cell := []
  evacSaved : List Nat := []
  rowErrs : SMap Nat := []
  spared : SMap Nat := []
  trained : Vector Bool 12 := Vector.replicate 12 false
  storedMem : Vector Bool 12 := Vector.replicate 12 false
  deriving DecidableEq, Repr

/-! ## Caches of the module -/

/-- A line held by one of the module's own caches: the EPC it was taken under (the Hall's is Unit 9), its home EPC, offset, state (R112 encoding) and data, with the partition, key,
job and job-key epoch under which it was taken (its GIVE goes under the same); `evicting` while its GIVE or EVICT_NOTICE is
outstanding, `requested` while its Take or ATOMIC is, `held` the forwards that wait for that (R221). -/
structure CacheLine where
  self : Epc := 0
  home : Epc := 0
  off : BitVec 40 := 0
  state : BitVec 3 := 0
  data : Line := 0
  part : Byte := 0
  key : Word := 0
  job : BitVec 16 := 0
  enc : Option (BitVec 4) := none
  evicting : Bool := false
  requested : Bool := false
  held : List Packet := []
  deriving DecidableEq, Repr

/-! ## Hall -/

/-- The engine instance that executes a command (R284). -/
inductive HInst where
  | array | vector | core (n : Fin 2) | dma (ch : Fin 16)
  deriving DecidableEq, Repr

/-- A dispatched command of a context that has not completed: whether it has begun, how many of its lines or passes were issued,
how many await a response, whether the last was issued, its error, and whether its completion condition holds (R251). -/
structure HCmd where
  id : Nat
  va : BitVec 48
  body : Line
  inst : HInst
  started : Bool := false
  issued : Nat := 0
  waiting : Nat := 0
  fullyIssued : Bool := false
  err : Nat := 0
  finished : Bool := false
  deriving DecidableEq, Repr

/-- A Hall context beside its registers (R247-R251, R279): the fetch under way, the command fetched, the commands dispatched and not
completed in dispatch order, the LOOPs under way with the repetitions left, the array cycles used in the frame, a change that
waits for STATE 0 (R283), and when STATE 2 began. -/
structure HallCtx where
  fetching : Option (BitVec 48) := none
  fetched : Option Line := none
  cmds : List HCmd := []
  loops : List (BitVec 48 × Nat) := []
  shareUsed : Nat := 0
  pendingCfg : List (Nat × Word) := []
  since : Nat := 0
  deriving DecidableEq, Repr

/-- The place an ARRAY operation has reached (R258): output tile, pass, failed tries of the pass, and accumulator bank. -/
structure ArrayRun where
  ctx : Nat
  id : Nat
  tile : Nat := 0
  pass : Nat := 0
  tries : Nat := 0
  bank : SMap Word := []
  deriving DecidableEq, Repr

/-- A cached translation (R273, R274). -/
structure TlbEntry where
  ctx : Nat
  vaPage : Nat
  big : Bool
  pte : BitVec 128
  deriving DecidableEq, Repr

/-- A translation walk in progress (R274); `stale` once a TLB_INV began after it (R275). -/
structure Walk where
  ctx : Nat
  va : BitVec 48
  level : Nat
  pte : Option (BitVec 128)
  stale : Bool
  deriving DecidableEq, Repr

/-- The Hall (R247-R302): contexts, Pantry, Cupboard by slot, cached translations and walks, the array's running, paused, spilled
and finishing operations, whether the array stands still at a tile boundary (R429, R431), the start of the share frame, the stamp up to which issue slots are counted, the core's turns. -/
structure Hall where
  ctxs : SMap HallCtx := []
  pantry : List Host.Cell := []
  cup : SMap CacheLine := []
  tlb : List TlbEntry := []
  walks : List Walk := []
  run : Option ArrayRun := none
  paused : List ArrayRun := []
  spilled : List ArrayRun := []
  spilling : Option ArrayRun := none
  restoring : Option ArrayRun := none
  epilogue : Option ArrayRun := none
  stopped : Bool := false
  frameAt : Nat := 0
  slotAt : Nat := 0
  turn : Vector Nat 2 := Vector.replicate 2 0
  nextId : Nat := 1
  deriving DecidableEq, Repr

/-! ## Collectives -/

/-- A member's step state at its leaf (R310). -/
structure MemberState where
  latest : Word := 0
  voted : Bool := false
  revoked : Bool := false
  deriving DecidableEq, Repr

/-- An accepted START (R327). -/
structure Arrival where
  member : Nat
  stamp : Nat
  rank : Nat
  deriving DecidableEq, Repr

/-- An input piece held by a combiner (R57, R316). -/
structure Input where
  src : Epc
  piece : Nat
  fmt : Nat
  payload : List Byte
  cells : Nat
  ing : Ingress
  period : Nat
  deriving DecidableEq, Repr

/-- A half being combined (R312, R319, R320). `done` holds the result payload of each passed piece; `tries` the failures on
the present combiner of each piece. -/
structure Half where
  g : Nat
  step : Word
  chunk : Word
  strand : Bool
  combiner : Bool
  moved : Bool
  inputs : List Input
  firstAt : Nat
  reissuedAt : Nat
  done : List (Nat × List Byte)
  tries : List (Nat × Nat)
  sent : Bool
  deriving DecidableEq, Repr

/-- A piece that an owner gathers (R325, R326): the member that asked for it again, the version slot it is read from, and the lines read. -/
structure Gather where
  g : Nat
  step : Word
  chunk : Nat
  piece : Nat
  member : Option Epc
  slot : Nat
  got : List (Nat × List Byte) := []
  deriving DecidableEq, Repr

/-- A step open at the module (R310). `seen` holds, for 2 × chunk + strand, when an owner first saw the chunk or last asked for the half
again (R323). -/
structure StepRec where
  g : Nat
  step : Word
  firstAt : Nat
  arrivals : List Arrival := []
  late : List Nat := []
  localVotes : Nat := 0
  voteSent : Bool := false
  arrivedSent : Bool := false
  written : List (Nat × Nat) := []
  pendingWrites : Nat := 0
  chunks : List (Nat × Nat × List Byte) := []
  shardDone : Bool := false
  failed : Bool := false
  gatherDone : Bool := false
  seen : List (Nat × Nat) := []
  ownerVoted : Bool := false
  published : Bool := false
  deriving DecidableEq, Repr

/-- The steward's tally of a step (R332-R334). -/
structure Tally where
  g : Nat
  step : Word
  firstAt : Nat
  leaves : List Epc := []
  votes : Nat := 0
  owners : List Nat := []
  arrivedFrom : List Epc := []
  arrived : Nat := 0
  deriving DecidableEq, Repr

/-- The books of one A2A pair at the destination's leaf (R328-R330). -/
structure A2aPair where
  g : Nat
  step : Word
  src : Nat
  dst : Nat
  kept : Nat := 0
  dropped : Nat := 0
  firstDrop : Word := 0
  firstPos : Nat := 0
  dropSent : Bool := false
  expect : Option Nat := none
  count : Option Nat := none
  deriving DecidableEq, Repr

/-- A group change that waits for its group (R308). -/
structure GroupChange where
  g : Nat
  words : List (Nat × Word)
  since : Nat
  owner : DrainOwner
  deriving DecidableEq, Repr

/-- Collectives (R303-R339). -/
structure Coll where
  members : SMap MemberState := []
  steps : List StepRec := []
  tallies : List Tally := []
  halves : List Half := []
  sentHalves : List Half := []
  closed : List (Nat × Word) := []
  revoked : List (Nat × Word) := []
  gathers : List Gather := []
  a2a : List A2aPair := []
  a2aHeld : List (Delivered × Nat × Nat) := []
  a2aDone : List (Nat × Word × Nat) := []
  changes : List GroupChange := []
  heldStarts : List (Nat × Nat × Word) := []
  deriving DecidableEq, Repr

/-! ## Resilience -/

/-- A fault record (R360). -/
structure FaultRec where
  stamp : Nat
  code : BitVec 16
  severity : Fin 5
  source : Fin 16
  epc : Epc
  lostBefore : Bool
  details : BitVec 128
  deriving DecidableEq, Repr

/-- Twin supervision (R341-R350): when the last twin port left service, the next probe, the takeover's stage (1 directory loading, 2
serving), whether the regions were synchronised at the loss, whether the twin's region digest differed, the change map, the alias broadcasts due, and the region
entries taken over. -/
structure Twin where
  downAt : Option Nat := none
  probeAt : Option Nat := none
  lost : Bool := false
  stage : Nat := 0
  handingOff : Bool := false
  peerResync : Bool := false
  syncAtLoss : Bool := false
  mismatch : Bool := false
  changeMap : List Nat := []
  aliasDue : List Nat := []
  locketOk : Bool := false
  peerKem : List Byte := []
  returning : Bool := false
  taken : List Nat := []
  deriving DecidableEq, Repr

/-- An accepted START awaiting its window's evaluation (R327, R353, R354): group, step, member, its port, its stamp, and how many
members of the group are local. -/
structure LateRec where
  g : Nat
  step : Word
  member : Nat
  port : Nat
  stamp : Nat
  n : Nat
  deriving DecidableEq, Repr

/-- Failure handling and foresight (R340-R367). -/
structure Res where
  queue : List FaultRec := []
  lostBefore : List Nat := []
  ringWrite : Option FaultRec := none
  ringRetryAt : Nat := 0
  summaryPend : List FaultRec := []
  summaryAt : Option Nat := none
  summary : List FaultRec := []
  summarySeq : Nat := 0
  rates : SMap Nat := []
  twin : Twin := {}
  lates : List LateRec := []
  nextWindow : Nat := 0
  marginHist : SMap (List Nat) := []
  level : Nat := 0
  deadDies : List Die := []
  deriving DecidableEq, Repr

/-! ## Security -/

/-- One entry of Clasp's queue (R372). -/
inductive ClaspJob where
  | request (w : Nat) (items : List (Nat × Nat × BitVec 64)) (requester : Nat)
  | locket (w : Nat) (partScope : Bool) (partition : Byte) (nonce : BitVec 256) (start : Nat)
  | grant (w : Nat) (start : Nat)
  | swap (items : List (Nat × Nat × BitVec 64)) (groups : List Nat)
  | commitImage (reset : Bool)
  | returnImage
  deriving DecidableEq, Repr

/-- A job key (R390). -/
structure JobKey where
  job : BitVec 16
  epoch : BitVec 4
  partition : Byte
  key : BitVec 256
  deriving DecidableEq, Repr

/-- A partition's memory keys (R387). -/
structure MemKey where
  id : Byte
  enc : BitVec 256
  mac : BitVec 256
  deriving DecidableEq, Repr

/-- A key delivery in progress (R393): the window, the installed key, and the entries still to be delivered. -/
structure Delivery where
  w : Nat
  key : JobKey
  entries : List (Epc × BitVec 40 × List Byte)
  index : Nat
  sent : Nat
  failed : Option Nat
  deriving DecidableEq, Repr

/-- A validated change that its block's mechanism is applying (R372): who asked, the Hall contexts whose STATE 0 is awaited (R283),
and the line ranges being recalled (R238). Its drain and its group changes name the same owner. -/
structure Applying where
  owner : DrainOwner
  ctxs : List Nat
  ranges : List (Nat × Nat)
  deriving DecidableEq, Repr

/-- Clasp (R368-R397). -/
structure Sec where
  queue : List ClaspJob := []
  applying : List Applying := []
  jobKeys : List JobKey := []
  memKeys : List MemKey := []
  owners : SMap (BitVec 256) := []
  signing : Option (Nat × Bool × Byte × BitVec 256 × Nat) := none
  signedAt : List Nat := []
  locketCtr : Nat := 0
  kemSeed : BitVec 256 := 0
  identity : BitVec 384 := 0
  bootLocket : List Byte := []
  delivery : Option Delivery := none
  bootStep : Nat := 0
  keyWait : List (Byte × Nat) := []
  keyMismatch : List Nat := []
  annexDigest : BitVec 256 := 0
  claspDigest : BitVec 256 := 0
  deriving DecidableEq, Repr

/-! ## Configuration -/

/-- The role record (R399): slot numbers 0-2, or 3 for none. -/
structure Roles where
  seq : Nat := 0
  current : Nat := 3
  previous : Nat := 3
  staged : Nat := 3
  stgState : BitVec 3 := 0
  probation : Bool := false
  resetCommit : Bool := false
  deriving DecidableEq, Repr

/-- What Clasp is applying to the running tables: a commit, a commit of Previous by RETURN (R417), or a return with the failing event,
0 for a requested one (R415). -/
inductive CfgJob where
  | commit | previous | back (cause : Nat)
  deriving DecidableEq, Repr

/-- The configuration state (R398-R420). `nvm` is the NOR device, byte by byte, 0xFF where erased; `fwLen` the bytes of the image in each
firmware slot (Clasp A and B, Annex A and B), 0 where none (log entry 35). `job` is applied in stages: 1 the switch core's change waits
to start, 2 its drain runs, 3 the other tables are next, 4 they are awaited. `before` holds the roles before the last commit and
`failed` the event that has failed probation (R413). -/
structure Cfg where
  nvm : SMap Byte := []
  fwLen : SMap Nat := []
  roles : Roles := {}
  stageLen : Nat := 0
  summaryClear : Bool := false
  fwAnnex : Bool := false
  probEnd : Nat := 0
  probBase : Nat := 0
  probPorts : List Nat := []
  boots : Word := 0
  before : Roles := {}
  job : Option CfgJob := none
  stage : Nat := 0
  failed : Nat := 0
  deriving DecidableEq, Repr

/-! ## Power -/

/-- The filter, damping and sticking state of a discrete input (R432-R434). -/
structure InputState where
  changes : List Nat := []
  damped : Bool := false
  tripleAt : Nat := 0
  lastChange : Nat := 0
  activeSince : Nat := 0
  stuckSent : Bool := false
  deriving DecidableEq, Repr

/-- Power, clocks and reset (R421-R443). `off` is Off, `dark` the power stages switched off by a thermal trip with THERMTRIP_N (`tripped`)
asserted (R439). `target` is what an entry or a handoff is for: 3 Still, 4 Vigil, 5 a module reset by command, 6 one by commit; `entryStep`
is the step of R425 under way: 1 the handoff, 2 the contexts, 4 the recall. `idleSince` is when the conditions of R423 began to hold, or
Poise was entered; `startAt` when start-up began; `handedOver` that the regions were handed to the twin before a reset (R349); `capRaised`
that measures are to be released (R428). -/
structure Pwr where
  off : Bool := false
  dark : Bool := false
  tripped : Bool := false
  target : Nat := 0
  entryStep : Nat := 0
  idleSince : Nat := 0
  startAt : Nat := 0
  lateSent : Bool := false
  handedOver : Bool := false
  capRaised : Bool := false
  inputs : SMap InputState := []
  inReset : List Domain := []
  heldWakes : List WakeEvent := []
  moduleResetNote : Bool := false
  counterLatch : List (Path × Word) := []
  deriving DecidableEq, Repr

/-! ## Host ports -/

/-- An inbound request being performed as PCIe DMA (R454). -/
structure Inbound where
  j : Nat
  n : Nat
  d : Delivered
  at_ : Nat
  deriving DecidableEq, Repr

/-- A PCIe atomic that waits for an earlier request or eviction of its line in the port's cache (R206, R222, R450): where it came from, its
operation, and the line and credentials it was accepted with (R449). -/
structure HostAtomic where
  j : Nat
  fn : Nat
  x : Nat
  size : Nat
  aop : Nat
  operand : BitVec 128
  compare : BitVec 128
  src : Epc
  dest : Epc
  off : Nat
  part : Byte
  key : Word
  deriving DecidableEq, Repr

/-- Host ports and sideband (R444-R466): inbound DMA reads, the port's cache by host port, atomics that wait, the last message of each
MSI-X vector, when a host was last active, and the I3C address. -/
structure Hosts where
  inbound : List Inbound := []
  nextN : Nat := 0
  caches : SMap (List CacheLine) := []
  atomWait : List HostAtomic := []
  msixAt : SMap Nat := []
  busyAt : Nat := 0
  i3cAddr : BitVec 7 := 0x58
  deriving DecidableEq, Repr

/-! ## Counters -/

/-- A requested snapshot of a slot (R473): the event captured, the chosen stamp, and from that stamp on what was captured: value, chained,
denied. -/
structure SnapReq where
  slot : Nat
  event : Nat
  stamp : Nat
  taken : Option (Nat × Bool × Bool) := none
  deriving DecidableEq, Repr

/-- A CLEAR of an event, or a set or clear of a chain bit, held until a pending snapshot of its counter has been captured (R473). -/
inductive HeldOp where
  | clear (n : Nat) | chain (k : Nat) (on : Bool)
  deriving DecidableEq, Repr

/-- Performance counters (R467-R483): the event counters, snapshots under way, words latched by a read for a path's next read (R470), and
held operations. -/
structure Counters where
  ev : SMap (BitVec 48) := []
  snaps : List SnapReq := []
  latches : List (Path × Nat × Word) := []
  held : List HeldOp := []
  deriving DecidableEq, Repr

/-! ## The machine -/

/-- The module: straps, the local counter (R48), every register word, each unit's state, packets that have arrived and not
been handled, packets passed to local Units, the free-value counter (log entry 3), the output tape (log entry 7) and the
waiting commands. -/
structure State where
  part : PartInfo
  now : Nat
  regs : SMap Word
  lanes : SMap Lane
  links : SMap PortLink
  psw : SMap PortSw
  sw : Switch
  e2e : E2E
  homes : Homes
  hall : Hall
  coll : Coll
  res : Res
  sec : Sec
  cfg : Cfg
  pwr : Pwr
  hosts : Hosts
  cnt : Counters
  arrivals : List (Ingress × Packet)
  inbox : List Delivered
  freeIdx : Nat
  out : List OutEvent
  pending : List Instr
  deriving DecidableEq, Repr

/-- The part the model's reset describes: an HZ7168 with the "per part" values of log entry 2. -/
def PartInfo.reset : PartInfo :=
  { hz7134 := false, step := 0x0101, serial := 0, fuse := 0, svn := 0, seed := 0, fwKeys := [], opKeys := [],
    romDigest := 0 }

/-- The module right after power-on reset (R15, R438): every register at its Reset value (the sparse store lists none that
differs from it), the local counter at zero (R48), the shared buffer free (R142), the NVM erased and no role assigned
(log entry 2), every queue empty. -/
def State.reset : State :=
  { part := PartInfo.reset, now := 0, regs := [], lanes := [], links := [], psw := [], sw := { free := 786432 }, e2e := {},
    homes := {}, hall := {}, coll := {}, res := {}, sec := {}, cfg := {}, pwr := {}, hosts := {}, cnt := {},
    arrivals := [], inbox := [], freeIdx := 0, out := [], pending := [] }

end Sys2Proof.Machine
end

