-- ==== Sys2Proof/Machine/Ops.lean ====
section
/-! DEFINITION. The named operations every family uses: register words and fields, the role and coordinates of the module,
event counters (R467), free values, outputs, fault records (R360-R365) and the capture of access errors (R18). -/

namespace Sys2Proof.Machine

/-! ## Register words -/

/-- A stored register word. -/
def rd (s : State) (off : Nat) : Nat := (sget regReset s.regs off).toNat

/-- Store a register word. -/
def wr (s : State) (off v : Nat) : State := { s with regs := sset regReset s.regs off (BitVec.ofNat 32 v) }

/-- A field of a stored register word. -/
def fldOf (s : State) (off hi lo : Nat) : Nat := bits (rd s off) hi lo

/-- One bit of a stored register word. -/
def bitOf (s : State) (off n : Nat) : Bool := bit (rd s off) n

/-- Store a field. -/
def setFld (s : State) (off hi lo v : Nat) : State := wr s off (setBits (rd s off) hi lo v)

/-- Store one bit. -/
def setBitOf (s : State) (off n : Nat) (b : Bool) : State := setFld s off n n (b2n b)

/-- A stored 64-bit register (R7). -/
def rd64 (s : State) (off : Nat) : Nat := rd s off + rd s (off + 4) * 2 ^ 32

/-- Store a 64-bit register. -/
def wr64 (s : State) (off v : Nat) : State := wr (wr s off (v % 2 ^ 32)) (off + 4) (v / 2 ^ 32 % 2 ^ 32)

/-- Advance a 64-bit counter register, modulo 2^64 (R469). -/
def bump64 (s : State) (off k : Nat) : State := wr64 s off ((rd64 s off + k) % 2 ^ 64)

/-- Advance a saturating field. -/
def bumpSat (s : State) (off hi lo k : Nat) : State :=
  setFld s off hi lo (min (fldOf s off hi lo + k) (2 ^ (hi + 1 - lo) - 1))

/-- Fold a change over a list. -/
def forEach {α : Type} (xs : List α) (s : State) (f : State → α → State) : State := xs.foldl f s

/-- Words of a register array with a bit set, as bit numbers. -/
def bitsSet (n : Nat) (v : Nat → Nat) : List Nat := (List.range n).filter fun b => bit (v (b / 32)) (b % 32)

/-! ## Sizes of the family member (R1, R47, R93) -/

/-- Fabric ports. -/
def nPorts (s : State) : Nat := if s.part.hz7134 then 128 else 256
/-- Fabric lanes. -/
def nLanes (s : State) : Nat := if s.part.hz7134 then 256 else 512
/-- Fabric lanes of a port die. -/
def lanesPerDie (s : State) : Nat := if s.part.hz7134 then 64 else 128
/-- The port exists on this member: a fabric port, or a twin port 256-257. -/
def portExists (s : State) (p : Nat) : Bool := decide (p < nPorts s) || p == 256 || p == 257
/-- Loft stacks. -/
def nStacks (s : State) : Nat := if s.part.hz7134 then 2 else 4
/-- Cellar channel groups. -/
def nGroups (s : State) : Nat := if s.part.hz7134 then 4 else 8

/-! ## The module's role (R141, R34-R37) -/

def isTier2 (s : State) : Bool := bitOf s SWC_ROLE 0
def myPlane (s : State) : Nat := fldOf s SWC_ROLE 3 1
def myRack (s : State) : Nat := fldOf s SWC_ROLE 11 4
def mySeat (s : State) : Nat := fldOf s SWC_ROLE 19 12
def podT (s : State) : Nat := fldOf s SWC_ROLE 27 20
/-- The module's own EPC with a Unit. -/
def myEpc (s : State) (unit : Nat) : Epc := mkEpc (myPlane s) (myRack s) (mySeat s) unit
/-- The EPC names an agent of this module. -/
def isMine (s : State) (e : Epc) : Bool := sameSeat e (myEpc s 0)
/-- Bundle width B (R25, R47). -/
def podB (s : State) : Nat := (if s.part.hz7134 then 64 else 128) / podT s
/-- The half of a compute-rack seat (R35, R47); none for a reserved seat. -/
def halfOfSeat (hz7134 : Bool) (seat : Nat) : Option Nat :=
  if hz7134 then
    if seat < 128 then some (seat / 32) else if seat < 132 then some (seat - 128)
    else if 144 ≤ seat && seat < 152 then some ((seat - 144) / 2) else none
  else
    if seat < 128 then some (seat / 64) else if seat < 130 then some (seat - 128)
    else if 144 ≤ seat && seat < 148 then some ((seat - 144) / 2) else none
/-- The module's half (tier 1). -/
def myHalf (s : State) : Nat := mySeat s - 128
/-- Halves per rack. -/
def nHalves (s : State) : Nat := if s.part.hz7134 then 4 else 2
/-- The twin's EPC (R29): the module whose index differs in bit 0. -/
def twinEpc (s : State) (unit : Nat) : Epc :=
  mkEpc (myPlane s) (myRack s) (if mySeat s % 2 = 0 then mySeat s + 1 else mySeat s - 1) unit
/-- The EPC of the host on host port j (R31, R32, R47). -/
def hostEpc (s : State) (j unit : Nat) : Epc :=
  if isTier2 s then mkEpc (myPlane s) 255 (128 + mySeat s / 2 * 2 + j) unit
  else mkEpc (myPlane s) (myRack s) (144 + 2 * myHalf s + j) unit

/-! ## Power state and phase (R421, R440) -/

def pwrState (s : State) : Nat := fldOf s PWR_STATUS 2 0
def phase (s : State) : Nat := fldOf s PWR_STATUS 5 3
/-- The module is in Serving. -/
def serving (s : State) : Bool := phase s == 5
/-- A die is out of service (R61). -/
def dieDead (s : State) (d : Die) : Bool := s.res.deadDies.contains d

/-! ## Event counters (R467, R471) -/

/-- The counter of an event. -/
def evGet (s : State) (n : Nat) : Nat := (cget (0 : BitVec 48) s.cnt.ev n).toNat

/-- Store the counter of an event. -/
def evSet (s : State) (n v : Nat) : State :=
  { s with cnt := { s.cnt with ev := cset (0 : BitVec 48) s.cnt.ev n (BitVec.ofNat 48 v) } }

/-- Events 2k and 2k+1 form a chained pair. -/
def chained (s : State) (k : Nat) : Bool := bitOf s (CNT_CHAIN (k / 32)) (k % 32)

/-- Set the overflow bit of a counter. -/
def setOvf (s : State) (n : Nat) : State := setBitOf s (CNT_OVF (n / 32)) (n % 32) true

/-- Add to an event's counter (R467), with the chaining of R471. -/
def ev (s : State) (n k : Nat) : State :=
  if n % 2 = 1 && chained s (n / 2) then s
  else
    let v := evGet s n + k
    let s := evSet s n (v % 2 ^ 48)
    if v < 2 ^ 48 then s
    else if chained s (n / 2) then
      let w := evGet s (n + 1) + v / 2 ^ 48
      let s := evSet s (n + 1) (w % 2 ^ 48)
      if w < 2 ^ 48 then s else setOvf s (n + 1)
    else setOvf s n

/-! ## Free values and outputs -/

/-- A free value: one the manual leaves open (log entry 3). -/
def freeVal (s : State) : Nat := (Config.free s.freeIdx).toNat

/-- The state after a free value has been taken. -/
def takeFree (s : State) : State := { s with freeIdx := s.freeIdx + 1 }

/-- Append to the output tape (log entry 7). -/
def emit (s : State) (e : OutEvent) : State := { s with out := s.out ++ [e] }

/-! ## Levels (R464) -/

/-- HST_ALERT_STATE: levels, 1 while their condition holds. -/
def alertState (s : State) : Nat :=
  b2n (bitOf s PWR_STATUS 6) + 2 * b2n (bitOf s PWR_STATUS 7 || bitOf s PWR_STATUS 8) + 4 * b2n (bitOf s PWR_STATUS 9) +
  8 * b2n (fldOf s PWR_INPUTS 12 8 ≠ 0 || fldOf s PWR_INPUTS 20 16 ≠ 0) +
  16 * b2n ((List.range 16).any fun k => bitOf s (FLT_OVF k) 24) +
  32 * b2n (serving s && (!(bitOf s FLT_STATUS 1) || !(bitOf s FLT_STATUS 2)))

/-- ALERT_N is low (R463). -/
def alertLow (s : State) : Bool := Nat.land (alertState s) (fldOf s HST_ALERT_MASK 5 0) != 0

/-- The in-band interrupt of I3C when ALERT_N falls between two states (R460). -/
def alertEdge (before after : State) : State :=
  if !alertLow before && alertLow after then emit after (.i3cInterrupt (BitVec.ofNat 8 (alertState after))) else after

/-! ## Rate limits -/

/-- Has this key not been used since `period` ns ago? (R115, R40: "the first in each 1 ms of the local counter" counts whole
periods of the counter.) -/
def firstInWindow (s : State) (key period : Nat) : Bool := cget 0 s.res.rates key != s.now / period + 1

/-- Note the use of a key in the present period. -/
def noteWindow (s : State) (key period : Nat) : State :=
  { s with res := { s.res with rates := cset 0 s.res.rates key (s.now / period + 1) } }

/-! ## MSI-X (R457, R466) -/

/-- Signal a function's vector: at most one message per 1 µs, else its pending bit is set. A masked vector sets the bit too,
as the PCI Express layout of the table has it (log entry 9). -/
def msix (s : State) (j fn vec : Nat) : State :=
  let key := (j * 128 + fn) * 4 + vec
  let last := cget 0 s.hosts.msixAt key
  if (last ≠ 0 && s.now + 1 < last + 1000) || bitOf s (HST_MSIX j fn (4 * vec + 3)) 0 then
    setBitOf s (HST_PBA j fn) vec true
  else
    emit { s with hosts := { s.hosts with msixAt := cset 0 s.hosts.msixAt key (s.now + 1) } } (.msix j fn vec)

/-! ## Fault records (R360-R365) -/

/-- DETAILS from (byte of the record, width in bytes, value). -/
def det (xs : List (Nat × Nat × Nat)) : BitVec 128 :=
  BitVec.ofNat 128 (xs.foldl (fun a (b, n, v) => a + v % 256 ^ n * 256 ^ (b - 16)) 0)

/-- Free entries a record of this severity needs in the queue or the ring (R363). -/
def faultRoom (sev : Nat) : Nat := if sev ≤ 2 then 3 else if sev = 3 then 2 else 1

/-- FLT_QUEUE follows the queue: USED now, PEAK the most since module reset (R367). -/
def noteQueue (s : State) : State :=
  let u := s.res.queue.length
  setFld (setFld s FLT_QUEUE 7 0 u) FLT_QUEUE 15 8 (max u (fldOf s FLT_QUEUE 15 8))

/-- A record written during probation that fails it (R413): PORT_MISWIRE (2), SERVICE_LEVEL (3) or any Fatal one (4), as CFG_PROBATION
enables. The first is kept. -/
def noteProbation (s : State) (code sev : Nat) : State :=
  if !bitOf s CFG_STATUS 2 || s.cfg.failed ≠ 0 then s
  else
    let c := if code = 0x0101 && bitOf s CFG_PROBATION 1 then 2 else if code = 0x070A && bitOf s CFG_PROBATION 2 then 3
      else if sev = 4 && bitOf s CFG_PROBATION 3 then 4 else 0
    { s with cfg := { s.cfg with failed := c } }

/-- A source produces a fault record: placed in the queue, or coalesced (R362, R363). A placed record of severity 3 or 4 also
waits for the persistent summary (R365); one at or above IRQ_SEV signals vector 0 of PF0 of both host ports (R457). -/
def fault (s : State) (code sev source : Nat) (epc : Epc) (details : BitVec 128) : State :=
  if s.res.queue.length + faultRoom sev ≤ 128 then
    let r : FaultRec := { stamp := s.now, code := BitVec.ofNat 16 code, severity := Fin.ofNat 5 sev,
                          source := Fin.ofNat 16 source, epc := epc, lostBefore := s.res.lostBefore.contains source,
                          details := details }
    let s := { s with res := { s.res with queue := s.res.queue ++ [r], lostBefore := s.res.lostBefore.filter (· ≠ source),
                                          summaryPend := if sev ≥ 3 then s.res.summaryPend ++ [r] else s.res.summaryPend } }
    let s := noteProbation (ev (noteQueue s) (2024 + sev) 1) code sev
    if fldOf s FLT_RING_CFG 3 1 ≤ sev then msix (msix s 0 0 0) 1 0 0 else s
  else
    let o := FLT_OVF source
    let s := bumpSat s o 23 0 1
    let s := alertEdge s (setBitOf s o 24 true)
    let s := setFld s o 27 25 (max sev (fldOf s o 27 25))
    ev { s with res := { s.res with lostBefore := source :: s.res.lostBefore.filter (· ≠ source) } } 2029 1

/-- A record whose EPC is the module's own with Unit 0 and that has no details. -/
def fault0 (s : State) (code sev source : Nat) : State := fault s code sev source (myEpc s 0) 0

/-- A record written at most once in each period of the local counter, under a key. -/
def faultLimited (s : State) (key period code sev source : Nat) (epc : Epc) (details : BitVec 128) : State :=
  if firstInWindow s key period then fault (noteWindow s key period) code sev source epc details else s

/-- The fault source of a port or lane: its port die's number plus 6 (R360, R55, R56). -/
def dieOfLane (s : State) (n : Nat) : Nat := if n < 512 then n / lanesPerDie s else (n - 512) / 4

/-! ## Access errors (R16, R18) -/

/-- REQUESTER of a path (R16). -/
def requesterOf : Path → Nat
  | .host j fn => 128 * j.val + fn.val
  | .annex => 256
  | .i3c => 257
  | .jtag => 258
  | .window _ => 259

/-- Record an access error: captured while VALID is clear, else only LOST is set (R18). -/
def accessErr (s : State) (path : Path) (off cause : Nat) : State :=
  let s := ev s 10 1
  if bitOf s IDN_ACCESS_ERR 0 then setBitOf s IDN_ACCESS_ERR 1 true
  else
    let s := setFld (setFld (setBitOf s IDN_ACCESS_ERR 0 true) IDN_ACCESS_ERR 4 2 cause) IDN_ACCESS_ERR 17 8 (requesterOf path)
    wr s IDN_ACCESS_ADDR (off % 2 ^ 26)

/-! ## Ports (R55) -/

/-- First lane and width a role gives a port; none for a port the role does not use (R55, R56). -/
def portLanes (s : State) (p : Nat) : Option (Nat × Nat) :=
  let l := lanesPerDie s
  if p = 256 then some (512, 8) else if p = 257 then some (520, 8)
  else if isTier2 s then
    let h := l / 4
    if p < 4 * h then some (l * (p / h) + l / 2 + 2 * (p % h), 2)
    else if p < 8 * h then some (l * ((p - 4 * h) / h) + 2 * ((p - 4 * h) % h), 2)
    else none
  else
    let q := l / 8
    if p < 4 * q then some (l * (p / q) + 4 * (p % q), 4)
    else if p < 4 * q + l then some (l * ((p - 4 * q) / (l / 4)) + l / 2 + 2 * ((p - 4 * q) % (l / 4)), 2)
    else none

/-- The port a lane belongs to in the module's role, with the lane's index in it. -/
def portOfLane (s : State) (n : Nat) : Option (Nat × Nat) :=
  if 512 ≤ n then some (256 + (n - 512) / 8, (n - 512) % 8)
  else (List.range (nPorts s)).findSome? fun p =>
    match portLanes s p with
    | some (f, w) => if f ≤ n && n < f + w then some (p, n - f) else none
    | none => none

/-- The configured width of a port in lanes (LNK_PORT_CFG.WIDTH). -/
def cfgWidth (s : State) (p : Nat) : Nat := 2 ^ (fldOf s (LNK_PORT_CFG p) 3 1 - 1)

/-- A port's die. -/
def dieOfPort (s : State) (p : Nat) : Nat :=
  match portLanes s p with
  | some (f, _) => dieOfLane s f
  | none => 0

/-- STATE of LNK_PORT_STATUS: 0 disabled, 1 training, 2 checking, 3 in service, 4 out of service (R93). -/
def portState (s : State) (p : Nat) : Nat := fldOf s (LNK_PORT_STATUS p) 2 0
/-- The port is in service. -/
def inService (s : State) (p : Nat) : Bool := portState s p == 3
/-- The port's bit in SWC_ROUTE_EN (R138). -/
def routeEn (s : State) (p : Nat) : Bool := decide (p < 256) && bitOf s (SWC_ROUTE_EN (p / 32)) (p % 32)
/-- A twin port is in service. -/
def twinUp (s : State) : Bool := inService s 256 || inService s 257
/-- All ports of the member. -/
def allPorts (s : State) : List Nat := List.range (nPorts s) ++ [256, 257]

/-- The link of a port. -/
def link (s : State) (p : Nat) : PortLink := cget {} s.links p
/-- Change the link of a port. -/
def setLink (s : State) (p : Nat) (l : PortLink) : State := { s with links := cset {} s.links p l }
/-- A lane. -/
def lane (s : State) (n : Nat) : Lane := cget {} s.lanes n
/-- Change a lane. -/
def setLane (s : State) (n : Nat) (l : Lane) : State := { s with lanes := cset {} s.lanes n l }
/-- The scheduler state of an egress point. -/
def pswOf (s : State) (e : Nat) : PortSw := cget {} s.psw e
/-- Change the scheduler state of an egress point. -/
def setPsw (s : State) (e : Nat) (x : PortSw) : State := { s with psw := cset {} s.psw e x }

/-- An element of a vector, by a number that may be too large. -/
def vget {α : Type} {n : Nat} (d : α) (v : Vector α n) (i : Nat) : α := if h : i < n then v[i] else d
/-- A vector with one element changed. -/
def vset {α : Type} {n : Nat} (v : Vector α n) (i : Nat) (x : α) : Vector α n := if h : i < n then v.set i x else v

end Sys2Proof.Machine
end

