-- ==== Sys2Proof/Machine/Switch.lean ====
section
/-! DEFINITION. The switch core's shared operations (chapters 1 and 5): lookup (R41, R135-R140), the shared buffer and its cells
(R142-R144), C5 colouring and dropping (R154, R155), marking (R153), STOP for the reserve (R149), packets of the module's own
making, relinking (R162) and drains (R163). -/

namespace Sys2Proof.Machine

/-! ## Numbers of the egress and ingress points -/

/-- The scheduler table's key of an egress point. -/
def egKey : Egress → Nat
  | .port p => p.val
  | .store d => 258 + d.val
  | .hall => 260
  | .host j => 261 + j.val
  | .mgmt => 263

/-- A port number as an egress point. -/
def egPort (p : Nat) : Egress := .port (Fin.ofNat 258 p)

/-- Free a cell's credit: the grant of the ingress port and class rises, unless the port has left service since (R144); a C0
cell of a policed port waits for a token (R148). -/
def grantFreed (s : State) (ing : Ingress) (period c n : Nat) : State :=
  match ing with
  | .port p =>
    let l := link s p.val
    if l.period ≠ period then s
    else if c = 0 && fldOf s (SWC_C0_POLICE p.val) 10 0 ≠ 0 && decide (p.val < 256) then
      setLink s p.val { l with waitTokens := l.waitTokens + n }
    else setLink s p.val { l with freed := vset l.freed c (vget 0 l.freed c + n), owed := 5 }
  | _ => s

/-- Is the reserve of R149 in force: STOP is set below RESERVE × 1,024 free cells and cleared at twice that level. -/
def checkReserve (s : State) : State :=
  let r := fldOf s SWC_BUF_CFG 27 20 * 1024
  if s.sw.stopReserve then
    if 2 * r ≤ s.sw.free then
      let s := { s with sw := { s.sw with stopReserve := false } }
      forEach (allPorts s) s fun s p =>
        let l := link s p
        if l.stopTx then setLink s p { l with stopTx := l.stopHush, owed := max l.owed 1 } else s
    else s
  else if s.sw.free < r then
    let s := { s with sw := { s.sw with stopReserve := true } }
    let s := forEach (allPorts s) s fun s p =>
      if inService s p then setLink s p { link s p with stopTx := true, owed := max (link s p).owed 1 } else s
    fault0 s 0x0205 3 0
  else s

/-- Return `n` cells to the free list (R144). -/
def freeCells (s : State) (ing : Ingress) (period c n : Nat) : State :=
  if n = 0 then s
  else checkReserve (grantFreed { s with sw := { s.sw with free := s.sw.free + n } } ing period c n)

/-- Take `n` cells from the free list. -/
def takeCells (s : State) (n : Nat) : State := checkReserve { s with sw := { s.sw with free := s.sw.free - n } }

/-- The present period of service of an ingress point. -/
def periodOf (s : State) : Ingress → Nat
  | .port p => (link s p.val).period
  | _ => 0

/-- The ingress point for which a packet that waited is accounted: its own while its port has not left service since; else the module,
since the cell's credit died with the period (R144). -/
def cellIng (s : State) (ing : Ingress) (period : Nat) : Ingress := if periodOf s ing = period then ing else .hearth

/-! ## Lookup (R135) -/

/-- Where a unicast packet goes. -/
inductive Hop where
  | unit (u : Nat) | out (e : Egress) | unreachable | unroutable
  deriving DecidableEq, Repr

/-- The flow hash of R136: CRC-32C register over header bytes 2-7, started at SWC_HASH_SEED. -/
def flowHash (s : State) (p : Packet) : Nat :=
  (crc32cReg (BitVec.ofNat 32 (rd s SWC_HASH_SEED)) (leBytes 3 p.dest.toNat ++ leBytes 3 p.src.toNat)).toNat

/-- First enabled port of a rotation of the list. -/
def firstFrom (s : State) (l : List Nat) (i : Nat) (ok : Nat → Bool) : Option Nat :=
  ((List.range l.length).map fun k => (l[(i + k) % l.length]?).getD 0).find? fun p => routeEn s p && ok p

/-- Credit a port's transmitter holds in a class (R106). -/
def credit (s : State) (p c : Nat) : Nat :=
  let l := link s p
  match vget none l.grant c with
  | some g => (g.toNat + 4096 - vget 0 l.spent c % 4096) % 4096
  | none => 0

/-- A list of ports: its key among the spray pointers, and the ports in order. -/
structure PortList where
  key : Nat
  ports : List Nat

/-- The bundle to tier-2 module m (R135). -/
def bundle (s : State) (m : Nat) : PortList :=
  let b := podB s
  let base := if s.part.hz7134 then 32 else 64
  ⟨1 + m, (List.range b).map fun k => base + m * b + k⟩

/-- All up-ports of a tier-1 module. -/
def allUp (s : State) : PortList :=
  if s.part.hz7134 then ⟨0, (List.range 64).map (32 + ·)⟩ else ⟨0, (List.range 128).map (64 + ·)⟩

/-- The ports of a tier-2 down-table entry; none when it is not valid. -/
def downEntry (s : State) (i : Nat) : Option PortList :=
  if bitOf s (SWC_DOWN i) 15 then
    some ⟨1000 + i, (List.range (fldOf s (SWC_DOWN i) 14 8)).map fun k => fldOf s (SWC_DOWN i) 7 0 + k⟩
  else none

/-- Tier-2 ports 0 to 2RB - 1 (R28): R is not held in a register, so 2R is read from the down table as its number of valid
entries (DEDUCED: log entry 10). -/
def tier2Ports (s : State) : PortList :=
  ⟨2000, List.range (((List.range 256).filter fun i => bitOf s (SWC_DOWN i) 15).length * podB s)⟩

/-- `pick` (R136, R137): the port, or none; and the spray pointers after it. -/
def pick (s : State) (p : Packet) (l : PortList) : Option Nat × State :=
  if l.ports.length = 0 then (none, s)
  else if p.vc ≤ 3 then (firstFrom s l.ports (flowHash s p % l.ports.length) fun _ => true, s)
  else
    let i := cget 0 s.sw.spray l.key
    let choice := match firstFrom s l.ports i fun q => decide (p.cells ≤ credit s q p.vc) with
      | some q => (some q, s)
      | none => (firstFrom s l.ports i fun _ => true, ev s 1239 1)
    match choice with
    | (some q, s) =>
      (some q, { s with sw := { s.sw with spray := cset 0 s.sw.spray l.key ((l.ports.findIdx (· == q) + 1) % l.ports.length) } })
    | (none, s) => (none, s)

/-- `pick` as a hop. -/
def pickHop (s : State) (p : Packet) (l : PortList) : Hop × State :=
  match pick s p l with
  | (some q, s) => (.out (egPort q), s)
  | (none, s) => (.unreachable, s)

/-- A host port is in service: its link is up, it is enabled, and port die 0 is there (R61, R135). -/
def hostUp (s : State) (j : Nat) : Bool :=
  bitOf s (HST_PORT_STATUS j) 0 && bitOf s (HST_PORT_CFG j) 0 && !dieDead s (.port 0) &&
  (!(isTier2 s) || mySeat s % 2 == 0 || bitOf s (HST_PORT_STATUS j) 9)

/-- An up-port of a tier-1 module (R23, R47). -/
def isUpPort (s : State) (p : Nat) : Bool :=
  !isTier2 s && (if s.part.hz7134 then decide (32 ≤ p) && decide (p < 96) else decide (64 ≤ p) && decide (p < 192))

/-- A down-port of a tier-1 module. -/
def isDownPort (s : State) (p : Nat) : Bool := !isTier2 s && decide (p < (if s.part.hz7134 then 32 else 64))

/-- The lookup of R135. -/
def route (s : State) (p : Packet) (ing : Ingress) : Hop × State :=
  let rack := epcRack p.dest
  let seat := epcSeat p.dest
  if rack = myRack s && seat = mySeat s then (.unit (epcUnit p.dest), s)
  else if !isTier2 s then
    if rack = myRack s && halfOfSeat s.part.hz7134 seat == some (myHalf s) then
      match fldOf s (SWC_SEAT seat) 1 0 with
      | 1 =>
        let q := fldOf s (SWC_SEAT seat) 9 2
        (if routeEn s q then .out (egPort q) else .unreachable, s)
      | 2 =>
        let j := fldOf s (SWC_SEAT seat) 2 2
        (if hostUp s j then .out (.host (Fin.ofNat 2 j)) else .unreachable, s)
      | 3 => (.unit (epcUnit p.dest), s)
      | _ => (.unroutable, s)
    else if (match ing with | .port q => isUpPort s q.val | _ => false) && rack ≠ 255 then (.unroutable, s)
    else if rack = 255 && seat < 128 then pickHop s p (bundle s seat)
    else if rack = 255 then
      let k := (seat - 128) / 2
      if bitOf s (SWC_SHOST ((seat - 128) / 32)) ((seat - 128) % 32) || !((bundle s (2 * k)).ports.any (routeEn s)) then
        pickHop s p (bundle s (2 * k + 1))
      else pickHop s p (bundle s (2 * k))
    else pickHop s p (allUp s)
  else if rack = 255 && seat / 2 = (128 + mySeat s) / 2 then
    let j := seat % 2
    (if hostUp s j then .out (.host (Fin.ofNat 2 j)) else .unreachable, s)
  else if rack = 255 then pickHop s p (tier2Ports s)
  else match halfOfSeat s.part.hz7134 seat with
    | none => (.unroutable, s)
    | some h => match downEntry s (nHalves s * rack + h) with
      | some l => pickHop s p l
      | none => (.unroutable, s)

/-- A reserved destination (R39): a reserved Rack value or seat, or a reserved Unit of a module (R35-R37, R47). -/
def reservedDest (s : State) (e : Epc) : Bool :=
  let rack := epcRack e
  let seat := epcSeat e
  let unit := epcUnit e
  let modSeats := if s.part.hz7134 then 132 else 130
  if 128 ≤ rack && rack ≤ 254 then true
  else if rack = 255 then
    if seat < podT s then decide (13 ≤ unit) && decide (unit ≤ 30)
    else !(128 ≤ seat && seat < 128 + podT s)
  else match halfOfSeat s.part.hz7134 seat with
    | none => true
    | some _ => 128 ≤ seat && seat < modSeats && 13 ≤ unit && unit ≤ 30

/-- The egress point of a local Unit: the management agent, a Store die by the home agent named, the Hall, a host port; none for
the agents on the Hearth itself (Units 12 and 31). Unit 1 is spread by the interleave of R228. -/
def unitEgress (u agent : Nat) : Option Egress :=
  if u = 0 then some .mgmt
  else if u = 1 then some (.store (Fin.ofNat 2 (agent / 4)))
  else if u ≤ 8 then some (.store (Fin.ofNat 2 ((u - 1) / 4)))
  else if u = 9 then some .hall
  else if u ≤ 11 then some (.host (Fin.ofNat 2 (u - 10)))
  else none

/-- The home agent of an offset of Unit 1's space (R228): L[2:0] xor L[12:10] xor L[22:20] of its line index. -/
def homeAgentOf (offset : Nat) : Nat :=
  let l := offset / 128
  Nat.xor (Nat.xor (bits l 2 0) (bits l 12 10)) (bits l 22 20)

/-! ## Queues (R142-R144) -/

/-- Cells of an entry that lie in the buffer. -/
def QEntry.left (e : QEntry) : Nat := e.pkt.cells - e.freed

/-- An entry stands in the queue of a class of an egress point. -/
def inQueue (e : QEntry) (eg : Egress) (c : Nat) : Bool :=
  (match e.kind with | .hold | .hearth => false | _ => true) && e.pkt.vc == c && e.targets.any fun t => t.1 == eg

/-- Depth of a queue in cells. -/
def queueDepth (s : State) (eg : Egress) (c : Nat) : Nat :=
  ((s.sw.queue.filter fun e => inQueue e eg c).map QEntry.left).sum

/-- Add an entry to its queue. -/
def pushEntry (s : State) (e : QEntry) : State := { s with sw := { s.sw with queue := s.sw.queue ++ [e] } }

/-- Cells of all queues, for the book of R158. -/
def queuedCells (s : State) : Nat := (s.sw.queue.map QEntry.left).sum

/-- Cells the combiners hold (R57), SWC_BUF_HELD. -/
def heldCells (s : State) : Nat := s.sw.held

/-- Mark a lossless queue that holds MARK_CELLS or more (R153), and remember the packet that enters it. -/
def markQueue (s : State) (eg : Egress) (p : Packet) : State :=
  match eg with
  | .port q =>
    if p.vc ≤ 4 && q.val < 256 then
      let x := pswOf s q.val
      let m := decide (fldOf s (SWC_MARK q.val) 15 0 ≤ queueDepth s eg p.vc)
      setPsw s q.val { x with marked := vset x.marked p.vc m, lastIn := vset x.lastIn p.vc (some p) }
    else s
  | _ => s

/-- R155's verdict on a C5 packet entering an egress queue: drop it? The average depth is kept in 1/65,536 cell. The random
choice is a free value (log entry 3). -/
def c5Drop (s : State) (eg : Egress) (col : Colour) : Bool × State :=
  match eg with
  | .port q =>
    if q.val < 256 then
      let depth := queueDepth s eg 5
      let x := pswOf s q.val
      let w := fldOf s (SWC_RED_CFG q.val) 3 0
      let avg := (Int.ofNat x.avgC5 + (Int.ofNat (depth * 65536) - Int.ofNat x.avgC5) / (2 ^ w : Int)).toNat
      let s := setPsw s q.val { x with avgC5 := avg }
      let k := match col with | .green => 0 | .yellow => 1 | .red => 2
      let lo := fldOf s (SWC_RED q.val k) 11 0 * 65536
      let hi := fldOf s (SWC_RED q.val k) 23 12 * 65536
      if fldOf s (SWC_RED_CFG q.val) 15 4 ≤ depth then (true, ev s 1227 1)
      else if avg < lo then (false, s)
      else if hi ≤ avg then (true, ev s (1224 + k) 1)
      else
        let d := decide (freeVal s % (256 * (hi - lo)) < fldOf s (SWC_RED q.val k) 31 24 * (avg - lo))
        let s := takeFree s
        (d, if d then ev s (1224 + k) 1 else s)
    else (false, s)
  | _ => (false, s)

/-- Discard a packet whose cells are already taken. -/
def discardCells (s : State) (p : Packet) (ing : Ingress) : State := freeCells s ing (periodOf s ing) p.vc p.cells

/-- Link a packet into the output queue of an egress point, after R155 for C5. Its cells are already taken. -/
def linkOut (s : State) (p : Packet) (ing : Ingress) (eg : Egress) (col : Colour) (dup : Bool) : State :=
  let drop := if p.vc = 5 then c5Drop s eg col else (false, s)
  if drop.1 then discardCells drop.2 p ing
  else
    let s := markQueue drop.2 eg p
    pushEntry s { pkt := p, ing := ing, period := periodOf s ing, kind := .out, targets := [(eg, 0)], freed := 0,
                  colour := col, dup := dup }

/-- Put a packet before an agent, its cells freed. -/
def toInbox (s : State) (p : Packet) (ing : Ingress) (dup : Bool) : State :=
  discardCells { s with inbox := s.inbox ++ [{ pkt := p, ing := ing, dup := dup }] } p ing

/-- A packet for an agent whose die is out of service (R61): the Hearth answers a request to Unit 1 in the home's name, a response to
Unit 0 still reaches Clasp, and the rest is discarded. -/
def deliverDead (s : State) (p : Packet) (ing : Ingress) (eg : Egress) (dup : Bool) : State :=
  match eg with
  | .store _ => if p.isRequest then toInbox s p ing dup else discardCells s p ing
  | .mgmt => if p.isCompletion then toInbox s p ing dup else discardCells s p ing
  | _ => discardCells s p ing

/-- The die behind an internal egress point is in service (R61). -/
def egressAlive (s : State) : Egress → Bool
  | .store d => !dieDead s (.store d)
  | .hall => !dieDead s .hall
  | .host _ => !dieDead s (.port 0)
  | .mgmt => !dieDead s (.port 3)
  | .port _ => true

/-- Pass a packet to a local Unit: through the queue of its egress point, or to the inbox where the agent lies on the Hearth
(log entry 11). Collective inputs keep their cells until the engine takes them (R57); the cells of other Hearth deliveries are
freed at once. -/
def deliverLocal (s : State) (p : Packet) (ing : Ingress) (u : Nat) (col : Colour) (dup : Bool) : State :=
  match unitEgress u (homeAgentOf p.offset) with
  | some eg => if egressAlive s eg then linkOut s p ing eg col dup else deliverDead s p ing eg dup
  | none =>
    if p.opcode = opCOLL_PUSH || p.opcode = opCOLL_PARTIAL || p.opcode = opCOLL_RESULT || p.opcode = opCOLL_A2A then
      pushEntry { s with inbox := s.inbox ++ [{ pkt := p, ing := ing, dup := dup }] }
        { pkt := p, ing := ing, period := periodOf s ing, kind := .hearth, targets := [], freed := 0, colour := col, dup := dup }
    else toInbox s p ing dup

/-- The cells of a Hearth delivery, taken over by the agent: the entry leaves the queue. The period of service in which its
cells arrived, and its cells; the present period and none where no entry is found. -/
def takeHearth (s : State) (d : Delivered) : State × Nat × Nat :=
  match s.sw.queue.find? fun e => e.kind == .hearth && e.pkt == d.pkt && e.ing == d.ing with
  | some e => ({ s with sw := { s.sw with queue := s.sw.queue.erase e } }, e.period, e.left)
  | none => (s, periodOf s d.ing, 0)

/-! ## Hold queues (R163) -/

/-- Number of packets in the hold queues, shown in SWC_DRAIN_STATUS.HELD. -/
def noteHeld (s : State) : State :=
  setFld s SWC_DRAIN_STATUS 31 3 (min (s.sw.queue.filter fun e => e.kind == .hold).length (2 ^ 29 - 1))

/-- The register words of a drain in place of the live ones, and the ports it enables. -/
def withShadow (s : State) (d : Drain) : State :=
  let s := forEach d.shadow s fun s (o, v) => { s with regs := sset regReset s.regs o v }
  forEach d.enable s fun s p => setBitOf s (SWC_ROUTE_EN (p / 32)) (p % 32) true

/-- The table words a packet's lookup reads: seat, down and mask entries (R163). -/
def tableReads (s : State) (p : Packet) : List Nat :=
  if p.mcast then (List.range 13).map (SWC_MASK (p.dest.toNat % 4096))
  else
    let rack := epcRack p.dest
    let seat := epcSeat p.dest
    if rack = myRack s && seat = mySeat s then []
    else if !isTier2 s then
      if rack = myRack s && halfOfSeat s.part.hz7134 seat == some (myHalf s) then [SWC_SEAT seat] else []
    else if rack = 255 then []
    else match halfOfSeat s.part.hz7134 seat with
      | some h => [SWC_DOWN (nHalves s * rack + h)]
      | none => []

/-- A packet's lookup reads the SWC_SHOST bit whose value differs between two states. -/
def shostDiffers (a b : State) (p : Packet) : Bool :=
  let seat := epcSeat p.dest
  !p.mcast && !isTier2 a && epcRack p.dest == 255 && decide (128 ≤ seat) &&
  bitOf a (SWC_SHOST ((seat - 128) / 32)) ((seat - 128) % 32) != bitOf b (SWC_SHOST ((seat - 128) / 32)) ((seat - 128) % 32)

/-- R163 step 2: the packet is one a drain holds, by the tables before and after it. -/
def drainHolds (a b : State) (p : Packet) (ing : Ingress) : Bool :=
  ((tableReads a p).any fun o => rd a o != rd b o) || shostDiffers a b p ||
  (!p.mcast && decide (p.vc ≤ 3) && (route a p ing).1 != (route b p ing).1)

/-- A drain in steps 1-5 holds this packet. -/
def heldByDrain (s : State) (p : Packet) (ing : Ingress) : Bool :=
  match s.sw.drain with
  | some d => drainHolds s (withShadow s d) p ing
  | none => false

/-- Link a packet into the hold queue of its class. -/
def linkHold (s : State) (p : Packet) (ing : Ingress) (col : Colour) : State :=
  ev (noteHeld (pushEntry s { pkt := p, ing := ing, period := periodOf s ing, kind := .hold, targets := [], freed := 0,
                              colour := col, dup := false })) 1243 1

/-! ## Packets without an answer -/

/-- Discard and count a packet whose outcome is `unreachable` (R135). -/
def discDead (s : State) (p : Packet) (ing : Ingress) : State := ev (bump64 (discardCells s p ing) SWC_DISC_DEADPORT 1) 1236 1

/-- Discard and count an unroutable packet (R39, R135, R140). -/
def discUnroute (s : State) (p : Packet) (ing : Ingress) : State := ev (bump64 (discardCells s p ing) SWC_DISC_UNROUTE 1) 1233 1

/-- A number for each ingress point, for what is limited per point: a port's own number, and numbers above 257 for the others. -/
def ingNo : Ingress → Nat
  | .port p => p.val
  | .store d => 258 + d.val
  | .hall => 260
  | .host j => 261 + j.val
  | .mgmt => 263
  | .hearth => 264

/-- The first such packet on an ingress point in each 1 ms of the local counter is recorded, with the point in the details' bytes 16-17
(log entry 14). -/
def limitedAt (s : State) (ing : Ingress) (code sev source : Nat) (epc : Epc) : State :=
  faultLimited s (code * 65536 + ingNo ing) 1000000 code sev source epc (det [(16, 2, ingNo ing)])

/-! ## Job keys (R125, R390) -/

/-- Decrypt and check a packet under its job's key; none where the check fails or no key is held. -/
def openPkt (s : State) (p : Packet) : Option Packet × State :=
  if !p.enc then (some p, s)
  else match s.sec.jobKeys.find? fun k => k.job == p.job && k.epoch.toNat == p.ext.toNat % 16 with
    | none => (none, s)
    | some k =>
      if k.partition != p.partition then (none, s)
      else match Config.gcmOpen k.key (BitVec.ofNat 96 (p.ext.toNat / 2 ^ 32)) (p.header ++ leBytes 16 p.ext.toNat) p.payload p.gtag with
        | some body => (some { p with payload := body }, ev s 2034 1)
        | none => (none, s)

/-- A failed check is recorded and counted; its packet is gone. -/
def jobKeyFail (s : State) (p : Packet) (ing : Ingress) : State :=
  let s := limitedAt (ev (discardCells s p ing) 2033 1) ing 0x0204 2 0 p.src
  if p.vc = 4 then setBitOf s COL_ERR 5 true else s

/-- Place a packet that R135 sends to one of the module's own Units, without the checks made for requests. -/
def placeLocal (s : State) (p : Packet) (ing : Ingress) (u : Nat) (col : Colour) : State :=
  if 13 ≤ u && u ≤ 30 then discUnroute s p ing
  else if p.vc = 4 && u ≠ 12 then discUnroute s p ing
  else if p.opcode = opSTREAM_WRITE && u ≠ 1 then discUnroute s p ing
  else if p.opcode = opTELEMETRY && u ≠ 0 then discUnroute s p ing
  else if u = 0 && p.vc = 5 && dieDead s (.port 3) then discardCells s p ing
  else deliverLocal s p ing u col false

/-- Look a packet up and link it, answering nothing: the way of responses, C2, C4 and C5 packets, whose cells are taken. -/
def forward (s : State) (p : Packet) (ing : Ingress) (col : Colour) : State :=
  if heldByDrain s p ing then linkHold s p ing col
  else match route s p ing with
    | (.unit u, s) =>
      match openPkt s p with
      | (some q, s) => placeLocal s q ing u col
      | (none, s) => jobKeyFail s p ing
    | (.out e, s) => linkOut s p ing e col false
    | (.unreachable, s) => discDead s p ing
    | (.unroutable, s) => discUnroute s p ing

/-- The seat is in FLT_RETIRED (R358). -/
def seatRetired (s : State) (e : Epc) : Bool :=
  (List.range 64).any fun r => bitOf s (FLT_RETIRED r) 24 && fldOf s (FLT_RETIRED r) 23 0 == (epcWithUnit e 0).toNat

/-- The targets R139 gives a multicast packet. -/
def mcastTargets (s : State) (p : Packet) (ing : Ingress) : List (Egress ⊕ Nat) × Nat × State :=
  let k := p.dest.toNat % 4096
  let seatBit (n : Nat) : Bool := bitOf s (SWC_MASK k (n / 32)) (n % 32)
  let rackBit (r : Nat) : Bool := bitOf s (SWC_MASK k (8 + r / 32)) (r % 32)
  let namesHalf (h : Nat) : Bool := (List.range 256).any fun n => seatBit n && halfOfSeat s.part.hz7134 n == some h
  if !isTier2 s then
    let here := if rackBit (myRack s) then (List.range 256).filter fun n => seatBit n && halfOfSeat s.part.hz7134 n == some (myHalf s)
                else []
    let localT : List (Egress ⊕ Nat) × Nat := here.foldl (fun (acc : List (Egress ⊕ Nat) × Nat) n =>
      if seatRetired s (mkEpc (myPlane s) (myRack s) n 0) then (acc.1, acc.2 + 1)
      else match fldOf s (SWC_SEAT n) 1 0 with
      | 1 => let q := fldOf s (SWC_SEAT n) 9 2
             if ing = .port (Fin.ofNat 258 q) then acc
             else if routeEn s q then (acc.1 ++ [.inl (egPort q)], acc.2) else (acc.1, acc.2 + 1)
      | 2 => let j := fldOf s (SWC_SEAT n) 2 2
             if ing = .host (Fin.ofNat 2 j) then acc
             else if hostUp s j then (acc.1 ++ [.inl (.host (Fin.ofNat 2 j))], acc.2) else (acc.1, acc.2 + 1)
      | 3 => (acc.1 ++ [.inr (if p.vc = 4 then 12 else 1)], acc.2)
      | _ => (acc.1, acc.2 + 1)) ([], 0)
    let fromUp := match ing with | .port q => isUpPort s q.val | _ => false
    let up := !fromUp && ((List.range 128).any (fun r => r != myRack s && rackBit r) ||
      (rackBit (myRack s) && (List.range (nHalves s)).any fun h => h != myHalf s && namesHalf h))
    if up then
      match pick s p (allUp s) with
      | (some q, s) => (localT.1 ++ [.inl (egPort q)], localT.2, s)
      | (none, s) => (localT.1, localT.2 + 1, s)
    else (localT.1, localT.2, s)
  else
    let pairs := (List.range 128).flatMap fun r => (List.range (nHalves s)).filterMap fun h =>
      if rackBit r && namesHalf h then some (nHalves s * r + h) else none
    pairs.foldl (fun (acc : List (Egress ⊕ Nat) × Nat × State) i =>
      match downEntry acc.2.2 i with
      | none => (acc.1, acc.2.1 + 1, acc.2.2)
      | some l =>
        if (match ing with | .port q => l.ports.contains q.val | _ => false) then acc
        else match pick acc.2.2 p l with
          | (some q, s) => (acc.1 ++ [.inl (egPort q)], acc.2.1, s)
          | (none, s) => (acc.1, acc.2.1 + 1, s)) ([], 0, s)

/-- The copy for one of the module's own Units, decrypted there; one whose check fails is recorded and lost (R125). -/
def mcastOwn (s : State) (p : Packet) (ing : Ingress) : State :=
  match openPkt s p with
  | (some q, s) => { s with inbox := s.inbox ++ [{ pkt := q, ing := ing, dup := false }] }
  | (none, s) =>
    let s := limitedAt (ev s 2033 1) ing 0x0204 2 0 p.src
    if p.vc = 4 then setBitOf s COL_ERR 5 true else s

/-- Replicate a multicast packet whose cells are taken (R139, R140, R143): linked once with its target set; copies to the
module's own Units are passed on; copies to ports not enabled are discarded and counted. -/
def multicast (s : State) (p : Packet) (ing : Ingress) (col : Colour) : State :=
  let k := p.dest.toNat % 4096
  if !bitOf s (SWC_MASK k 12) 0 || bits p.dest.toNat 20 12 ≠ 0 then discUnroute s p ing
  else if heldByDrain s p ing then linkHold s p ing col
  else
    let (ts, dead, s) := mcastTargets s p ing
    let s := ev (bump64 s SWC_DISC_DEADPORT dead) 1236 dead
    let outs := ts.filterMap fun t => match t with | .inl e => some e | .inr _ => none
    let units := ts.filterMap fun t => match t with | .inl _ => none | .inr u => some u
    let s := forEach units s fun s _ => mcastOwn s p ing
    let dropped := outs.foldl (fun (acc : List Egress × State) e =>
      if p.vc = 5 then
        let r := c5Drop acc.2 e col
        if r.1 then (acc.1, r.2) else (acc.1 ++ [e], r.2)
      else (acc.1 ++ [e], acc.2)) (([] : List Egress), s)
    let outs := dropped.1
    let s := forEach outs dropped.2 fun s e => markQueue s e p
    if outs = [] then discardCells s p ing
    else pushEntry s { pkt := p, ing := ing, period := periodOf s ing,
                       kind := .mcast (Fin.ofNat 64 (k % 32 + if p.vc = 4 then 0 else 32)),
                       targets := outs.map fun e => (e, 0), freed := 0, colour := col, dup := false }

/-! ## Packets of the module's own making -/

/-- Encrypt a packet under a held job key (R123, R124): the EPOCH and the sender's next COUNT go into the extension. -/
def sealPkt (s : State) (p : Packet) (epoch : Nat) : Packet × State :=
  match s.sec.jobKeys.find? fun k => k.job == p.job && k.epoch.toNat == epoch with
  | none => (p, s)
  | some k =>
    let cnt := cget 0 s.e2e.ivCount p.src.toNat
    let ext := BitVec.ofNat 128 (epoch + p.src.toNat * 2 ^ 32 + cnt * 2 ^ 56)
    let p := { p with enc := true, ext := ext }
    let r := Config.gcmSeal k.key (BitVec.ofNat 96 (ext.toNat / 2 ^ 32)) (p.header ++ leBytes 16 ext.toNat) p.payload
    ({ p with payload := slice r.1 0 p.length.toNat, gtag := r.2 },
     ev { s with e2e := { s.e2e with ivCount := cset 0 s.e2e.ivCount p.src.toNat (cnt + 1) } } 2035 1)

/-- Send a packet that answers nothing further: a response, a C2, C4 or C5 packet of the module. Its cells are taken here. -/
def sendPlain (s : State) (p : Packet) (ing : Ingress) : State :=
  let s := takeCells s p.cells
  if p.mcast then multicast s p ing .green else forward s p ing .green

/-- Answer a request in the destination's name (R498), in clear. -/
def answerFor (s : State) (p : Packet) (status : Nat) : State :=
  sendPlain s (answerPkt p status 0 0 0 []) .hearth

/-- Answer a request as its destination, encrypted when the request was and the status is OK or DEFERRED (R124). -/
def respond (s : State) (p : Packet) (status state : Nat) (token : BitVec 16) (hint : Nat) (data : List Byte) : State :=
  let a := answerPkt p status state token hint data
  if p.enc then
    let r := sealPkt s a (p.ext.toNat % 16)
    sendPlain r.2 r.1 .hearth
  else sendPlain s a .hearth

/-! ## Relinking (R162) -/

/-- A C0 or C1 request. -/
def isC01Request (p : Packet) : Bool := p.isRequest && decide (p.vc ≤ 1)

/-- Look one queued packet up again: its place in the list is kept, so it stays ahead of later arrivals. -/
def relinkOne (s : State) (e : QEntry) (dead : Egress) : State × List QEntry :=
  if !(e.targets.any fun t => t.1 == dead) then (s, [e])
  else match e.kind with
    | .mcast _ =>
      let ts := e.targets.filter fun t => t.1 != dead
      let s := ev (bump64 s SWC_DISC_DEADPORT 1) 1236 1
      if ts = [] then (freeCells s e.ing e.period e.pkt.vc e.left, []) else (s, [{ e with targets := ts }])
    | _ =>
      if e.targets.any fun t => t.1 == dead && t.2 != 0 then (freeCells s e.ing e.period e.pkt.vc e.left, [])
      else match route s e.pkt e.ing with
        | (.out eg, s) => (s, [{ e with targets := [(eg, 0)] }])
        | (_, s) =>
          let s := ev (bump64 (freeCells s e.ing e.period e.pkt.vc e.left) SWC_DISC_DEADPORT 1) 1236 1
          (if isC01Request e.pkt then answerFor s e.pkt stUNREACHABLE else s, [])

/-- Look again at everything queued for an egress point that has gone (R162). -/
def relink (s : State) (dead : Egress) : State :=
  let q := s.sw.queue
  let r := q.foldl (fun (acc : State × List QEntry) e => let (s, es) := relinkOne acc.1 e dead; (s, acc.2 ++ es))
    ({ s with sw := { s.sw with queue := [] } }, [])
  { r.1 with sw := { r.1.sw with queue := r.2 ++ r.1.sw.queue } }

/-! ## The drain (R163) -/

/-- Step 1: the shadow words are loaded and STATE becomes 1. -/
def startDrain (s : State) (owner : DrainOwner) (shadow : List (Nat × Word)) (enable : List Nat) : State :=
  let s := { s with sw := { s.sw with drain := some { owner := owner, shadow := shadow, enable := enable, startAt := s.now,
                                                      settleAt := 0 } } }
  ev (setFld (setFld s SWC_DRAIN_STATUS 1 0 1) SWC_DRAIN_STATUS 2 2 0) 1241 1

/-- Step 3's first condition: no queued cell and no unacknowledged flit belongs to a packet the drain moves. -/
def drainQuiet (s : State) : Bool :=
  match s.sw.drain with
  | none => true
  | some d =>
    let b := withShadow s d
    let moves (p : Packet) (ing : Ingress) : Bool := drainHolds s b p ing
    !(s.sw.queue.any fun e => (match e.kind with | .hold | .hearth => false | _ => true) && moves e.pkt e.ing) &&
    !(s.links.any fun l => l.2.replay.any fun f => f.carries.any fun p => moves p (.hearth))

/-- A new N counts samples afresh (R156). -/
def noteMirrorN (s : State) (off : Nat) : State :=
  if SWC_MIRROR_N 0 0 ≤ off && off < SWC_MIRROR_N 256 0 && decide ((off - SWC_MIRROR_N 0 0) % 256 < 12) then
    let p := (off - SWC_MIRROR_N 0 0) / 256
    let k := (off - SWC_MIRROR_N 0 0) % 256 / 4
    let x := pswOf s p
    setPsw s p { x with arrivals := vset (vset x.arrivals (2 * k) 0) (2 * k + 1) 0 }
  else s

/-- Step 4: the shadow words become live, and nothing more is held. -/
def drainGoLive (s : State) (d : Drain) : State :=
  let b := forEach (d.shadow.map Prod.fst) (withShadow s d) noteMirrorN
  setFld { b with sw := { b.sw with drain := some { d with shadow := [], enable := [] } } } SWC_DRAIN_STATUS 1 0 3

/-- The drain is over, and whoever asked for it goes on. -/
def drainOver (s : State) : State := setFld { s with sw := { s.sw with drain := none } } SWC_DRAIN_STATUS 1 0 0

end Sys2Proof.Machine
end

