-- ==== Sys2Proof/Machine/E2E.lean ====
section
/-! DEFINITION. The end-to-end layer: pair contexts at the destination (R118-R121, R174), the requests of the module's own sources
(R116, R117, R120, R122, R175, R176, R499), flagged writes and fences (R178-R183), and the packets that issue them. -/

namespace Sys2Proof.Machine

/-! ## Pair contexts (R118-R121, R174) -/

/-- The pair context of a source and destination. -/
def pairCtx (s : State) (src dst : Epc) : Option PairCtx := s.e2e.ctxs.find? fun c => c.src == src && c.dst == dst

/-- Store a pair context. -/
def setPairCtx (s : State) (c : PairCtx) : State :=
  { s with e2e := { s.e2e with ctxs := c :: s.e2e.ctxs.filter fun x => !(x.src == c.src && x.dst == c.dst) } }

/-- What a destination does with a C1 request (R118-R121, R174). -/
inductive PairVerdict where
  | accepted | duplicate | gap | outOfRange | noContext | noRoom
  | defer (token : BitVec 16) (hint : BitVec 4)
  deriving DecidableEq, Repr

/-- The contexts a module holds (R121). -/
def maxPairCtxs : Nat := 262144

/-- A context idle for at least 1 ms (R120, R121). -/
def ctxIdle (s : State) (c : PairCtx) : Bool := decide (c.stamp + 1000000 ≤ s.now)

/-- The classification of R118 against a context, with R119's and R174's deferrals. -/
def classify (c : PairCtx) (p : Packet) : PairVerdict :=
  let d := (p.seq.toNat + 65536 - c.expect.toNat) % 65536
  if d = 0 then
    match c.deferral with
    | some f => if p.token = f.token then .accepted else .defer f.token f.hint
    | none => .accepted
  else if d ≤ 127 then .gap
  else if 65408 ≤ d then
    match c.deferral with
    | some f =>
      if (p.seq.toNat + 65536 - f.dseq.toNat) % 65536 < (c.expect.toNat + 65536 - f.dseq.toNat) % 65536 then .defer f.token f.hint
      else .duplicate
    | none => .duplicate
  else .outOfRange

/-- Check a C1 request against its pair context, and the contexts after it. -/
def pairCheck (s : State) (p : Packet) : PairVerdict × State :=
  let fresh (s : State) : PairVerdict × State :=
    (.accepted, setPairCtx s { src := p.src, dst := p.dest, expect := p.seq + 1, stamp := s.now, deferral := none })
  let known (c : PairCtx) : PairVerdict × State :=
    let v := classify c p
    if p.seq = c.expect then (v, setPairCtx s { c with expect := c.expect + 1, stamp := s.now }) else (v, s)
  match pairCtx s p.src p.dest with
  | some c => if p.opn && ctxIdle s c then fresh s else known c
  | none =>
    if !p.opn then (.noContext, s)
    else if s.e2e.ctxs.length < maxPairCtxs then fresh s
    else match s.e2e.ctxs.find? (ctxIdle s) with
      | some c => fresh { s with e2e := { s.e2e with ctxs := s.e2e.ctxs.erase c } }
      | none => (.noRoom, s)

/-- A home answers a request of a pair DEFERRED: its context enters deferral, or stays in the one it is in (R174). -/
def enterDeferral (s : State) (p : Packet) (token : BitVec 16) (hint : BitVec 4) : State :=
  match pairCtx s p.src p.dest with
  | some c =>
    let dseq := match c.deferral with | some f => f.dseq | none => p.seq
    setPairCtx s { c with deferral := some { dseq := dseq, token := token, hint := hint } }
  | none => s

/-- A request carrying the TOKEN of its pair's deferral has been placed: the deferral ends (R174). -/
def endDeferral (s : State) (p : Packet) : State :=
  match pairCtx s p.src p.dest with
  | some c => match c.deferral with
    | some f => if f.token = p.token then setPairCtx s { c with deferral := none } else s
    | none => s
  | none => s

/-! ## The module's own requests -/

/-- The pair of a source and destination. -/
def srcPair (s : State) (src dst : Epc) : SrcPair :=
  match s.e2e.pairs.find? fun x => x.src == src && x.dst == dst with
  | some x => x
  | none => { src := src, dst := dst, nextSeq := 0, lastSend := 0, opened := false, dead := false }

/-- Store a pair. -/
def setSrcPair (s : State) (x : SrcPair) : State :=
  { s with e2e := { s.e2e with pairs := x :: s.e2e.pairs.filter fun y => !(y.src == x.src && y.dst == x.dst) } }

/-- Requests of the same source, destination and class. -/
def samePair (a b : OutReq) : Bool := a.pkt.src == b.pkt.src && a.pkt.dest == b.pkt.dest && a.pkt.cls == b.pkt.cls

/-- A request that has been sent and not answered. -/
def OutReq.isSent (r : OutReq) : Bool := r.st == .sent
/-- A request that is held. -/
def OutReq.isHeld (r : OutReq) : Bool := r.st == .held
/-- A request that was answered DEFERRED. -/
def OutReq.isDeferred (r : OutReq) : Bool := match r.st with | .deferred _ _ => true | _ => false

/-- A store that a flagged write counts (R179). -/
def countsForFlag (p : Packet) : Bool :=
  p.opcode == opWRITE || p.opcode == opWRITE_MASK || p.opcode == opREG_WRITE || p.opcode == opATOMIC ||
  (p.opcode == opGIVE && p.length != 0)

/-- The two sets of R451: requests of the same function, and requests under either of its SRCs; for other agents, requests of
the same source EPC. -/
def sharesSource (srcs : List Epc) (fn : Option (Nat × Nat)) (r : OutReq) : Bool :=
  srcs.contains r.pkt.src || (fn.isSome && r.fn == fn)

/-- The SRCs of a host function (R451): the module's own EPC with Unit 10 + j, and the host's with the function's UNIT. -/
def fnSrcs (s : State) (j f : Nat) : List Epc := [myEpc s (10 + j), hostEpc s j (fldOf s (HST_FN_CFG j f) 12 8)]

/-- The sources whose requests a request's flag counts. -/
def srcsOf (s : State) (r : OutReq) : List Epc :=
  match r.fn with | some (j, f) => fnSrcs s j f | none => [r.pkt.src]

/-- Requests a flagged write still waits for (R178, R179, R451). -/
def flagWaits (s : State) (r : OutReq) : Bool :=
  s.e2e.outs.any fun q => decide (q.n < r.n) && sharesSource (srcsOf s r) r.fn q && countsForFlag q.pkt

/-- A held request may be sent now: nothing earlier of its pair is held (R180, R171) or awaits its resend (R175, R499), no OPEN
request is outstanding (R176), fewer than 128 are outstanding (R116), the pair is not dead (R117); and, for a flagged write,
all it counts has completed (R178). -/
def maySend (s : State) (r : OutReq) : Bool :=
  let peers := s.e2e.outs.filter fun q => samePair q r && q.n != r.n
  let p := srcPair s r.pkt.src r.pkt.dest
  !(peers.any fun q => q.isHeld && decide (q.n < r.n)) && !(peers.any OutReq.isDeferred) && !(r.pkt.flag && flagWaits s r) &&
  (r.local_ || r.pkt.vc == 0 ||
    (!(p.dead && decide (s.now < p.lastSend + 2000000)) && !(peers.any fun q => q.isSent && q.pkt.opn) &&
     decide ((peers.filter OutReq.isSent).length < 128)))

/-- Replace a request in the list. -/
def updOut (s : State) (r : OutReq) : State :=
  { s with e2e := { s.e2e with outs := s.e2e.outs.map fun q => if q.n = r.n then r else q } }

/-- Put a request's packet on its way: encrypted afresh when its job asks for it (R117, R123); a request between Units of the
module is not encrypted (log entry 12). -/
def launch (s : State) (r : OutReq) (ing : Ingress) : State :=
  if r.pkt.enc && !r.local_ then
    let x := sealPkt s { r.pkt with enc := false } (r.pkt.ext.toNat % 16)
    sendPlain x.2 x.1 ing
  else sendPlain s { r.pkt with enc := false } ing

/-- The ingress point of a source Unit. -/
def ingressOfUnit (s : State) (src : Epc) : Ingress :=
  if isMine s src then
    match unitEgress (epcUnit src) 0 with
    | some .hall => .hall
    | some (.host j) => .host j
    | some .mgmt => .mgmt
    | some (.store d) => .store d
    | _ => .hearth
  else if sameSeat src (hostEpc s 1 0) then .host 1 else .host 0

/-- A closed pair (R120): nothing outstanding, and nothing sent for 2 ms. -/
def pairClosed (s : State) (x : SrcPair) : Bool :=
  !x.opened || (decide (x.lastSend + 2000000 ≤ s.now) &&
    !(s.e2e.outs.any fun q => q.pkt.src == x.src && q.pkt.dest == x.dst && q.pkt.vc == 1 && q.isSent))

/-- Failed requests in a range of issue numbers, of a set of sources: how many, and the status and destination of the earliest. -/
def failures (s : State) (srcs : List Epc) (fn : Option (Nat × Nat)) (lo hi : Nat) (storesOnly : Bool) : List DoneReq :=
  s.e2e.done.filter fun d => decide (lo ≤ d.n) && decide (d.n < hi) && (srcs.contains d.src || (fn.isSome && d.fn == fn)) &&
    (!storesOnly || d.store)

/-- The key under which a source keeps its previous flagged write's issue number. -/
def flagKey (r : OutReq) : Nat := match r.fn with | some (j, f) => 2 ^ 24 + j * 128 + f | none => r.pkt.src.toNat

/-- A flagged write goes out: the source reports the counted requests issued since its previous flagged write that failed (R181). -/
def reportFlag (s : State) (r : OutReq) : State :=
  let lo := cget 0 s.e2e.lastFlag (flagKey r)
  if !r.pkt.flag || lo = r.n then s
  else { s with e2e := { s.e2e with flagReport := failures s (srcsOf s r) r.fn lo r.n true,
                                    lastFlag := cset 0 s.e2e.lastFlag (flagKey r) r.n } }

/-- Send a request for the first time: SEQ and OPEN by R116 and R120 (a closed pair's SEQ is chosen freely by the source: the
module goes on from its last, log entry 13). -/
def sendFirst (s : State) (r : OutReq) : State :=
  let s := reportFlag s r
  if r.local_ || r.pkt.vc = 0 then
    let r := { r with st := .sent, first := s.now, last := s.now, tries := 0 }
    launch (updOut s r) r (ingressOfUnit s r.pkt.src)
  else
    let x := srcPair s r.pkt.src r.pkt.dest
    let op := pairClosed s x
    let r := { r with st := .sent, first := s.now, last := s.now, tries := 0,
                      pkt := { r.pkt with seq := x.nextSeq, opn := op, retx := false } }
    let s := setSrcPair s { x with nextSeq := x.nextSeq + 1, lastSend := s.now, opened := true, dead := false }
    launch (updOut s r) r (ingressOfUnit s r.pkt.src)

/-- Send every held request that may go, in issue order. A held flagged write goes by FLAGGED_WRITE_RELEASE. -/
def pump (s : State) : State :=
  forEach (s.e2e.outs.filter OutReq.isHeld) s fun s r => if !r.pkt.flag && maySend s r then sendFirst s r else s

/-- Issue a request of one of the module's own sources: numbered, given a TAG, and sent as soon as the rules of its pair let it.
A flagged write that waits for nothing is sent at once (R178). -/
def issue (s : State) (p : Packet) (agent : Agent) (fn : Option (Nat × Nat)) : State :=
  let tag := s.e2e.nextTag
  let opf := BitVec.ofNat 96 (setBits p.opf.toNat 63 48 tag.toNat)
  let r : OutReq := { n := s.e2e.nextIssue, pkt := { p with opf := opf }, local_ := isMine s p.dest, agent := agent, fn := fn,
                      st := .held, first := s.now, last := s.now, tries := 0 }
  let s := { s with e2e := { s.e2e with outs := s.e2e.outs ++ [r], nextIssue := s.e2e.nextIssue + 1,
                                        nextTag := if tag = 65535 then 1 else tag + 1 } }
  if maySend s r then sendFirst s r else s

/-- The outstanding request a response answers: matched by pair, SEQ and TAG (R116, R498); a response in clear with status OK to
an encrypted request does not match (R498). -/
def matchOut (s : State) (p : Packet) : Option OutReq :=
  s.e2e.outs.find? fun r => r.isSent && r.pkt.src == p.dest && r.pkt.dest == p.src && r.pkt.seq == p.seq && r.pkt.tag == p.tag &&
    !(r.pkt.enc && !r.local_ && !p.enc && statusOf p == stOK)

/-- Take a request out of the list; a status other than OK is kept for the reports of flags and fences (R181, R183). -/
def retire (s : State) (r : OutReq) (status : Nat) : State :=
  let s := { s with e2e := { s.e2e with outs := s.e2e.outs.filter fun q => q.n != r.n } }
  if status = stOK then s
  else { s with e2e := { s.e2e with done := s.e2e.done ++ [{ n := r.n, src := r.pkt.src, fn := r.fn, store := countsForFlag r.pkt,
                                                             status := BitVec.ofNat 4 status, dest := r.pkt.dest }] } }

/-- A request was answered DEFERRED: it waits at least 2^HINT × 64 ns (R110, R175, R499). A TOKEN of 0 leaves the pair closed
(R121). -/
def noteDeferred (s : State) (r : OutReq) (token : BitVec 16) (hint : Nat) : State :=
  let s := updOut s { r with st := .deferred token (s.now + 2 ^ hint * 64) }
  if token = 0 && !r.local_ && r.pkt.vc == 1 then setSrcPair s { srcPair s r.pkt.src r.pkt.dest with opened := false } else s

/-- Every outstanding C1 request of a pair. -/
def outstanding (s : State) (src dst : Epc) : List OutReq :=
  s.e2e.outs.filter fun r => r.isSent && r.pkt.src == src && r.pkt.dest == dst && r.pkt.vc == 1 && !r.local_

/-- Retransmit a request: same SEQ and TAG, RETX set (R117). -/
def retransmit (s : State) (r : OutReq) (counts : Bool) : State :=
  let r := { r with last := s.now, tries := if counts then r.tries + 1 else r.tries, pkt := { r.pkt with retx := true } }
  let s := setSrcPair s { srcPair s r.pkt.src r.pkt.dest with lastSend := s.now }
  launch (updOut s r) r (ingressOfUnit s r.pkt.src)

/-- A deferred request becomes a new one, to be sent in its turn, with its TOKEN and a fresh TAG (R175, R499). -/
def readyAgain (s : State) (r : OutReq) (token : BitVec 16) : State :=
  let tag := s.e2e.nextTag
  let opf := BitVec.ofNat 96 (setBits (setBits r.pkt.opf.toNat 63 48 tag.toNat) 79 64 token.toNat)
  let s := { s with e2e := { s.e2e with nextTag := if tag = 65535 then 1 else tag + 1 } }
  updOut s { r with st := .held, pkt := { r.pkt with opf := opf } }

/-- Send the held requests of a list that may go, in order. -/
def sendReady (s : State) (ns : List Nat) : State :=
  forEach ns s fun s n => match s.e2e.outs.find? fun r => r.n == n with
    | some r => if r.isHeld && maySend s r then sendFirst s r else s
    | none => s

/-- Resend every deferred request of a pair and class whose turn has come, in the order of their issue: the first one's HINT has
passed, and the others follow it (R175, R499). Where the first carries OPEN, or the pair is not closed yet after a timeout (R117), they
wait like any held request. -/
def resendDeferred (s : State) (src dst : Epc) (c0 : Bool) : State :=
  let ds := s.e2e.outs.filter fun r => r.isDeferred && r.pkt.src == src && r.pkt.dest == dst && (r.pkt.vc == 0) == c0
  let due := ds.all fun r => match r.st with | .deferred _ t => decide (t ≤ s.now) | _ => true
  if ds = [] || !due then s
  else
    let s := forEach ds s fun s r => match r.st with | .deferred t _ => readyAgain s r t | _ => s
    pump (sendReady s (ds.map OutReq.n))

/-! ## Reports (R181, R183) -/

/-- The earliest failed request by issue order. -/
def earliest : List DoneReq → Option DoneReq
  | [] => none
  | d :: ds => match earliest ds with
    | some e => if e.n < d.n then some e else some d
    | none => some d

/-- Requests a fence still waits for (R182). -/
def fenceWaits (s : State) (f : FenceRun) : Bool := s.e2e.outs.any fun q => decide (q.n < f.n) && sharesSource f.srcs f.fn q

/-- The key under which a fence's owner keeps its previous fence's issue number. -/
def fenceKey : FenceId → Nat
  | .hall c => c.val
  | .host j f => 16 + j.val * 128 + f.val

/-- Start a fence: it counts every earlier request of its sources; its report starts at the previous fence's place. -/
def startFence (s : State) (id : FenceId) (srcs : List Epc) (fn : Option (Nat × Nat)) : State :=
  let k := fenceKey id
  let f : FenceRun := { id := id, srcs := srcs, fn := fn, n := s.e2e.nextIssue, since := cget 0 s.e2e.lastFence k }
  { s with e2e := { s.e2e with fences := s.e2e.fences ++ [f], lastFence := cset 0 s.e2e.lastFence k s.e2e.nextIssue } }

/-- End a fence and give its report: STATUS, EPC and COUNT of R183. Failures no other source's fence can still report are kept. -/
def endFence (s : State) (f : FenceRun) : State × (Nat × Nat × Nat) :=
  let fs := failures s f.srcs f.fn f.since f.n false
  let rep := match earliest fs with
    | some e => (e.status.toNat, e.dest.toNat, fs.length)
    | none => (0, 0, 0)
  ({ s with e2e := { s.e2e with fences := s.e2e.fences.filter fun g => g.id != f.id } }, rep)

end Sys2Proof.Machine
end

