-- ==== Sys2Proof/Machine/Flags.lean ====
section
/-! DEFINITION. Flags: the event and error bits the blocks set (W1C registers), the alert levels of R464, the service flags of
FLT_STATUS (R366, R367), semaphores of the Hall (R252), and the notices and error reports of the host functions (R452, R456). -/

namespace Sys2Proof.Machine

/-! ## W1C flags -/

/-- Set a bit of a port's LNK_PORT_EVENTS: 0 DEGRADED, 1 WIDENED, 2 DOWN, 3 MISWIRE, 4 MEMBER, 5 RATE_LOW, 6 IDLE_EXIT_FAIL. -/
def portEvent (s : State) (p b : Nat) : State := setBitOf s (LNK_PORT_EVENTS p) b true

/-- At most once per period since the last use of a key. -/
def onceSince (s : State) (key period : Nat) : Bool :=
  cget 0 s.res.rates key == 0 || decide (cget 0 s.res.rates key + period ≤ s.now + 1)

/-- Note the use of a key now. -/
def noteSince (s : State) (key : Nat) : State := { s with res := { s.res with rates := cset 0 s.res.rates key (s.now + 1) } }

/-- Set a bit of LNK_MARGIN_ALERT (0 EYE, 1 DROOP, 2 OPTICAL) and write MARGIN_WARN, severity Info, at most once per lane or site
per 1 s (R91); `place` is the lane, or 1,024 + the site. The details carry it, in bytes 16-17 (the layout is the model's: log
entry 14). -/
def marginWarn (s : State) (b source place : Nat) : State :=
  let s := setBitOf s LNK_MARGIN_ALERT b true
  let key := 0x01070000 + place
  if onceSince s key 1000000000 then fault (noteSince s key) 0x0107 0 source (myEpc s 0) (det [(16, 2, place)]) else s

/-- Set a bit of HOM_COH_ERR and note the cache: 0 STALE_EVICT, 1 REREQUEST, 2 DIR_MISMATCH, 3 HOLDER_LOST, 4 GRANT_LOST. -/
def cohErr (s : State) (b : Nat) (e : Epc) : State := wr (setBitOf s HOM_COH_ERR b true) HOM_COH_ERR_EPC e.toNat

/-- Set a bit of COL_ERR: 0 RESIDUE_CORR, 1 MOVED, 2 ABANDONED, 3 REVOKE_SENT, 4 REVOKE_LATE, 5 KEYFAIL, 6 A2A_STRADDLE. -/
def colErr (s : State) (b : Nat) : State := setBitOf s COL_ERR b true

/-- Set a bit of HAL_ERR: 0 CMD_ERR, 1 RESIDUE_CORR, 2 RESIDUE_FAIL. -/
def halErr (s : State) (b : Nat) : State := setBitOf s HAL_ERR b true

/-- Set a bit of HST_FN_ERR (0 READ_FAIL, 1 WRITE_FAIL, 2 AP_REFUSED, 3 LOST) and signal vector 2 (R457). -/
def fnErr (s : State) (j f b : Nat) : State := msix (setBitOf s (HST_FN_ERR j f) b true) j f 2

/-- Set a bit of HST_PORT_ERR: 0 LINK_DOWN, 1 MALFORMED, 2 POISONED, 3 IN_TIMEOUT, 4 NOTE_LOST. -/
def hostErr (s : State) (j b : Nat) : State := setBitOf s (HST_PORT_ERR j) b true

/-- A BAR2 access failed (R452): the first failure records STATUS and address, a later one sets LOST. -/
def fnFail (s : State) (j f b status addr : Nat) : State :=
  let s := ev s (2040 + 4 * j + 3) 1
  let first := !(bitOf s (HST_FN_ERR j f) 0) && !(bitOf s (HST_FN_ERR j f) 1)
  let s := fnErr s j f b
  if first then wr64 (setFld s (HST_FN_ERR j f) 7 4 status) (HST_FN_ERR_ADDR j f) addr
  else setBitOf s (HST_FN_ERR j f) 3 true

/-! ## Hall semaphores (R252) -/

/-- Add to a semaphore, modulo 2^32. -/
def semAdd (s : State) (sem n : Nat) : State := wr s (HAL_SEM sem) ((rd s (HAL_SEM sem) + n) % 2 ^ 32)

/-! ## Host notices (R456) -/

/-- A function is bound to a partition: PF0 to partition 0, another while it is enabled (R447). -/
def fnBound (s : State) (j f part : Nat) : Bool :=
  if f = 0 then part == 0
  else bitOf s (HST_FN_CFG j f) 13 && fldOf s (HST_FN_CFG j f) 7 0 == part

/-- The functions of a port bound to a partition. -/
def boundFns (s : State) (j part : Nat) : List Nat := (List.range 128).filter fun f => fnBound s j f part

/-- A notice to one function: written to its ring, or dropped when the ring is full or has no base. -/
def notice (s : State) (j f group kind step chunk count : Nat) : State :=
  let base := rd64 s (HST_FN_NOTE_BASE j f)
  let head := rd s (HST_FN_NOTE_HEAD j f)
  let tail := rd s (HST_FN_NOTE_TAIL j f)
  if base = 0 || (head + 2 ^ 32 - tail) % 2 ^ 32 ≥ 256 then
    let s := hostErr (fnErr s j f 3) j 4
    let key := 0x0B0300 + j
    if onceSince s key 1000000000 then fault0 (noteSince s key) 0x0B03 0 10 else s
  else
    let rec_ := leBytes 2 group ++ leBytes 1 kind ++ [0] ++ leBytes 4 step ++ leBytes 4 chunk ++ leBytes 4 count ++
      leBytes 8 s.now ++ leBytes 8 0
    let s := emit s (.dmaWrite j f (base + 32 * (head % 256)) rec_)
    let s := wr s (HST_FN_NOTE_HEAD j f) ((head + 1) % 2 ^ 32)
    msix (ev s (2040 + 4 * j + 2) 1) j f 1

/-- Notices to every bound function of both host ports: COMMITTED 0x10 and REVOKE 0x11 at the module (R456). -/
def noticeAll (s : State) (part group kind step chunk count : Nat) : State :=
  forEach [0, 1] s fun s j => forEach (boundFns s j part) s fun s f => notice s j f group kind step chunk count

/-! ## The host path of tier-2 modules (R458) -/

/-- ACTIVE_PATH of both host ports follows: a port of a tier-2 module with an odd index carries its host only once its twin has been
declared lost (R341, R458; that the twin's host port is out of service cannot be seen from here: log entry 40). Down, it reads 0. -/
def noteActivePath (s : State) : State :=
  forEach [0, 1] s fun s j =>
    setBitOf s (HST_PORT_STATUS j) 9 (bitOf s (HST_PORT_STATUS j) 0 && (!isTier2 s || mySeat s % 2 == 0 || s.res.twin.lost))

/-! ## Service level (R366, R367) -/

/-- A port die is up. -/
def portDieUp (s : State) (d : Nat) : Bool := !dieDead s (.port (Fin.ofNat 4 d))

/-- Ports in service on a port die. -/
def portsUpOn (s : State) (d : Nat) : Nat := ((allPorts s).filter fun p => inService s p && dieOfPort s p == d).length

/-- The floor of R366: the Hearth and one port die with at least two ports in service. -/
def floorUp (s : State) : Bool :=
  !dieDead s .hearth && (List.range 4).any fun d => portDieUp s d && decide (2 ≤ portsUpOn s d)

/-- MEMORY of FLT_STATUS: both Store dies. -/
def memoryUp (s : State) : Bool := floorUp s && !dieDead s (.store 0) && !dieDead s (.store 1)

/-- UPDATE of FLT_STATUS: the Hall. -/
def updateUp (s : State) : Bool := memoryUp s && !dieDead s .hall

/-- The service flags as FLT_STATUS shows them, and the level among them. -/
def serviceFlags (s : State) : Nat :=
  b2n (floorUp s) + 2 * b2n (memoryUp s) + 4 * b2n (updateUp s) +
  ((List.range 4).map fun d => b2n (portDieUp s d) * 2 ^ (3 + d)).sum + b2n (twinUp s) * 2 ^ 7

/-- A level number for SERVICE_LEVEL's details, whose layout the manual does not give (log entry 14): 0 below the floor, 1
floor, 2 memory, 3 update. -/
def serviceLevel (s : State) : Nat := b2n (floorUp s) + b2n (memoryUp s) + b2n (updateUp s)

/-- Every port's transmitters are disabled (R366): the ports leave service; the lanes go silent. -/
def disableTransmitters (s : State) : State :=
  forEach (allPorts s) s fun s p =>
    if inService s p then
      let s := setFld s (LNK_PORT_STATUS p) 2 0 0
      if p < 256 then setBitOf s (SWC_ROUTE_EN (p / 32)) (p % 32) false else s
    else s

/-- Follow a change of the units: FLT_STATUS, and from Serving onward SERVICE_LEVEL when the level has changed; below the floor
the transmitters are disabled (R366, R441). -/
def updateService (s : State) : State :=
  let lv := serviceLevel s
  let s := alertEdge s (setFld s FLT_STATUS 7 0 (serviceFlags s))
  if !serving s then { s with res := { s.res with level := lv } }
  else if lv = s.res.level then s
  else
    let s := { s with res := { s.res with level := lv } }
    if lv = 0 then disableTransmitters (fault0 s 0x070A 4 13)
    else fault s 0x070A 3 13 (myEpc s 0) (det [(16, 1, lv)])

end Sys2Proof.Machine
end

