-- ==== Sys2Proof/Machine/Regions.lean ====
section
/-! DEFINITION. The region table (R227, R235-R237) and the lines of memory beneath it: lookup, the stored bytes, the directory
bits (R195), and the devices that serve an offset (R226). -/

namespace Sys2Proof.Machine

/-- A region entry's fields (R235). -/
structure Region where
  i : Nat
  base : Nat
  size : Nat
  tier : Nat
  twinned : Bool
  standby : Bool
  sealed : Bool
  bulk : Bool
  rRight : Bool
  wRight : Bool
  evac : Bool
  part : Nat
  key : Nat
  sealBase : Nat
  sealRoot : Nat
  evacBase : Nat
  deriving DecidableEq, Repr

/-- Region entry `i` as a way to read its words. -/
def regionFrom (w : Nat → Nat) (i : Nat) : Region :=
  { i := i, base := bits (w 0) 19 0, size := bits (w 1) 19 0, tier := bits (w 0) 21 21, twinned := bit (w 0) 22,
    standby := bit (w 0) 23, sealed := bit (w 0) 24, bulk := bit (w 0) 25, rRight := bit (w 0) 26, wRight := bit (w 0) 27,
    evac := bit (w 0) 28, part := bits (w 1) 27 20, key := w 2, sealBase := bits (w 3) 23 0, sealRoot := bits (w 4) 8 0,
    evacBase := bits (w 5) 19 0 }

/-- Region entry `i`. -/
def regionOf (s : State) (i : Nat) : Region := regionFrom (fun k => rd s (HOM_REGION i k)) i

/-- Indices of the valid entries: those of the listed register words that are a valid word 0. -/
def validRegions (s : State) : List Nat :=
  (s.regs.filter fun e => HOM_REGION 0 0 ≤ e.1 && e.1 < HOM_REGION 16384 0 && (e.1 - HOM_REGION 0 0) % 32 == 0 &&
    bit e.2.toNat 20).map fun e => (e.1 - HOM_REGION 0 0) / 32

/-- An offset lies in a region's range. -/
def Region.holds (r : Region) (off : Nat) : Bool := r.base * 2 ^ 20 ≤ off && off < (r.base + r.size) * 2 ^ 20

/-- The region entry, standby or not, that holds an offset. -/
def regionAny (s : State) (off : Nat) : Option Region :=
  ((validRegions s).map (regionOf s)).find? fun r => r.holds off

/-- The region that serves an offset: a standby entry does not satisfy check 1 of R170 (R237). -/
def regionAt (s : State) (off : Nat) : Option Region :=
  ((validRegions s).map (regionOf s)).find? fun r => r.holds off && !r.standby

/-- Key of the region that holds an offset, for the module's own engines (R321, R362). -/
def regionKeyAt (s : State) (off : Nat) : Word := match regionAny s off with | some r => BitVec.ofNat 32 r.key | none => 0

/-- Offsets of the Loft window (R227). -/
def inLoft (s : State) (off : Nat) : Bool := decide (off < (if s.part.hz7134 then 0x1680000000 else 0x2D00000000))
/-- Offsets of the Cellar window (R227). -/
def inCellar (s : State) (off : Nat) : Bool :=
  decide (0x4000000000 ≤ off) && decide (off < (if s.part.hz7134 then 0x9A00000000 else 0xF400000000))
/-- Offsets of the Keepsake window (R227). -/
def inKeepsake (s : State) (off : Nat) : Bool := inCellar s off && decide ((if s.part.hz7134 then 0x8A00000000 else 0xE400000000) ≤ off)

/-- The memory device that serves an offset: 0-3 a stack, 4-11 a group (R226, R246). -/
def deviceOf (s : State) (off : Nat) : Nat :=
  let k := homeAgentOf off
  if inLoft s off then (if s.part.hz7134 then k / 4 else k / 2) else 4 + (if s.part.hz7134 then k / 2 else k)

/-- The device is in service (MEM_STATUS). -/
def deviceUp (s : State) (n : Nat) : Bool := bitOf s MEM_STATUS n

/-- Store die of an offset. -/
def storeOf (off : Nat) : Nat := homeAgentOf off / 4

/-- EPC of the home agent of an offset: Unit k + 1 (R45). -/
def agentEpc (s : State) (off : Nat) : Epc := myEpc s (homeAgentOf off + 1)

/-- The stored line at a line number. -/
def memLine (s : State) (line : Nat) : Line := bytesLine (cellRead s.homes.mem (line * 128) 128)

/-- Store a line. -/
def memWriteLine (s : State) (line : Nat) (bs : List Byte) : State :=
  { s with homes := { s.homes with mem := cellWrite s.homes.mem (line * 128) (slice bs 0 128) } }

/-- The directory bits of a line (R195); a line never written since its tier was marked reads 0b10 (R240). -/
def dirBits (s : State) (line : Nat) : Nat := (cget (2 : BitVec 2) s.homes.dirBits line).toNat

/-- Set the directory bits of a line. -/
def setDirBits (s : State) (line b : Nat) : State :=
  { s with homes := { s.homes with dirBits := cset (2 : BitVec 2) s.homes.dirBits line (BitVec.ofNat 2 b) } }

/-- Details of the line faults (R500): OFFSET, AGENT, DEVICE, CAUSE, HOLDER. -/
def lineDet (line : Nat) (device cause : Nat) (holder : Nat) : BitVec 128 :=
  det [(16, 5, line * 128), (21, 1, homeAgentOf (line * 128)), (22, 1, device), (23, 1, cause), (24, 3, holder)]

/-- A line fault: its EPC is the home agent's (R500), its source the Store die. -/
def lineFault (s : State) (code sev line device cause holder : Nat) : State :=
  fault s code sev (2 + storeOf (line * 128)) (agentEpc s (line * 128)) (lineDet line device cause holder)

/-- Watches (R264): every HAL_WATCH whose line is written adds one to its semaphore. -/
def watchRise (s : State) (line : Nat) : State :=
  forEach (List.range 16) s fun s w =>
    let hi := rd s (HAL_WATCH w + 4)
    if bit hi 31 && (rd s (HAL_WATCH w) + bits hi 0 0 * 2 ^ 32) == line then ev (semAdd s (bits hi 8 1) 1) 1735 1 else s

end Sys2Proof.Machine
end

