-- ==== Sys2Proof/Machine/Coll.lean ====
section
/-! DEFINITION. Collectives' shared operations (chapter 11): group entries and maps (R303-R307), trigger events (R309, R310), chunks
and pieces (R312, R313), the strands (R314), combining (R316-R320), owners (R321, R322), gathers (R325), votes, commit and
Revoke (R332-R337), and A2A books (R328-R330). -/

namespace Sys2Proof.Machine

/-! ## Group entries (R305, R306) -/

/-- A field of word `w` of group `g`. -/
def gf (s : State) (g w hi lo : Nat) : Nat := fldOf s (COL_GROUP g w) hi lo
def gValid (s : State) (g : Nat) : Bool := gf s g 0 0 0 == 1
/-- KIND: 0 ALL_REDUCE, 1 REDUCE_SCATTER, 2 STEP, 3 ALL_GATHER, 4 BROADCAST, 5 BARRIER, 6 A2A. -/
def gKind (s : State) (g : Nat) : Nat := gf s g 0 3 1
def gLeaf (s : State) (g : Nat) : Bool := gf s g 0 4 4 == 1
def gSpine (s : State) (g : Nat) : Bool := gf s g 0 5 5 == 1
def gOwner (s : State) (g : Nat) : Bool := gf s g 0 6 6 == 1
def gSteward (s : State) (g : Nat) : Bool := gf s g 0 7 7 == 1
def gFmtIn (s : State) (g : Nat) : Nat := gf s g 0 11 8
def gFmtOut (s : State) (g : Nat) : Nat := gf s g 0 15 12
def gFmtGather (s : State) (g : Nat) : Nat := gf s g 0 19 16
def gOp (s : State) (g : Nat) : Nat := gf s g 0 21 20
def gStoch (s : State) (g : Nat) : Bool := gf s g 0 22 22 == 1
def gEnc (s : State) (g : Nat) : Bool := gf s g 0 23 23 == 1
def gCountMode (s : State) (g : Nat) : Bool := gf s g 0 24 24 == 1
def gAutoRegather (s : State) (g : Nat) : Bool := gf s g 0 25 25 == 1
def gSource1 (s : State) (g : Nat) : Bool := gf s g 0 26 26 == 1
def gJob (s : State) (g : Nat) : Nat := gf s g 1 15 0
def gPart (s : State) (g : Nat) : Nat := gf s g 1 23 16
def gHallSem (s : State) (g : Nat) : Nat := gf s g 1 31 24
def gMembers (s : State) (g : Nat) : Nat := gf s g 2 14 0
def gOwners (s : State) (g : Nat) : Nat := gf s g 2 24 16
def gMask (s : State) (g : Nat) : Nat := gf s g 5 11 0
def gRoot (s : State) (g : Nat) : Nat := gf s g 5 31 16
def gStewardEpc (s : State) (g : Nat) : Epc := BitVec.ofNat 24 (gf s g 6 23 0)
def gChunks (s : State) (g : Nat) : Nat := gf s g 7 31 0
def gShard (s : State) (g : Nat) : Nat := gf s g 8 31 0
def gScale (s : State) (g : Nat) : Word := BitVec.ofNat 32 (gf s g 9 31 0)
def gSeed (s : State) (g : Nat) : Word := BitVec.ofNat 32 (gf s g 10 31 0)
def gCapacity (s : State) (g : Nat) : Nat := gf s g 11 15 0
def gRecord (s : State) (g : Nat) : Nat := gf s g 11 28 16
/-- A 40-bit offset field in words `w`, `w + 1`. -/
def gOffset (s : State) (g w : Nat) : Nat := gf s g w 31 0 + gf s g (w + 1) 7 0 * 2 ^ 32
def gTrigger (s : State) (g : Nat) : Nat := gOffset s g 12
def gResult (s : State) (g : Nat) : Nat := gOffset s g 14
/-- Offset of version slot 0 or 1. -/
def gParam (s : State) (g slot : Nat) : Nat := gOffset s g (if slot = 0 then 16 else 18)
def gStepRec (s : State) (g : Nat) : Nat := gOffset s g 20
def gLastElems (s : State) (g : Nat) : Nat := gf s g 22 14 0

/-- EPC of member `i` (R304, R306). -/
def memberEpc (s : State) (g i : Nat) : Epc := BitVec.ofNat 24 (fldOf s (COL_MEMBER (gf s g 3 18 0 + i)) 23 0)
/-- EPC of owner `o`. -/
def ownerEpc (s : State) (g o : Nat) : Epc := BitVec.ofNat 24 (fldOf s (COL_MEMBER (gf s g 4 18 0 + o)) 23 0)
/-- Member index of an end point, Unit ignored. -/
def memberOf (s : State) (g : Nat) (e : Epc) : Option Nat := (List.range (gMembers s g)).find? fun i => sameSeat (memberEpc s g i) e
/-- The seat attaches to this tier-1 module. -/
def isLocalSeat (s : State) (e : Epc) : Bool :=
  !isTier2 s && epcPlane e == myPlane s && epcRack e == myRack s && halfOfSeat s.part.hz7134 (epcSeat e) == some (myHalf s)
/-- The group's members attached here. -/
def localMembers (s : State) (g : Nat) : List Nat := (List.range (gMembers s g)).filter fun i => isLocalSeat s (memberEpc s g i)
/-- The leaf of a member: the tier-1 module's EPC with Unit 12. -/
def leafOfSeat (s : State) (e : Epc) : Epc := mkEpc (epcPlane e) (epcRack e) (128 + (halfOfSeat s.part.hz7134 (epcSeat e)).getD 0) 12
/-- The leaves of the group (R316). -/
def gLeaves (s : State) (g : Nat) : List Epc := ((List.range (gMembers s g)).map fun i => leafOfSeat s (memberEpc s g i)).eraseDups
/-- The group has one leaf. -/
def oneLeaf (s : State) (g : Nat) : Bool := decide ((gLeaves s g).length ≤ 1)
/-- This module's owner index. -/
def myOwner (s : State) (g : Nat) : Option Nat := (List.range (gOwners s g)).find? fun o => ownerEpc s g o == myEpc s 12

/-! ## State of groups and steps -/

def lastCommitted (s : State) (g : Nat) : Nat := rd s (COL_GSTATE g 0)
def slotCommitted (s : State) (g : Nat) : Nat := fldOf s (COL_GSTATE g 2) 3 3
def degraded (s : State) (g : Nat) : Bool := bitOf s (COL_GSTATE g 2) 2
/-- Mark the group degraded (R337). -/
def markDegraded (s : State) (g : Nat) : State := setBitOf s (COL_GSTATE g 2) 2 true

/-- The record of an open step. -/
def stepRec (s : State) (g : Nat) (step : Word) : Option StepRec := s.coll.steps.find? fun r => r.g == g && r.step == step
/-- Store the record of an open step. -/
def setStep (s : State) (r : StepRec) : State :=
  { s with coll := { s.coll with steps := r :: s.coll.steps.filter fun x => !(x.g == r.g && x.step == r.step) } }
/-- Steps of a group open here. -/
def openSteps (s : State) (g : Nat) : List StepRec := s.coll.steps.filter fun r => r.g == g
/-- The step was committed or revoked here. -/
def stepClosed (s : State) (g : Nat) (step : Word) : Bool := s.coll.closed.contains (g, step)

/-- STATE of COL_GSTATE: 0 idle, 1 running, 2 voting, 3 change pending. -/
def noteGState (s : State) (g : Nat) : State :=
  let st := if s.coll.changes.any fun c => c.g == g then 3
    else if (openSteps s g).any fun r => r.voteSent then 2 else if openSteps s g = [] then 0 else 1
  setFld s (COL_GSTATE g 2) 1 0 st

/-- Open a step if it is not open: first START or partial (R310). -/
def openStep (s : State) (g : Nat) (step : Word) : State :=
  match stepRec s g step with
  | some _ => s
  | none =>
    let s := setStep s { g := g, step := step, firstAt := s.now }
    noteGState (wr s (COL_GSTATE g 1) (max (rd s (COL_GSTATE g 1)) step.toNat)) g

/-- A member's state at its leaf. -/
def memState (s : State) (g i : Nat) : MemberState := cget {} s.coll.members (g * 16384 + i)
def setMemState (s : State) (g i : Nat) (m : MemberState) : State :=
  { s with coll := { s.coll with members := cset {} s.coll.members (g * 16384 + i) m } }

/-! ## Chunks and pieces (R312, R313) -/

/-- Elements of a chunk. -/
def chunkElems (s : State) (g c : Nat) : Nat := if c + 1 = gChunks s g then gLastElems s g else 16384
/-- Elements of a piece of a chunk. -/
def pieceElems (s : State) (g c p : Nat) : Nat := min 1024 (chunkElems s g c - 1024 * p)
/-- Pieces of a half that hold elements. -/
def halfPieces (s : State) (g c : Nat) (strand : Bool) : List Nat :=
  (List.range 16).filter fun p => (8 ≤ p) == strand && 0 < pieceElems s g c p
/-- Bytes of 1,024 elements of a format in memory, MX scales included (log entry 15). -/
def pieceStride (fmt : Nat) : Nat := pieceBytes fmt 1024

/-! ## Sending -/

/-- The epoch under which the group's packets are encrypted: of the keys held for its JOB, the one installed last (the manual
names no choice: log entry 16). -/
def gEpoch (s : State) (g : Nat) : Nat :=
  match s.sec.jobKeys.find? fun k => k.job.toNat == gJob s g with | some k => k.epoch.toNat | none => 0

/-- Send a C4 packet of the group under Unit 12 (R315), encrypted when the group asks for it. -/
def collSend (s : State) (g : Nat) (p : Packet) : State :=
  let p := { p with partition := BitVec.ofNat 8 (gPart s g), job := BitVec.ofNat 16 (gJob s g) }
  if gEnc s g then
    let r := sealPkt s p (gEpoch s g)
    sendPlain r.2 r.1 .hearth
  else sendPlain s p .hearth

/-- A C4 packet in K format from Unit 12. -/
def kPkt (s : State) (op : Byte) (dest : Epc) (g : Nat) (step chunk : Word) (strand : Bool) (fmt piece : Nat) (payload : List Byte) : Packet :=
  mkPkt op 4 dest (myEpc s 12) (opfK g step chunk strand fmt piece) payload

/-- The DEST of a multicast packet of the group. -/
def mcastDest (s : State) (g : Nat) : Epc := BitVec.ofNat 24 (myPlane s * 2 ^ 21 + gMask s g)

/-- A COLL_COUNT's payload (R326). -/
def countBytes (kind count arg member : Nat) (vec : List Nat) : List Byte :=
  leBytes 1 kind ++ leBytes 3 0 ++ leBytes 4 count ++ leBytes 4 arg ++ leBytes 2 member ++ leBytes 2 0 ++ vec.flatMap (leBytes 4)

/-- Send a COLL_COUNT. -/
def sendCount (s : State) (g : Nat) (dest : Epc) (step chunk : Word) (strand : Bool) (kind count arg member : Nat) (vec : List Nat) : State :=
  collSend s g (kPkt s opCOLL_COUNT dest g step chunk strand 15 0 (countBytes kind count arg member vec))

/-- The twin of a module EPC (R29). -/
def twinOf (e : Epc) : Epc := mkEpc (epcPlane e) (epcRack e) (if epcSeat e % 2 = 0 then epcSeat e + 1 else epcSeat e - 1) (epcUnit e)

/-- The EPC to which packets for the steward go: its twin's where the route to it is unreachable (R352). -/
def stewardDest (s : State) (g : Nat) : Epc :=
  let e := gStewardEpc s g
  match (route s (kPkt s opCOLL_COUNT e g 0 0 false 15 0 []) .hearth).1 with
  | .unreachable => twinOf e
  | _ => e

/-- Send REVOKE for (group, step, chunk) to the steward (R333); hosts of the partition are told (R456). -/
def revokeToSteward (s : State) (g : Nat) (step chunk : Word) : State :=
  let s := noticeAll (ev (bump64 (colErr s 3) COL_REVOKES 1) 1972 1) (gPart s g) g 0x11 step.toNat chunk.toNat 0
  collSend s g (kPkt s opREVOKE (stewardDest s g) g step chunk false 0 0 [])

/-- Details of the group records (R500). -/
def groupDet (g : Nat) (step chunk : Word) (strand combiner piece : Nat) : BitVec 128 :=
  det [(16, 2, g), (20, 4, step.toNat), (24, 4, chunk.toNat), (28, 1, strand), (29, 1, combiner), (30, 1, piece)]

/-- A group record under the module's Unit 12 (R500). -/
def groupFault (s : State) (code sev g : Nat) (step chunk : Word) (strand combiner piece : Nat) : State :=
  fault s code sev 1 (myEpc s 12) (groupDet g step chunk strand combiner piece)

/-! ## Strands (R314) -/

/-- The spine module can be reached from this leaf. -/
def spineUp (s : State) (m : Nat) : Bool := (bundle s m).ports.any (routeEn s)

/-- The default spine module of a chunk's strand. -/
def spineOf (s : State) (c : Nat) (strand : Bool) : Nat :=
  let k := c % (podT s / 2)
  if strand then 2 * (podT s / 2 - 1 - k) + 1 else 2 * k

/-- The spine module a leaf sends a half to; none when no spine module of the plane can be reached. -/
def spineFor (s : State) (c : Nat) (strand : Bool) : Option Nat :=
  let a := spineOf s c strand
  let b := spineOf s c (!strand)
  if spineUp s a then some a
  else if spineUp s b then some b
  else
    let k := c % (podT s / 2)
    ((List.range (podT s - 1)).map fun i => (2 * k + 1 + i) % podT s).find? (spineUp s)

/-- The spine modules of a group: those R314 assigns its chunks to. -/
def gSpines (s : State) (g : Nat) : List Epc :=
  if oneLeaf s g then []
  else ((List.range (min (gChunks s g) (podT s / 2))).flatMap fun c => [spineOf s c false, spineOf s c true]).eraseDups.map
    fun m => mkEpc (myPlane s) 255 m 12

/-! ## Halves -/

/-- A half being combined here. -/
def findHalf (s : State) (g : Nat) (step chunk : Word) (strand : Bool) : Option Half :=
  s.coll.halves.find? fun h => h.g == g && h.step == step && h.chunk == chunk && h.strand == strand
/-- Store a half. -/
def setHalf (s : State) (h : Half) : State :=
  { s with coll := { s.coll with halves := h :: s.coll.halves.filter fun x =>
    !(x.g == h.g && x.step == h.step && x.chunk == h.chunk && x.strand == h.strand) } }
/-- Remove a half. -/
def dropHalf (s : State) (h : Half) : State :=
  { s with coll := { s.coll with halves := s.coll.halves.filter fun x =>
    !(x.g == h.g && x.step == h.step && x.chunk == h.chunk && x.strand == h.strand) } }
/-- The half was combined and sent from here. -/
def halfSent (s : State) (g : Nat) (step chunk : Word) (strand : Bool) : Bool :=
  s.coll.sentHalves.any fun h => h.g == g && h.step == step && h.chunk == chunk && h.strand == strand

/-- Free the held cells of inputs (R57, R144). -/
def freeInputs (s : State) (xs : List Input) : State :=
  forEach xs s fun s x =>
    freeCells { s with sw := { s.sw with held := s.sw.held - x.cells } } x.ing x.period 4 x.cells

/-- A combiner of the module is up (COL_STATUS): 0 Strand A, 1 Strand B. -/
def combinerUp (s : State) (b : Bool) : Bool := bitOf s COL_STATUS (if b then 2 else 1)

/-- The sources whose inputs a half needs here: local members at a leaf, leaves at a spine combiner (R316). -/
def halfSources (s : State) (g : Nat) (_step : Word) : List Epc :=
  if isTier2 s then gLeaves s g else (localMembers s g).map (memberEpc s g)

/-- This module produces the result: the spine combiner, or the only leaf (R317). -/
def producesResult (s : State) (g : Nat) : Bool := isTier2 s || oneLeaf s g

/-- Combine two FP32 values by OP (R317). -/
def combineOp (op : Nat) (a b : Word) : Word := if op = 1 then f32Max a b else if op = 2 then f32Min a b else f32Add a b

/-- Add one input's elements into the running values. -/
def combineInto (op : Nat) (acc xs : List Word) : List Word := List.zipWith (combineOp op) acc xs

/-- The FP32 values of a piece, its inputs taken in their order of arrival (R318). -/
def combinePiece (op n : Nat) : List Input → List Word
  | [] => []
  | x :: xs => xs.foldl (fun acc y => combineInto op acc (pieceToF32 y.fmt n y.payload)) (pieceToF32 x.fmt n x.payload)

/-- Payload of a finished piece: FP32 partials; or scaled and cast to FMT_OUT where the result is produced (R317). -/
def pieceResult (s : State) (g : Nat) (step chunk : Word) (p : Nat) (xs : List Word) : List Byte :=
  if producesResult s g then
    let fmt := gFmtOut s g
    let cast (i : Nat) (w : Word) : Nat :=
      let v := f32Mul w (gScale s g)
      let e := 1024 * p + i
      castTo fmt (if gStoch s g then .stoch (philox (gSeed s g) step chunk (BitVec.ofNat 32 e)) else .rne) (f32 v)
    packElems fmt (xs.mapIdx cast)
  else xs.flatMap fun w => leBytes 4 w.toNat

/-- Owner of a chunk. -/
def chunkOwner (s : State) (g c : Nat) : Nat := if gShard s g = 0 then 0 else c / gShard s g

/-- A half is abandoned (R320): its cells are freed, and COMB_ABANDON is written. -/
def abandonHalf (s : State) (h : Half) : State :=
  let s := dropHalf (freeInputs s h.inputs) h
  groupFault (ev (colErr s 2) 1970 1) 0x0605 3 h.g h.step h.chunk (if h.strand then 1 else 0) (if h.combiner then 1 else 0) 0xFF

/-- Send the pieces of a passed half on: partials to the spine combiner, results to the owner or to all members (R315). A leaf
that finds no spine module abandons both halves of the chunk and tells the steward (R314). -/
def sendHalf (s : State) (h : Half) : State :=
  if producesResult s h.g then
    let kind := gKind s h.g
    let s := ev s 1963 h.done.length
    forEach h.done s fun s (p, bs) =>
      if kind = 1 || kind = 2 then
        collSend s h.g (kPkt s opCOLL_RESULT (ownerEpc s h.g (chunkOwner s h.g h.chunk.toNat)) h.g h.step h.chunk h.strand (gFmtOut s h.g) p bs)
      else
        collSend s h.g { kPkt s opCOLL_RESULT (mcastDest s h.g) h.g h.step h.chunk h.strand (gFmtOut s h.g) p bs with mcast := true }
  else match spineFor s h.chunk.toNat h.strand with
    | some m =>
      let s := if m ≠ spineOf s h.chunk.toNat h.strand then ev s 1979 1 else s
      forEach h.done (ev s 1961 h.done.length) fun s (p, bs) =>
        collSend s h.g (kPkt s opCOLL_PARTIAL (mkEpc (myPlane s) 255 m 12) h.g h.step h.chunk h.strand 0 p bs)
    | none =>
      let s := abandonHalf s h
      let s := match findHalf s h.g h.step h.chunk (!h.strand) with | some x => abandonHalf s x | none => s
      revokeToSteward s h.g h.step h.chunk

/-- Which pieces of a source a half still lacks, as a mask. -/
def lackMask (s : State) (h : Half) (src : Epc) : Nat :=
  ((halfPieces s h.g h.chunk.toNat h.strand).filter fun p =>
    !(h.done.any fun d => d.1 == p) && !(h.inputs.any fun x => x.piece == p && sameSeat x.src src)).foldl (fun a p => a + 2 ^ p) 0

/-- Send COLL_COUNT REISSUE to a source (R323). -/
def sendReissue (s : State) (g : Nat) (step chunk : Word) (strand : Bool) (dest : Epc) (mask member : Nat) : State :=
  sendCount (ev (bump64 s COL_REISSUES 1) 1971 1) g dest step chunk strand 5 0 mask member []

/-! ## Owners (R321, R322, R331) -/

/-- A write of the collective engine to the module's own memory, under Unit 12 with the region's key (R321). -/
def collWrite (s : State) (g off : Nat) (data : List Byte) (agent : Agent) : State :=
  let line := off / 128
  if off % 128 = 0 && data.length = 128 then
    issue s { mkPkt opWRITE 1 (myEpc s 1) (myEpc s 12) (opfM (line * 128) 0 0 0 0) data with
      partition := BitVec.ofNat 8 (gPart s g), regionKey := regionKeyAt s off } agent none
  else
    let o := off % 128
    let mask := (List.range data.length).foldl (fun a i => a + 2 ^ (o + i)) 0
    let body := List.replicate o 0 ++ data ++ List.replicate (128 - o - data.length) 0
    issue s { mkPkt opWRITE_MASK 1 (myEpc s 1) (myEpc s 12) (opfM (line * 128) 0 0 0 0) (leBytes 16 mask ++ body) with
      partition := BitVec.ofNat 8 (gPart s g), regionKey := regionKeyAt s off } agent none

/-- Split data at line boundaries. -/
def splitLines : Nat → Nat → List Byte → List (Nat × List Byte)
  | 0, _, _ => []
  | n + 1, off, data =>
    if data = [] then []
    else
      let k := min data.length (128 - off % 128)
      (off, data.take k) :: splitLines n (off + k) (data.drop k)

/-- Version slot into which a step's parameters go: the one that does not hold LAST_COMMITTED (R331). -/
def slotNew (s : State) (g : Nat) : Nat := 1 - slotCommitted s g

/-- Write the step record (R322): STATE 1 REDUCED or 2 REVOKED. HALL_SEM rises when it is written. -/
def writeStepRec (s : State) (g : Nat) (step : Word) (state : Nat) (chunk : Nat) : State :=
  let rec_ := leBytes 4 step.toNat ++ leBytes 1 state ++ leBytes 1 (slotNew s g) ++ leBytes 1 (slotCommitted s g) ++ [0] ++
    leBytes 4 (lastCommitted s g) ++ leBytes 4 chunk ++ List.replicate 112 0
  collWrite s g (gStepRec s g) rec_ (.stepRec g step)

/-- Chunks of this owner's shard. -/
def myChunks (s : State) (g : Nat) : List Nat :=
  match myOwner s g with
  | some o => (List.range (gChunks s g)).filter fun c => chunkOwner s g c == o
  | none => []

/-- Every half of a chunk has arrived at the owner. -/
def chunkWhole (s : State) (r : StepRec) (c : Nat) : Bool :=
  (List.range 16).all fun p => pieceElems s r.g c p = 0 || r.chunks.any fun x => x.1 == c && x.2.1 == p

/-- Write a released chunk to the RESULT region (R321). -/
def writeChunk (s : State) (r : StepRec) (c : Nat) : State :=
  let j := c - (myOwner s r.g).getD 0 * gShard s r.g
  let stride := pieceStride (gFmtOut s r.g)
  let base := gResult s r.g + j * 16 * stride
  let parts := (List.range 16).flatMap fun p =>
    match r.chunks.find? fun x => x.1 == c && x.2.1 == p with
    | some x => splitLines 64 (base + p * stride) x.2.2
    | none => []
  let s := setStep s { r with pendingWrites := r.pendingWrites + parts.length, written := r.written ++ [(c, parts.length)],
                              chunks := r.chunks.filter fun x => x.1 != c }
  forEach parts s fun s (off, bs) => collWrite s r.g off bs (.chunk r.g r.step (BitVec.ofNat 32 c))

/-- Every chunk of the shard is written. -/
def shardWritten (s : State) (r : StepRec) : Bool :=
  (myChunks s r.g).all (fun c => r.written.any fun w => w.1 == c) && r.pendingWrites == 0 && !r.failed

/-! ## Gathers (R325) -/

/-- Lines of a piece in memory, from the base of a chunk array. -/
def pieceLines (base fmt j p n : Nat) : List Nat :=
  let lo := base + j * 16 * pieceStride fmt + p * pieceStride fmt
  let hi := lo + pieceBytes fmt n
  (List.range ((hi + 127) / 128 - lo / 128)).map fun i => lo / 128 + i

/-- Base of what an owner gathers: RESULT, or the version slot of a STEP group. -/
def gatherBase (s : State) (g slot : Nat) : Nat := if gKind s g = 2 then gParam s g slot else gResult s g

/-- A READ of the collective engine from the module's own memory. -/
def collRead (s : State) (g line : Nat) (agent : Agent) : State :=
  issue s { mkPkt opREAD 1 (myEpc s 1) (myEpc s 12) (opfM (line * 128) 0 0 0 0) [] with
    partition := BitVec.ofNat 8 (gPart s g), regionKey := regionKeyAt s (line * 128) } agent none

/-- Lines of a gathered piece. -/
def gatherLines (s : State) (x : Gather) : List Nat :=
  pieceLines (gatherBase s x.g x.slot) (gFmtGather s x.g) (x.chunk - (myOwner s x.g).getD 0 * gShard s x.g) x.piece
    (pieceElems s x.g x.chunk x.piece)

/-- A piece under way for the same step and member. -/
def sameGather (x y : Gather) : Bool := x.g == y.g && x.step == y.step && x.chunk == y.chunk && x.piece == y.piece && x.member == y.member

/-- Read the lines of pieces, to send each once it is whole; one under way already is not begun again. -/
def beginGathers (s : State) (xs : List Gather) : State :=
  forEach xs s fun s x =>
    if s.coll.gathers.any (sameGather x) then s
    else
      forEach (gatherLines s x) { s with coll := { s.coll with gathers := s.coll.gathers ++ [x] } } fun s l =>
        collRead s x.g l (.gather x.g x.step (BitVec.ofNat 32 x.chunk) x.piece x.member)

/-- Gather this owner's shard of a step from a slot (R325, R335). -/
def startGather (s : State) (g : Nat) (step : Word) (slot : Nat) : State :=
  let s := match stepRec s g step with
    | some r => setStep s { r with published := true }
    | none => s
  beginGathers s ((myChunks s g).flatMap fun c => ((List.range 16).filter fun p => 0 < pieceElems s g c p).map fun p =>
    { g := g, step := step, chunk := c, piece := p, member := none, slot := slot })

/-- The last piece of a gather of all members was sent: the owner of a STEP group votes (R325, R332), unless a read has failed. -/
def gatherOver (s : State) (g : Nat) (step : Word) : State :=
  if s.coll.gathers.any fun x => x.g == g && x.step == step && x.member.isNone then s
  else match stepRec s g step with
    | none => s
    | some r =>
      if gKind s g ≠ 2 || r.gatherDone || !r.published || r.failed then s
      else
        sendCount (setStep s { r with gatherDone := true }) g (stewardDest s g) step 0xFFFFFFFF false 1 0 ((myOwner s g).getD 0) 0xFFFF []

/-- A line of a gathered piece has arrived; when the piece is whole it is sent, to all members or to the one that asked for it
again (R326). -/
def gatherLine (s : State) (g : Nat) (step chunk : Word) (p : Nat) (member : Option Epc) (line : Nat) (data : List Byte) : State :=
  match s.coll.gathers.find? (sameGather { g := g, step := step, chunk := chunk.toNat, piece := p, member := member, slot := 0 }) with
  | none => s
  | some x =>
    let x' := { x with got := (line, data) :: x.got.filter fun y => y.1 != line }
    let lines := gatherLines s x
    if lines.all fun l => x'.got.any fun y => y.1 == l then
      let bytes := lines.flatMap fun l => ((x'.got.find? fun y => y.1 == l).map Prod.snd).getD []
      let fmt := gFmtGather s g
      let lo := gatherBase s g x.slot + (x.chunk - (myOwner s g).getD 0 * gShard s g) * 16 * pieceStride fmt + p * pieceStride fmt
      let payload := slice bytes (lo % 128) (pieceBytes fmt (pieceElems s g x.chunk p))
      let s := { s with coll := { s.coll with gathers := s.coll.gathers.erase x } }
      let pkt := kPkt s opCOLL_RESULT (member.getD (mcastDest s g)) g step chunk (8 ≤ p) fmt p payload
      gatherOver (collSend (ev s 1963 1) g { pkt with mcast := member.isNone }) g step
    else { s with coll := { s.coll with gathers := s.coll.gathers.map fun y => if y = x then x' else y } }

/-- A read of a gather did not complete OK: its piece cannot be sent, and the owner does not vote on the step. -/
def gatherFails (s : State) (g : Nat) (step chunk : Word) (p : Nat) (member : Option Epc) : State :=
  let x : Gather := { g := g, step := step, chunk := chunk.toNat, piece := p, member := member, slot := 0 }
  if s.coll.gathers.any (sameGather x) then
    let s := { s with coll := { s.coll with gathers := s.coll.gathers.filter fun y => !sameGather x y } }
    let s := match stepRec s g step with | some r => setStep s { r with failed := true } | none => s
    revokeToSteward s g step chunk
  else s

/-! ## Closing steps (R332, R335) -/

/-- Free the cells of A2A packets held for a step (R330). -/
def freeA2aHeld (s : State) (xs : List (Delivered × Nat × Nat)) : State :=
  forEach xs { s with coll := { s.coll with a2aHeld := s.coll.a2aHeld.filter fun x => !xs.contains x } } fun s (d, period, cells) =>
    freeCells { s with sw := { s.sw with held := s.sw.held - cells } } d.ing period 4 cells

/-- Discard what is held of a step: halves and A2A packets with their cells, tallies, books and the step's record. -/
def closeStep (s : State) (g : Nat) (step : Word) : State :=
  let hs := s.coll.halves.filter fun h => h.g == g && h.step == step
  let s := forEach hs s fun s h => dropHalf (freeInputs s h.inputs) h
  let s := freeA2aHeld s (s.coll.a2aHeld.filter fun x => x.1.pkt.group == g && x.1.pkt.step == step)
  let s := { s with coll := { s.coll with
    steps := s.coll.steps.filter fun r => !(r.g == g && r.step == step),
    sentHalves := s.coll.sentHalves.filter fun h => !(h.g == g && h.step == step),
    tallies := s.coll.tallies.filter fun t => !(t.g == g && t.step == step),
    a2a := s.coll.a2a.filter fun t => !(t.g == g && t.step == step),
    a2aDone := s.coll.a2aDone.filter fun t => !(t.1 == g && t.2.1 == step),
    closed := if s.coll.closed.contains (g, step) then s.coll.closed else (g, step) :: s.coll.closed } }
  noteGState s g

/-- A module learns that a step is committed (R332): LAST_COMMITTED, the version slot, notices to its hosts, COMMITTED on to its
local members; the step closes. -/
def commitHere (s : State) (g : Nat) (step : Word) : State :=
  let s := wr s (COL_GSTATE g 0) step.toNat
  let s := if gOwner s g && gKind s g = 2 then setFld s (COL_GSTATE g 2) 3 3 (slotNew s g) else s
  let s := closeStep s g step
  let s := noticeAll (ev s 1973 1) (gPart s g) g 0x10 step.toNat 0xFFFFFFFF 0
  if gLeaf s g then
    forEach (localMembers s g) s fun s i => sendCount s g (memberEpc s g i) step 0xFFFFFFFF false 2 0 0 0xFFFF []
  else s

/-- The steps that a REVOKE of `step` closes: that step and every later one open or tallied here (R322, R334). -/
def revokedSteps (s : State) (g : Nat) (step : Word) : List Word :=
  let known := (openSteps s g).map StepRec.step ++ (s.coll.tallies.filter fun t => t.g == g).map Tally.step
  (step :: known.filter fun x => decide (step.toNat < x.toNat)).eraseDups

/-- A module takes a Revoke (R335): every held cell, count and vote of the revoked steps goes; members of the steps may start
again; an owner writes the step record and, with AUTO_REGATHER, sends the committed parameters. -/
def revokeHere (s : State) (g : Nat) (step chunk : Word) : State :=
  let steps := revokedSteps s g step
  let s := forEach (List.range (gMembers s g)) s fun s i =>
    let m := memState s g i
    if m.latest ≠ 0 && decide (step.toNat ≤ m.latest.toNat) then setMemState s g i { m with revoked := true } else s
  let s := forEach steps s fun s x => closeStep s g x
  let s := { s with coll := { s.coll with
    gathers := s.coll.gathers.filter fun x => !(x.g == g && steps.contains x.step),
    revoked := steps.map (fun x => (g, x)) ++ s.coll.revoked.filter fun r => !(r.1 == g && steps.contains r.2) } }
  let s := setFld s (COL_GSTATE g 3) 15 0 (fldOf s (COL_GSTATE g 3) 15 0 + 1)
  if gOwner s g then
    let s := writeStepRec s g step 2 chunk.toNat
    if gAutoRegather s g && lastCommitted s g ≠ 0 then startGather s g (BitVec.ofNat 32 (lastCommitted s g)) (slotCommitted s g) else s
  else s

/-! ## The steward (R332-R334) -/

/-- The tally of a step. -/
def tallyOf (s : State) (g : Nat) (step : Word) : Tally :=
  match s.coll.tallies.find? fun t => t.g == g && t.step == step with
  | some t => t
  | none => { g := g, step := step, firstAt := s.now }
/-- Store a tally. -/
def setTally (s : State) (t : Tally) : State :=
  { s with coll := { s.coll with tallies := t :: s.coll.tallies.filter fun x => !(x.g == t.g && x.step == t.step) } }

/-- Every other module of the group. -/
def groupModules (s : State) (g : Nat) : List Epc :=
  ((gLeaves s g) ++ ((List.range (gOwners s g)).map (ownerEpc s g)) ++ gSpines s g).eraseDups.filter fun e => e != myEpc s 12

/-- The steward commits a step whose votes are complete (R332). -/
def commitIfComplete (s : State) (g : Nat) (step : Word) : State :=
  let t := tallyOf s g step
  let needOwners := gKind s g = 1 || gKind s g = 2
  if !stepClosed s g step && t.votes == gMembers s g && (!needOwners || t.owners.length == gOwners s g) then
    let s := forEach (groupModules s g) s fun s e => sendCount s g e step 0xFFFFFFFF false 2 0 0 0xFFFF []
    commitHere s g step
  else s

/-- The steward revokes a step and every later open step of the group, and tells the group (R334). -/
def stewardRevoke (s : State) (g : Nat) (step chunk : Word) (raiser : Epc) : State :=
  let spines := (gSpines s g).filter fun e => e != myEpc s 12
  let s := fault s 0x0606 2 1 raiser (groupDet g step chunk 0xFF 0xFF 0xFF)
  let s := ev (bump64 (colErr s 3) COL_REVOKES (1 + spines.length)) 1972 (1 + spines.length)
  let s := noticeAll s (gPart s g) g 0x11 step.toNat chunk.toNat 0
  let s := collSend s g { kPkt s opREVOKE (mcastDest s g) g step chunk false 0 0 [] with mcast := true }
  let s := forEach spines s fun s e => collSend s g (kPkt s opREVOKE e g step chunk false 0 0 [])
  revokeHere s g step chunk

/-! ## Trigger events (R309, R310) -/

/-- Valid groups whose trigger line is this line, with the leaf or owner role here. -/
def triggerGroups (s : State) (line : Nat) : List Nat :=
  let gs := (s.regs.filter fun e => COL_GROUP 0 0 ≤ e.1 && e.1 < COL_GROUP 1024 0 && (e.1 - COL_GROUP 0 0) % 128 == 0 &&
    bit e.2.toNat 0).map fun e => (e.1 - COL_GROUP 0 0) / 128
  gs.filter fun g => gTrigger s g / 128 == line

/-- Count a trigger event that is ignored (R309, R310). -/
def trigIgnored (s : State) : State := ev (bump64 s COL_TRIG_IGNORED 1) 1975 1

/-- Send this leaf's count of arrivals to the steward once all its members have arrived (R325). -/
def arrivedIfComplete (s : State) (g : Nat) (step : Word) : State :=
  let gathers := gKind s g = 5 || ((gKind s g = 3 || gKind s g = 4) && !gSource1 s g)
  match stepRec s g step with
  | some r =>
    let n := (localMembers s g).length
    if gathers && !r.arrivedSent && r.arrivals.length == n then
      sendCount (setStep s { r with arrivedSent := true }) g (stewardDest s g) step 0xFFFFFFFF false 3 n 0xFFFFFFFF 0xFFFF []
    else s
  | none => s

/-- START s of member i, once R310 accepts it: LATEST rises, the arrival is stamped and ranked (R327) and passed to the suspect
scoring (R353). -/
def acceptStart (s : State) (g i : Nat) (step : Word) : State :=
  let s := setMemState s g i { latest := step, voted := false, revoked := false }
  let s := openStep s g step
  match stepRec s g step with
  | none => s
  | some r =>
    let a : Arrival := { member := i, stamp := s.now, rank := r.arrivals.length }
    let s := setStep s { r with arrivals := r.arrivals ++ [a] }
    let port := match fldOf s (SWC_SEAT (epcSeat (memberEpc s g i))) 1 0 with
      | 1 => fldOf s (SWC_SEAT (epcSeat (memberEpc s g i))) 9 2
      | _ => 65535
    let l : LateRec := { g := g, step := step, member := i, port := port, stamp := s.now, n := (localMembers s g).length }
    let s := ev { s with res := { s.res with lates := if r.late.contains i then s.res.lates else s.res.lates ++ [l] } } 1976 1
    arrivedIfComplete s g step

/-- START s from member i (R310, R308, R337). -/
def trigStart (s : State) (g i : Nat) (step : Word) : State :=
  let m := memState s g i
  if s.coll.changes.any fun c => c.g == g then
    { s with coll := { s.coll with heldStarts := s.coll.heldStarts ++ [(g, i, step)] } }
  else if gLeaf s g && isLocalSeat s (memberEpc s g i) && !degraded s g && decide (m.latest.toNat < step.toNat) &&
      (m.latest == 0 || m.voted || m.revoked) && !stepClosed s g step then acceptStart s g i step
  else trigIgnored s

/-- COMMIT s from member i (R310): its vote is counted, and the leaf votes once all its members have (R332). -/
def trigCommit (s : State) (g i : Nat) (step : Word) : State :=
  let m := memState s g i
  if gLeaf s g && m.latest == step && !m.revoked && !m.voted && gKind s g != 5 then
    let s := setMemState s g i { m with voted := true }
    match stepRec s g step with
    | none => s
    | some r =>
      let r := { r with localVotes := r.localVotes + 1 }
      let n := (localMembers s g).length
      if r.localVotes == n && !r.voteSent then
        noteGState (sendCount (setStep s { r with voteSent := true }) g (stewardDest s g) step 0xFFFFFFFF false 1 n 0xFFFFFFFF 0xFFFF []) g
      else setStep s r
  else trigIgnored s

/-- PUBLISH s from Unit 9 (R310, R325): the owner of a STEP group sends its shard from SLOT_NEW. -/
def trigPublish (s : State) (g : Nat) (step : Word) : State :=
  match stepRec s g step with
  | some r => if gOwner s g && gKind s g = 2 && r.shardDone && !r.published then startGather s g step (slotNew s g) else trigIgnored s
  | none => trigIgnored s

/-- Line 0-7 are a trigger record's bytes; `mask` is none for a full-line WRITE (R309). -/
def trigWrite (s : State) (line : Nat) (p : Packet) (mask : Option Nat) (data : List Byte) : State :=
  forEach (triggerGroups s line) s fun s g =>
    let fromHall := p.src == myEpc s 9
    let form := p.flag && (mask == some 255 || (mask.isNone && fromHall))
    let step := leAt data 0 4
    let action := leAt data 4 1
    if form && step ≠ 0 && 1 ≤ action && action ≤ 3 then
      if action = 3 then (if fromHall then trigPublish s g (BitVec.ofNat 32 step) else trigIgnored s)
      else match memberOf s g p.src with
        | some i => if action = 1 then trigStart s g i (BitVec.ofNat 32 step) else trigCommit s g i (BitVec.ofNat 32 step)
        | none => trigIgnored s
    else trigIgnored s

end Sys2Proof.Machine
end

