-- ==== Sys2Proof/Machine/Homes.lean ====
section
/-! DEFINITION. The homes (chapters 6, 7 and 8): placing (R170, R192, R217), the sparse directory and victims (R195-R199),
transactions (R200-R211), hot lines (R212-R218), mirrored changes (R185, R186, R189), sealed lines (R232, R233, R244) and the
poisoning of lines. -/

namespace Sys2Proof.Machine

/-! ## Events and lines -/

/-- Count home event k of a line's Store die (R480). -/
def homEv (s : State) (line k n : Nat) : State := ev s (1448 + 64 * storeOf (line * 128) + k) n

/-- A line's queue and transaction. -/
def lctl (s : State) (line : Nat) : LineCtl := cget {} s.homes.lines line

/-- Waiting-pool entries in use on a Store die (R216). -/
def poolUsed (s : State) (d : Nat) : Nat :=
  ((s.homes.lines.filter fun e => storeOf (e.1 * 128) == d).map fun e => e.2.queue.length).sum

/-- Entries of hot lines among them (R216). -/
def hotUsed (s : State) (d : Nat) : Nat :=
  ((s.homes.lines.filter fun e => storeOf (e.1 * 128) == d && e.2.hot).map fun e => e.2.queue.length).sum

/-- HOM_POOL and HOM_HOT of a Store die follow the lines and the tokens (R220). -/
def noteHome (s : State) (d : Nat) : State :=
  let u := poolUsed s d
  let s := setFld (setFld s (HOM_POOL d) 13 0 u) (HOM_POOL d) 29 16 (max u (fldOf s (HOM_POOL d) 29 16))
  let hot := (s.homes.lines.filter fun e => storeOf (e.1 * 128) == d && e.2.hot).length
  let tok := (s.homes.tokens.filter fun t => storeOf (t.line * 128) == d).length
  setFld (setFld s (HOM_HOT d) 15 0 hot) (HOM_HOT d) 31 16 (min tok 65535)

/-- Store a line's queue and transaction. -/
def setLctl (s : State) (line : Nat) (c : LineCtl) : State :=
  noteHome { s with homes := { s.homes with lines := cset {} s.homes.lines line c } } (storeOf (line * 128))

/-- Change the active transaction of a line, if it has one. -/
def modTxn (s : State) (line : Nat) (f : Txn → Txn) : State :=
  let c := lctl s line
  match c.active with
  | some t => setLctl s line { c with active := some (f t) }
  | none => s

/-- The region of a line's offset, standby or not. -/
def regionOfLine (s : State) (line : Nat) : Option Region := regionAny s (line * 128)

/-- The line's changes are mirrored: its region is twinned and served here, and a twin port is in service (R185, R189). -/
def twinnedHere (s : State) (line : Nat) : Bool :=
  match regionOfLine s line with | some r => r.twinned && !r.standby | none => false

/-- The line's partition has memory keys that differ from the twin's (R388). -/
def keysDiffer (s : State) (line : Nat) : Bool :=
  match regionOfLine s line with | some r => s.sec.keyMismatch.contains r.part | none => false

/-- A change of a twinned line: mirrored, and awaited by the line's transaction, while a twin port is in service (R185, R186) and the
twin's entries and keys match (R237, R388); otherwise its 1 MiB block is marked in the change map (R189, R350). -/
def mirrorChange (s : State) (line : Nat) (m : MirrorMsg) : State :=
  if !twinnedHere s line then s
  else if twinUp s && !s.res.twin.mismatch && !keysDiffer s line then
    let s := modTxn s line fun t => { t with mir := true, since := s.now }
    homEv (emit s (.twin (.mirror m))) line 18 1
  else match m with
    | .data _ _ _ =>
      let b := line / 8192
      if s.res.twin.changeMap.contains b then s
      else
        let s := { s with res := { s.res with twin := { s.res.twin with changeMap := s.res.twin.changeMap ++ [b] } } }
        setFld s FLT_RESYNC 19 0 (min s.res.twin.changeMap.length (2 ^ 20 - 1))
    | .dir _ _ _ => s

/-! ## Sealed lines (R232, R233, R244) -/

/-- A line's place among its region's lines on its Store die (DEDUCED from R228: index order over the die's four agents; log
entry 17). -/
def sealIndex (r : Region) (line : Nat) : Nat := (line / 8 - r.base * 1024) * 4 + homeAgentOf (line * 128) % 4

/-- Key of a counter line: Store die, tier, number within the die's share. -/
def sealKey (d tier n : Nat) : Nat := (d * 2 + tier) * 2 ^ 24 + n

/-- Number of counter lines of a level of a region of `size` MiB on one die. -/
def sealLevelSize (size : Nat) : Nat → Nat
  | 0 => 64 * size
  | n + 1 => (sealLevelSize size n + 63) / 64

/-- First counter line of a level, after SEAL_BASE: the levels stand one after another (log entry 17). -/
def sealLevelBase (size : Nat) : Nat → Nat
  | 0 => 0
  | n + 1 => sealLevelBase size n + sealLevelSize size n

/-- Levels of a region's tree: until one counter line is left. -/
def sealLevels (size : Nat) : Nat :=
  ((List.range 6).find? fun n => sealLevelSize size n == 1).getD 5 + 1

/-- Counter lines of a region on one die. -/
def sealLines (size : Nat) : Nat := sealLevelBase size (sealLevels size)

/-- Counter line of a level above a line. -/
def sealKeyAt (r : Region) (line level : Nat) : Nat :=
  sealKey (storeOf (line * 128)) r.tier (r.sealBase + sealLevelBase r.size level + sealIndex r line / 64 ^ (level + 1))

/-- A counter line. -/
def sealLine (s : State) (key : Nat) : SealLine := cget {} s.homes.seals key

/-- Store a counter line. -/
def setSealLine (s : State) (key : Nat) (l : SealLine) : State :=
  { s with homes := { s.homes with seals := cset {} s.homes.seals key l } }

/-- The parent's record of a counter line: its version there, or the root counter for the top line (R232). -/
def sealParentRecord (s : State) (r : Region) (line level : Nat) : Nat :=
  if level + 1 < sealLevels r.size then
    let p := sealLine s (sealKeyAt r line (level + 1))
    256 * p.major.toNat + ((p.minors[sealIndex r line / 64 ^ (level + 1) % 64]?).getD 0).toNat
  else cget 0 s.homes.roots (storeOf (line * 128) * 512 + r.sealRoot)

/-- The version of a line (R231, R232); 0 for a line of an unsealed region. -/
def lineVersion (s : State) (line : Nat) : Nat :=
  match regionOfLine s line with
  | some r =>
    if r.sealed then
      let l := sealLine s (sealKeyAt r line 0)
      256 * l.major.toNat + ((l.minors[sealIndex r line % 64]?).getD 0).toNat
    else 0
  | none => 0

/-- A full-line WRITE beneath a failed counter line rebuilds it first (R244). -/
def sealRebuild (s : State) (r : Region) (line : Nat) : State :=
  forEach (List.range (sealLevels r.size)).reverse s fun s lv =>
    let k := sealKeyAt r line lv
    if (sealLine s k).bad then
      setSealLine s k { major := BitVec.ofNat 64 (sealParentRecord s r line lv + 1), minors := List.replicate 64 0, bad := false }
    else s

/-- A write to a sealed line increments its MINOR; where that would wrap, MAJOR rises and every MINOR becomes zero (R233). -/
def sealWrite (s : State) (line : Nat) : State :=
  match regionOfLine s line with
  | some r =>
    if r.sealed then
      let s := sealRebuild s r line
      let k := sealKeyAt r line 0
      let l := sealLine s k
      let i := sealIndex r line % 64
      let m := ((l.minors[i]?).getD 0).toNat
      if m = 255 then ev (setSealLine s k { l with major := l.major + 1, minors := List.replicate 64 0 }) 1674 1
      else setSealLine s k { l with minors := l.minors.set i (BitVec.ofNat 8 (m + 1)) }
    else s
  | none => s

/-! ## Stored lines -/

/-- The memory value of a line changes: written, and sealed where the region is; a restore in progress no longer owes it
(R241). -/
def storeQuiet (s : State) (line : Nat) (bs : List Byte) : State :=
  let s := memWriteLine (sealWrite s line) line bs
  let s := { s with homes := { s.homes with
    evacCopy := cellErase s.homes.evacCopy (line * 128) (line * 128 + 128),
    evacSaved := s.homes.evacSaved.filter fun l => l != line } }
  ev s (1576 + 8 * deviceOf s (line * 128) + 1) 1

/-- Mirror a line's present value (R185). -/
def mirrorValue (s : State) (line : Nat) : State := mirrorChange s line (.data line (memLine s line) (lineVersion s line))

/-- A change of a line's memory value, mirrored where the region is twinned (R185). -/
def storeLine (s : State) (line : Nat) (bs : List Byte) : State := mirrorValue (storeQuiet s line bs) line

/-- The value of a line read for a request. -/
def fetchLine (s : State) (line : Nat) : List Byte × State :=
  (lineBytes (memLine s line), ev s (1576 + 8 * deviceOf s (line * 128)) 1)

/-- Mark a line poisoned (R195, R244). -/
def poisonLine (s : State) (line : Nat) : State := ev (setDirBits s line 2) 1677 1

/-- The line reads as poisoned. -/
def isPoisoned (s : State) (line : Nat) : Bool := decide (2 ≤ dirBits s line)

/-- An evacuated line is restored (R241), in its turn or because it was asked for: its stored bytes come back, bits 0b00. -/
def restoreLine (s : State) (line : Nat) : State :=
  if s.homes.evacSaved.contains line then
    let bs := cellRead s.homes.evacCopy (line * 128) 128
    let s := { s with homes := { s.homes with
      mem := cellWrite s.homes.mem (line * 128) bs,
      evacCopy := cellErase s.homes.evacCopy (line * 128) (line * 128 + 128),
      evacSaved := s.homes.evacSaved.filter fun l => l != line } }
    ev (setDirBits s line 0) 1676 1
  else s

/-! ## The sparse directory (R196-R199) -/

/-- A line's directory record. -/
def dirRec (s : State) (line : Nat) : Option DirRec := s.homes.dir.find? fun r => r.line == line

/-- Extension entries of a record with n holders (R196). -/
def extEntries (n : Nat) : Nat := if n ≤ 4 then 0 else (n - 4 + 4) / 5

/-- Records of a Store die. -/
def dirOf (s : State) (d : Nat) : List DirRec := s.homes.dir.filter fun r => storeOf (r.line * 128) == d

/-- Extension entries in use on a Store die. -/
def extUsed (s : State) (d : Nat) : Nat := ((dirOf s d).map fun r => extEntries r.holders.length).sum

/-- HOM_SDIR_PRIMARY and HOM_SDIR_EXT of a Store die follow the directory. -/
def noteDir (s : State) (d : Nat) : State :=
  setFld (setFld s (HOM_SDIR_PRIMARY d) 21 0 (dirOf s d).length) (HOM_SDIR_EXT d) 19 0 (extUsed s d)

/-- Make a record the line's, or remove it when it names no holder; bits and registers follow, and the change is mirrored
(R195, R199). -/
def putDir (s : State) (r : DirRec) : State :=
  let rest := s.homes.dir.filter fun x => x.line != r.line
  let s := if r.holders = [] then
      { setDirBits s r.line (if dirBits s r.line = 2 then 2 else 0) with homes :=
        { (setDirBits s r.line (if dirBits s r.line = 2 then 2 else 0)).homes with dir := rest } }
    else
      let r := { r with extAt := if extEntries r.holders.length = 0 then 0 else if r.extAt = 0 then s.now + 1 else r.extAt }
      { setDirBits s r.line 1 with homes := { (setDirBits s r.line 1).homes with dir := r :: rest } }
  mirrorChange (noteDir s (storeOf (r.line * 128))) r.line (.dir r.line r.holders r.owned)

/-- A record of a line: who holds it. -/
def mkDir (s : State) (line : Nat) (owned fwd : Bool) (holders : List Epc) : State :=
  let ext := match dirRec s line with | some r => r.extAt | none => 0
  let s := { s with homes := { s.homes with grantCtr := s.homes.grantCtr + 1 } }
  putDir s { line := line, owned := owned, fwd := fwd, holders := holders, granted := s.homes.grantCtr, extAt := ext }

/-- A cache is recorded as a holder. -/
def recorded (s : State) (line : Nat) (e : Epc) : Bool :=
  match dirRec s line with | some r => r.holders.contains e | none => false

/-- A cache is recorded as the owner. -/
def recordedOwner (s : State) (line : Nat) (e : Epc) : Bool :=
  match dirRec s line with | some r => r.owned && r.holders.contains e | none => false

/-- The F holder of a line in Shared. -/
def fHolder (s : State) (line : Nat) : Option Epc :=
  match dirRec s line with | some r => if !r.owned && r.fwd then r.holders.head? else none | none => none

/-- Remove a holder (R200, R209, R210): no F holder remains if it was the one. -/
def dropHolder (s : State) (line : Nat) (e : Epc) : State :=
  match dirRec s line with
  | some r => if r.holders.contains e then putDir s { r with
                                                            fwd := r.fwd && r.holders.head? != some e,
                                                            holders := r.holders.filter fun h => h != e } else s
  | none => s

/-- Poison a line whose holders the home gives up: record removed, bits 0b10. -/
def poisonAndForget (s : State) (line : Nat) : State :=
  let s := poisonLine s line
  match dirRec s line with
  | some r => putDir s { r with holders := [] }
  | none => s

/-- Records of a line's set on its Store die. -/
def setRecs (s : State) (line : Nat) : List DirRec :=
  (dirOf s (storeOf (line * 128))).filter fun r => Config.sdirSet r.line == Config.sdirSet line

/-- A grant of this line needs an entry that is not free: a primary entry of a full set, or an extension entry of a full pool. -/
def needsVictim (s : State) (line : Nat) : Bool :=
  match dirRec s line with
  | none => decide (16 ≤ (setRecs s line).length)
  | some r => !r.owned && extEntries (r.holders.length + 1) != extEntries r.holders.length &&
      decide (524288 ≤ extUsed s (storeOf (line * 128)))

/-- The smallest of a list by a measure. -/
def leastBy {α : Type} (f : α → Nat) : List α → Option α
  | [] => none
  | x :: xs => match leastBy f xs with
    | some y => if f y < f x then some y else some x
    | none => some x

/-- The victim (R198): the least recently granted line of the set that is neither blocked nor hot, or the line that has held
extension entries longest; none while one is being recalled already. -/
def chooseVictim (s : State) (line : Nat) : Option DirRec :=
  let free (r : DirRec) : Bool := (lctl s r.line).active.isNone && !(lctl s r.line).hot && r.line != line
  let busy (r : DirRec) : Bool := match (lctl s r.line).active with | some t => t.kind == .victim | none => false
  match dirRec s line with
  | none => if (setRecs s line).any busy then none else leastBy DirRec.granted ((setRecs s line).filter free)
  | some _ => if (dirOf s (storeOf (line * 128))).any busy then none else leastBy DirRec.extAt (((dirOf s (storeOf (line * 128))).filter fun r => r.extAt != 0).filter free)

/-! ## C2 packets -/

/-- Send a C2 packet of a line to a holder, from the home agent's own EPC (R45, R200). -/
def sendC2 (s : State) (line : Nat) (op : Byte) (holder : Epc) (tag : BitVec 16) (req : Epc) : State :=
  let p := { mkPkt op 2 holder (agentEpc s (line * 128)) (opfF (line * 128) tag req) [] with
    partition := BitVec.ofNat 8 (match regionOfLine s line with | some r => r.part | none => 0) }
  let s := if op = opSNOOP_INV then homEv s line 9 1 else if op = opRECALL then s else homEv s line 10 1
  sendPlain s p .hearth

/-- Snoop each of these holders, with one opcode and a fresh TAG each; the waits. -/
def snoopAll (s : State) (line : Nat) (op : Byte) (hs : List Epc) : State × List SnoopWait :=
  hs.foldl (fun (acc : State × List SnoopWait) h =>
    let n := acc.1.homes.tagCtr + 1
    let s := { acc.1 with homes := { acc.1.homes with tagCtr := n } }
    let tag := BitVec.ofNat 16 n
    (sendC2 s line op h tag (agentEpc s (line * 128)),
     acc.2 ++ [{ holder := h, opcode := op, tag := tag, req := agentEpc s (line * 128), sentAt := s.now, sends := 1, evict := false,
                 given := false }])) (s, [])

/-- A forward of a line to a holder for a request (R204). -/
def forwardTo (s : State) (line : Nat) (op : Byte) (holder req : Epc) (tag : BitVec 16) : State × SnoopWait :=
  (sendC2 s line op holder tag req,
   { holder := holder, opcode := op, tag := tag, req := req, sentAt := s.now, sends := 1, evict := false, given := false })

/-! ## Kinds of request -/

/-- The kind of a hot line's run (R212): 0 plain, 1 Shared, 2 convoy, 3 none of them. -/
def runKind (o : Byte) : Nat :=
  if o = opREAD || o = opREAD_VOL || o = opWRITE || o = opWRITE_MASK || o = opSTREAM_WRITE then 0
  else if o = opTAKE_SHARED then 1
  else if o = opTAKE_EXCL || o = opATOMIC then 2
  else 3

/-- A request that writes the whole line. -/
def fullWrite (o : Byte) : Bool := o == opWRITE || o == opSTREAM_WRITE
/-- A request that writes. -/
def isStore (o : Byte) : Bool := fullWrite o || o == opWRITE_MASK
/-- A request that takes the line for writing. -/
def takesExcl (o : Byte) : Bool := o == opTAKE_EXCL || o == opATOMIC

/-- The write mask of a WRITE_MASK (R113): bit b of its first 16 bytes. -/
def maskOf (p : Packet) : Nat := leAt p.payload 0 16

/-- Merge the enabled bytes. -/
def mergeBytes (mask : Nat) (old new : List Byte) : List Byte :=
  old.mapIdx fun i b => if bit mask i then (new[i]?).getD 0 else b

/-- Perform a write (R165): the line's value changes, poison is cleared by a full line, and watches and triggers see it. A group
of hot writes is mirrored once, by its end (R213): its writes are performed with `mir` false. -/
def performWrite (s : State) (line : Nat) (p : Packet) (mir : Bool) : State :=
  let put (s : State) (bs : List Byte) : State := if mir then storeLine s line bs else storeQuiet s line bs
  if p.opcode = opWRITE_MASK then
    let m := maskOf p
    let data := p.payload.drop 16
    if m = 0 then s
    else
      let (old, s) := fetchLine s line
      trigWrite (watchRise (put s (mergeBytes m old data)) line) line p (some m) data
  else
    let s := if isPoisoned s line then setDirBits s line 0 else s
    let s := watchRise (put s p.payload) line
    if p.opcode = opWRITE then trigWrite s line p none p.payload else s

/-! ## Answers -/

/-- Answer a request of a home; a STREAM_WRITE is never answered (R164). -/
def homeAnswer (s : State) (p : Packet) (status state : Nat) (token : BitVec 16) (hint : Nat) (data : List Byte) : State :=
  if p.opcode = opSTREAM_WRITE then s else respond s p status state token hint data

/-- Refuse a request by R170, and count it (R482). -/
def refuse (s : State) (p : Packet) (status : Nat) : State :=
  let k := if status = stNOREGION then 0 else if status = stPARTITION then 1 else if status = stKEYFAIL then 2 else 3
  homeAnswer (if status = stUNREACHABLE then s else ev s (2048 + 4 * p.partition.toNat + k) 1) p status 0 0 0 []

/-! ## Checks at the home (R170, R243, R61, R346) -/

/-- The status the checks 1-4 of R170 give a request to a region. -/
def regionCheck (r : Region) (p : Packet) : Nat :=
  let op := p.opcode
  let rd := op == opREAD || op == opREAD_VOL || op == opTAKE_SHARED || takesExcl op
  let wr := isStore op || takesExcl op || (op == opGIVE && p.length != 0)
  let take := op == opTAKE_SHARED || takesExcl op
  if p.partition.toNat ≠ r.part then stPARTITION
  else if p.regionKey.toNat ≠ r.key then stKEYFAIL
  else if (rd && !r.rRight) || (wr && !r.wRight) || (take && r.bulk) then stPARTITION
  else stOK

/-- A takeover's requests to standby ranges wait (R342), and while the module serves its twin they are handled by R346. -/
def servingTwin (s : State) : Bool := s.res.twin.stage != 0

/-- FLT_ALIAS is active: the module serves its twin (R344). -/
def aliasActive (s : State) : Bool := fldOf s (FLT_ALIAS 0) 31 24 == 1

/-- The regions a handoff hands over (R348, R349): those taken over while the alias is active, else the module's own. -/
def handRegion (s : State) (r : Region) : Bool :=
  r.twinned && !r.standby && (if aliasActive s then s.res.twin.taken.contains r.i else !(s.res.twin.taken.contains r.i))

/-- The status of a request on its way into its line's queue. Lost Store dies answer UNREACHABLE for all of Unit 1 (R61), and so do
the regions being handed over (R348); a lost device answers UNREACHABLE for its lines (R243). -/
def homeStatus (s : State) (p : Packet) (line : Nat) : Nat :=
  let ann := p.opcode == opGIVE || p.opcode == opEVICT_NOTICE
  if dieDead s (.store 0) || dieDead s (.store 1) then stUNREACHABLE
  else match (if servingTwin s then regionAny s (line * 128) else regionAt s (line * 128)) with
    | none => stNOREGION
    | some r =>
      if s.res.twin.handingOff && handRegion s r then stUNREACHABLE
      else if s.sec.keyWait.any fun k => k.1.toNat == r.part then stNOREGION
      else if ann && recorded s line p.src then (if deviceUp s (deviceOf s (line * 128)) then stOK else stUNREACHABLE)
      else
        let c := regionCheck r p
        if c ≠ stOK && !r.standby then c
        else if !deviceUp s (deviceOf s (line * 128)) then stUNREACHABLE
        else stOK

/-- R346: a request to a standby range that was not taken over. -/
def aliasAnswer (s : State) (p : Packet) : State :=
  let s := faultLimited s (0x07060000000 + p.src.toNat) 1000000 0x0706 2 (2 + storeOf p.offset) (myEpc s 0)
    (det [(16, 5, p.offset), (24, 3, p.src.toNat)])
  refuse s p (if p.opcode = opREAD || p.opcode = opREAD_VOL then stPOISON else stNOREGION)

/-- The line's requests must wait: its tier's directory bits are being marked (R240), or a takeover has not yet loaded its
directory (R342). -/
def lineWaits (s : State) (line : Nat) : Bool :=
  (inLoft s (line * 128) && bitOf s MEM_STATUS 12) || (inCellar s (line * 128) && bitOf s MEM_STATUS 13) ||
  (s.res.twin.stage == 1 && match regionOfLine s line with | some r => r.standby | none => false)

/-! ## Applying and answering the request at the head -/

/-- The transaction's request has what it needs: apply it to memory and the directory (R200). -/
def applyRequest (s : State) (line : Nat) (p : Packet) : State :=
  let op := p.opcode
  if isPoisoned s line && !fullWrite op then s
  else if isStore op then performWrite s line p true
  else if op = opTAKE_SHARED then
    match dirRec s line with
    | none => mkDir s line true false [p.src]
    | some r => mkDir s line false true (p.src :: r.holders.filter fun h => h != p.src)
  else if takesExcl op then mkDir s line true false [p.src]
  else s

/-- The state a grant carries, from the record after the request was applied. -/
def grantState (s : State) (line : Nat) (e : Epc) : Nat :=
  match dirRec s line with
  | some r => if r.owned then 2 else if r.fwd && r.holders.head? == some e then 4 else 1
  | none => 0

/-- Answer the transaction's request: DATA, COMP or POISON (R200, R166). A grant by the home awaits its COMP_ACK (R193). -/
def answerRequest (s : State) (line : Nat) (t : Txn) (p : Packet) : State :=
  let op := p.opcode
  if t.fwd then s
  else if isPoisoned s line && !fullWrite op && !(op == opGIVE || op == opEVICT_NOTICE) then
    modTxn (refuse s p stPOISON) line fun t => { t with grants := [] }
  else if isStore op || op = opGIVE || op = opEVICT_NOTICE then homeAnswer s p stOK 0 0 0 []
  else
    let (data, s) := fetchLine s line
    if op = opREAD || op = opREAD_VOL then homeAnswer s p stOK 0 0 0 data
    else
      let st := grantState s line p.src
      let g : GrantWait := { who := p.src, tag := p.tag, seq := p.seq, state := BitVec.ofNat 3 st, at_ := s.now, byHome := true,
                             fromOwner := false, recalled := false }
      modTxn (homeAnswer s p stOK st 0 0 data) line fun t => { t with grants := [g] }

/-! ## Transactions -/

/-- Begin a transaction of the home's own: it blocks the line and sends one opcode to each of these holders. -/
def beginOwn (s : State) (line : Nat) (kind : TxnKind) (req : Option HReq) (op : Byte) (hs : List Epc) : State :=
  let s := setLctl s line { lctl s line with active := some { kind := kind, req := req } }
  let (s, ws) := snoopAll s line op hs
  modTxn s line fun t => { t with snoops := ws }

/-- Every recorded holder of a line. -/
def holdersOf (s : State) (line : Nat) : List Epc := match dirRec s line with | some r => r.holders | none => []

/-- DIR_MISMATCH (R195, R197), naming the requester as the cache of the event. -/
def dirMismatch (s : State) (line cause : Nat) (who : Epc) : State :=
  cohErr (lineFault s 0x0301 2 line 0xFF cause 0) 2 who

/-- Bring a line's directory bits and entry into agreement before a request is served (R195, R197). -/
def checkDir (s : State) (line : Nat) (who : Epc) : State :=
  let b := dirBits s line
  let e := (dirRec s line).isSome
  if b = 3 then poisonAndForget (dirMismatch s line 0 who) line
  else if b = 1 && !e then poisonLine (dirMismatch s line 1 who) line
  else if b = 0 && e then setDirBits (dirMismatch s line 2 who) line 1
  else s

/-- A GIVE or EVICT_NOTICE at the head of its queue (R200): taken from a cache recorded in the state it announces, else
STALE_EVICT. -/
def applyAnnounce (s : State) (line : Nat) (p : Packet) : State :=
  if p.opcode = opGIVE && recordedOwner s line p.src then
    let s := if p.length ≠ 0 then watchRise (storeLine s line p.payload) line else s
    dropHolder s line p.src
  else if p.opcode = opEVICT_NOTICE && recorded s line p.src && !recordedOwner s line p.src then dropHolder s line p.src
  else homEv (cohErr s 0 p.src) line 20 1

/-- What the request at the head needs before it can be applied (R200, R201): the holders to snoop or forward to. -/
inductive Need where
  | none | victim
  | inv (hs : List Epc)
  | fwd (op : Byte) (holder : Epc) (req : Epc) (own : Bool)
  | recall (e : Epc)
  deriving DecidableEq, Repr

/-- The row and column of R200's table for a request. -/
def needOf (s : State) (line : Nat) (p : Packet) : Need :=
  let op := p.opcode
  let r := dirRec s line
  let owned := match r with | some r => r.owned | none => false
  let hs := holdersOf s line
  if op = opTAKE_SHARED || takesExcl op then
    if isPoisoned s line then .none
    else if hs.contains p.src then
      if takesExcl op && !owned then .inv (hs.filter fun h => h != p.src) else .recall p.src
    else if hs = [] then (if needsVictim s line then .victim else .none)
    else if takesExcl op then
      if owned then .fwd opFWD_EXCL (hs.headD 0) p.src true else .inv hs
    else if owned then .fwd opFWD_SHARED (hs.headD 0) p.src true
    else if needsVictim s line then .victim
    else match fHolder s line with
      | some f => .fwd opFWD_SHARED f p.src false
      | none => .none
  else if op = opREAD || op = opREAD_VOL then
    let bulk := match regionOfLine s line with | some r => r.bulk | none => false
    if owned && !(bulk && op == opREAD) && !isPoisoned s line then
      .fwd opFWD_SHARED (hs.headD 0) (agentEpc s (line * 128)) true
    else .none
  else if isStore op then
    if op = opWRITE_MASK && (maskOf p = 0 || isPoisoned s line) then .none else .inv hs
  else .none

/-- The request at the head becomes the active transaction (R193, R200); a request that needs a directory entry first starts a
victim recall and stays at the head (R198). -/
def beginHead (s : State) (line : Nat) : State :=
  let c := lctl s line
  match c.queue with
  | [] => s
  | r :: rest =>
    let p := r.d.pkt
    let s := checkDir (restoreLine s line) line p.src
    let start (s : State) (kind : TxnKind) : State :=
      setLctl s line { lctl s line with queue := rest, active := some { kind := kind, req := some r } }
    if (match regionOfLine s line with | some g => g.standby | none => false) then
      aliasAnswer (setLctl s line { lctl s line with queue := rest }) p
    else if p.opcode = opGIVE || p.opcode = opEVICT_NOTICE then
      applyAnnounce (start s .request) line p
    else match needOf s line p with
      | .none => start s .request
      | .victim =>
        match chooseVictim s line with
        | some v => ev (bump64 (beginOwn s v.line .victim none opRECALL v.holders) (HOM_RECALLS (storeOf (line * 128))) 1)
            (1448 + 64 * storeOf (line * 128) + 11) 1
        | none => s
      | .inv hs =>
        let (s, ws) := snoopAll (start s .request) line opSNOOP_INV hs
        modTxn s line fun t => { t with snoops := ws, own := match dirRec s line with | some r => r.owned | none => false }
      | .fwd op h req own =>
        let s := start s .request
        let (s, w) := forwardTo s line op h req p.tag
        let g : GrantWait := { who := p.src, tag := p.tag, seq := p.seq, state := 0, at_ := s.now, byHome := false,
                               fromOwner := own, recalled := false }
        modTxn s line fun t => { t with snoops := [w], own := own, grants := if req = p.src then [g] else [] }
      | .recall e =>
        let s := homEv (cohErr (start s .rerequest) 1 e) line 21 1
        let (s, ws) := snoopAll s line opRECALL [e]
        modTxn s line fun t => { t with snoops := ws, own := recordedOwner s line e }

/-- Leave the hot state (R218). -/
def exitHot (s : State) (line : Nat) : State :=
  let c := lctl s line
  if c.hot && c.queue = [] && c.active.isNone && !(s.homes.tokens.any fun t => t.line == line) then
    setLctl s line { c with hot := false }
  else s

/-- End the active transaction. -/
def endTxn (s : State) (line : Nat) : State := exitHot (setLctl s line { lctl s line with active := none }) line

/-- The run at the head of a hot line's queue goes on with a request of this kind. -/
def runGoesOn (s : State) (line kind : Nat) : Bool :=
  match (lctl s line).queue with | r :: _ => runKind r.d.pkt.opcode == kind | [] => false

/-- The last member of a convoy asks again while it is recorded as owner: it waits for the convoy's end (R201, R215). -/
def convoyGoesOn (s : State) (line : Nat) : Bool :=
  match (lctl s line).queue with
  | r :: _ => runKind r.d.pkt.opcode == 2 && !recorded s line r.d.pkt.src
  | [] => false

/-- Send the completions of a group of hot writes (R213). -/
def sendGroup (s : State) (line : Nat) : State :=
  let c := lctl s line
  forEach c.groupComps (setLctl s line { c with groupComps := [] }) fun s r => homeAnswer s r.d.pkt stOK 0 0 0 []

/-- One move of a line's active transaction, or the start of its next one; none when it must wait. -/
def lineMove (s : State) (line : Nat) : Option State :=
  let c := lctl s line
  match c.active with
  | none =>
    if c.hot || c.queue = [] || lineWaits s line then none
    else
      let s' := beginHead s line
      if (lctl s' line).active.isNone && (lctl s' line).queue.length == c.queue.length then
        (if s'.homes.tagCtr = s.homes.tagCtr then none else some s')
      else some s'
  | some t =>
    if t.stage = 0 then
      if t.snoops ≠ [] then none
      else
        let s := match t.kind, t.req with
          | .request, some r =>
            if r.d.pkt.opcode = opGIVE || r.d.pkt.opcode = opEVICT_NOTICE then s else applyRequest s line r.d.pkt
          | _, _ => s
        some (modTxn s line fun t => { t with stage := 1 })
    else if t.stage = 1 then
      if t.mir then none
      else match t.kind, t.req with
        | .request, some r =>
          some (answerRequest (modTxn s line fun t => { t with stage := 2 }) line t r.d.pkt)
        | .rerequest, some r =>
          let c := lctl s line
          let s := setLctl s line { c with active := none, queue := r :: c.queue }
          some (if c.hot then beginOwn s line .hotEnter none opRECALL (holdersOf s line) else s)
        | .mirrorWait, _ => some (endTxn (sendGroup s line) line)
        | .sharedRun, some r | .convoy, some r =>
          some (answerRequest (modTxn s line fun t => { t with stage := 2, req := none, grants := t.grants.dropLast }) line
            { t with fwd := false } r.d.pkt)
        | _, _ => some (endTxn s line)
    else
      if t.grants ≠ [] || t.snoops ≠ [] || t.mir then none
      else match t.kind with
        | .sharedRun =>
          if runGoesOn s line 1 then none
          else
            let (s, ws) := snoopAll s line opSNOOP_INV (holdersOf s line)
            some (modTxn s line fun t => { t with stage := 0, snoops := ws, req := none })
        | .convoy =>
          if convoyGoesOn s line then none
          else
            let (s, ws) := snoopAll s line opRECALL (holdersOf s line)
            some (modTxn s line fun t => { t with stage := 0, snoops := ws, req := none, own := true })
        | _ =>
          let c := lctl s line
          if c.hot && t.kind != .hotEnter then
            some (beginOwn s line .hotEnter none opRECALL (holdersOf s line))
          else some (endTxn s line)

/-- Move a line on until it must wait. -/
def runLine : Nat → State → Nat → State
  | 0, s, _ => s
  | n + 1, s, line => match lineMove s line with
    | some s => runLine n s line
    | none => s

/-- Lines whose queue waits for a directory entry or for their tier. -/
def waitingLines (s : State) : List Nat :=
  (s.homes.lines.filter fun e => e.2.active.isNone && !e.2.hot && e.2.queue != []).map (·.1)

/-- Move a line on, then the lines that may have waited for it (R198). -/
def settle (s : State) (line : Nat) : State :=
  let s := runLine (8 * (lctl s line).queue.length + 16) s line
  forEach (waitingLines s) s fun s l => runLine (8 * (lctl s l).queue.length + 16) s l

/-! ## Placing (R192, R216, R217) -/

/-- HINT of a DEFERRED answer (R217): the largest h for which 2^h × 64 ns is no more than the waiting requests × 1.25 ns. -/
def hintFor (waiting : Nat) : Nat :=
  ((List.range 16).reverse.find? fun h => decide (2 ^ h * 64 * 4 ≤ waiting * 5)).getD 0

/-- The outstanding token of a line that a request carries. -/
def tokenOf (s : State) (line : Nat) (p : Packet) : Option Token :=
  if fmtOf p.opcode = some .m && p.token ≠ 0 then s.homes.tokens.find? fun t => t.line == line && t.token == p.token else none

/-- Must this request be refused for want of room (R217)? -/
def noRoom (s : State) (line : Nat) (p : Packet) : Bool :=
  let d := storeOf (line * 128)
  let c := lctl s line
  let w := c.queue.length
  let enter := fldOf s HOM_HOT_CFG 7 0
  let lineMax := fldOf s HOM_HOT_CFG 20 8
  decide (8192 ≤ poolUsed s d) || (c.hot && decide (lineMax ≤ w)) || (c.hot && decide (7168 ≤ hotUsed s d)) ||
  (!c.hot && decide (enter ≤ w + 1) && decide (7168 < hotUsed s d + enter)) ||
  (c.hot && (tokenOf s line p).isNone &&
    decide (lineMax ≤ w + (s.homes.tokens.filter fun t => t.line == line).length))

/-- A request would have to wait in its line's queue. -/
def wouldWait (s : State) (line : Nat) : Bool :=
  let c := lctl s line
  c.hot || c.active.isSome || c.queue != [] || lineWaits s line

/-- A deferral answered again starts its token's 1 ms afresh (R217). -/
def refreshToken (s : State) (tok : BitVec 16) : State :=
  { s with homes := { s.homes with tokens := s.homes.tokens.map fun t =>
    if t.token == tok then { t with lapse := s.now + 1000000 } else t } }

/-- The next token of a Store die: non-zero, 16 bits. -/
def nextToken (s : State) (d : Nat) : Nat := vget 0 s.homes.tokenCtr d % 65535 + 1

/-- Answer DEFERRED (R217), with the token the request carries or a fresh one; the pair or the Unit enters deferral (R174, R499). -/
def deferRequest (s : State) (line : Nat) (d : Delivered) : State :=
  let p := d.pkt
  let die := storeOf (line * 128)
  if p.opcode = opSTREAM_WRITE then homEv s line 26 1
  else
    let hint := hintFor (lctl s line).queue.length
    let (tok, s) := match tokenOf s line p with
      | some t => (t.token, refreshToken s t.token)
      | none =>
        let n := nextToken s die
        (BitVec.ofNat 16 n, { s with homes := { s.homes with
            tokenCtr := vset s.homes.tokenCtr die n,
            tokens := s.homes.tokens ++ [{ line := line, token := BitVec.ofNat 16 n, lapse := s.now + 1000000 }] } })
    let s := if isMine s p.src then
        let k := homeAgentOf (line * 128)
        let rest := s.homes.unitDefers.filter fun (u : UnitDefer) => !(u.unit == epcUnit p.src && u.agent == k)
        let u : UnitDefer := { unit := epcUnit p.src, agent := k, token := tok, hint := BitVec.ofNat 4 hint }
        { s with homes := { s.homes with unitDefers := u :: rest } }
      else if p.vc = 1 then enterDeferral s p tok (BitVec.ofNat 4 hint) else s
    homeAnswer (noteHome (homEv (bump64 s (HOM_DEFERRED die) 1) line 12 1) die) p stDEFERRED 0 tok hint []

/-- A token carried by a placed request is no longer outstanding; the deferral it ends is over (R217, R174, R499). -/
def takeToken (s : State) (line : Nat) (p : Packet) : State :=
  if fmtOf p.opcode ≠ some .m || p.token = 0 then s
  else
    let s := { s with homes := { s.homes with tokens := s.homes.tokens.filter fun t => !(t.line == line && t.token == p.token) } }
    if isMine s p.src then
      let k := homeAgentOf (line * 128)
      let rest := s.homes.unitDefers.filter fun (u : UnitDefer) => !(u.unit == epcUnit p.src && u.agent == k && u.token == p.token)
      { s with homes := { s.homes with unitDefers := rest } }
    else endDeferral s p

/-- Count a placed request (R480). -/
def countPlaced (s : State) (line : Nat) (p : Packet) : State :=
  let o := p.opcode
  let k := if o = opREAD then 1 else if o = opREAD_VOL then 2 else if o = opWRITE || o = opWRITE_MASK then 3
    else if o = opATOMIC then 4 else if o = opTAKE_SHARED then 5 else if o = opTAKE_EXCL then 6
    else if o = opGIVE then 7 else if o = opEVICT_NOTICE then 8 else 0
  let s := homEv s line 0 1
  let s := if k = 0 then s else homEv s line k 1
  homEv s line (if isMine s p.src then 23 else 22) 1

/-- Place a request at the tail of its line's queue (R192); the line becomes hot at ENTER waiting requests (R212). -/
def placeRequest (s : State) (line : Nat) (d : Delivered) : State :=
  let wait := wouldWait s line
  if wait && noRoom s line d.pkt then deferRequest s line d
  else
    let s := countPlaced (takeToken s line d.pkt) line d.pkt
    let c := lctl s line
    let q := c.queue ++ [{ d := d, arrived := s.now }]
    let hot := wait && !c.hot && c.active.isSome && decide (fldOf s HOM_HOT_CFG 7 0 ≤ q.length)
    let s := if hot then homEv s line 13 1 else s
    settle (setLctl s line { lctl s line with queue := q, hot := c.hot || hot }) line

/-! ## Announcements taken by the active transaction (R194, R203) -/

/-- The active transaction has snooped, forwarded to, or been answered by this cache. -/
def crosses (s : State) (line : Nat) (e : Epc) : Bool :=
  match (lctl s line).active with
  | some t => t.snoops.any (fun w => w.holder == e) || t.gone.contains e
  | none => false

/-- After a holder's answer, DATA that the home itself owes a convoy member or a forward's requester is due; the wait is over. -/
def convoyServe (s : State) (line : Nat) (w : SnoopWait) : State :=
  match (lctl s line).active with
  | some t =>
    if t.kind = .convoy && w.opcode = opFWD_EXCL then
      match t.grants.find? fun g => g.who == w.req && g.tag == w.tag with
      | some g =>
        let pois := isPoisoned s line
        let (data, s) := fetchLine s line
        let p := { mkPkt opDATA 3 g.who (myEpc s 1)
            (opfR (line * 128) (if pois then 0 else 2) false false g.tag 0) (if pois then [] else data) with
          seq := g.seq, status := if pois then 2 else 0,
          partition := BitVec.ofNat 8 (match regionOfLine s line with | some r => r.part | none => 0) }
        let now := s.now
        let change (x : GrantWait) : GrantWait := if x == g then { x with byHome := true, at_ := now } else x
        let s := modTxn s line fun t =>
          { t with grants := if pois then t.grants.filter (fun x => x != g) else t.grants.map change }
        sendPlain s p .hearth
      | none => s
    else s
  | none => s

/-- Remove a requester whose grant R210 settles. -/
def settleGrant (s : State) (line : Nat) (e : Epc) : State :=
  modTxn (dropHolder s line e) line fun t => { t with grants := t.grants.filter fun g => g.who != e }

/-- A GIVE or EVICT_NOTICE taken by the active transaction: its data is written, it completes OK, and the wait for it ends. -/
def takeAnnounce (s : State) (line : Nat) (p : Packet) : State :=
  match (lctl s line).active with
  | none => s
  | some t =>
    let s := if p.opcode = opGIVE && p.length ≠ 0 && !(t.gone.contains p.src) then watchRise (storeLine s line p.payload) line else s
    let s := homeAnswer s p stOK 0 0 0 []
    let s := match t.snoops.find? fun w => w.holder == p.src with
      | some w =>
        if w.evict then
          let s := modTxn s line fun t => { t with snoops := t.snoops.filter fun x => x != w }
          let s := if t.kind = .convoy then s else dropHolder s line p.src
          if t.grants.any fun g => g.who == p.src && g.recalled then settleGrant s line p.src else convoyServe s line w
        else modTxn s line fun t => { t with snoops := t.snoops.map fun x => if x == w then { x with given := true } else x }
      | none => s
    settle s line

/-! ## Duplicates (R119, R211) -/

/-- The request is still waiting here, or being served without a grant. -/
def stillQueued (s : State) (line : Nat) (p : Packet) : Bool :=
  let c := lctl s line
  let same (r : HReq) : Bool := r.d.pkt.src == p.src && r.d.pkt.tag == p.tag && r.d.pkt.seq == p.seq
  c.queue.any same || (match c.active with | some t => t.stage ≤ 1 && (match t.req with | some r => same r | none => false) | none => false)

/-- Answer a duplicate TAKE_SHARED, TAKE_EXCL or ATOMIC (R211). -/
def dupTake (s : State) (line : Nat) (p : Packet) : State :=
  if stillQueued s line p then s
  else
    let pendingGrant : Option GrantWait := match (lctl s line).active with | some t => t.grants.find? (fun g => g.who == p.src) | none => none
    let again := match pendingGrant with | some g => g.byHome | none => recorded s line p.src
    if again && !isPoisoned s line then
      let st := match pendingGrant with | some g => g.state.toNat | none => grantState s line p.src
      let (data, s) := fetchLine s line
      homeAnswer s p stOK st 0 0 data
    else s

/-- Answer a duplicate (R119). -/
def dupRequest (s : State) (line : Nat) (d : Delivered) : State :=
  let p := d.pkt
  if p.opcode = opREAD || p.opcode = opREAD_VOL then
    let st := homeStatus s p line
    if st ≠ stOK then refuse s p st else placeRequest s line d
  else if isStore p.opcode then
    let st := homeStatus s p line
    if st ≠ stOK then refuse s p st
    else if p.opcode = opWRITE_MASK && isPoisoned s line then refuse s p stPOISON
    else homeAnswer s p stOK 0 0 0 []
  else if p.opcode = opGIVE || p.opcode = opEVICT_NOTICE then homeAnswer s p stOK 0 0 0 []
  else dupTake s line p

/-! ## A request at its home -/

/-- A request from a Unit of the module that stands in deferral at this home agent without its token (R499). -/
def unitDeferral (s : State) (line : Nat) (p : Packet) : Option UnitDefer :=
  if isMine s p.src then
    s.homes.unitDefers.find? fun u => u.unit == epcUnit p.src && u.agent == homeAgentOf (line * 128) && u.token != p.token
  else none

/-- A memory or coherence request at its home: checks, then the queue, or the transaction it crosses. -/
def homeRequest (s : State) (d : Delivered) : State :=
  let p := d.pkt
  let line := p.offset / 128
  if d.dup then dupRequest s line d
  else match unitDeferral s line p with
    | some u => homeAnswer (homEv (refreshToken s u.token) line 12 1) p stDEFERRED 0 u.token u.hint.toNat []
    | none =>
      if (p.opcode = opGIVE || p.opcode = opEVICT_NOTICE) && crosses s line p.src then takeAnnounce s line p
      else
        let st := homeStatus s p line
        if st ≠ stOK then refuse s p st else placeRequest s line d

/-- A STREAM_WRITE at its home: each of its lines is a write without response (R164, R217). -/
def homeStream (s : State) (d : Delivered) : State :=
  forEach (List.range (d.pkt.length.toNat / 128)) s fun s i =>
    let p := { d.pkt with opf := opfS (d.pkt.offset + 128 * i), length := 128, payload := slice d.pkt.payload (128 * i) 128 }
    let line := p.offset / 128
    let st := homeStatus s p line
    if st ≠ stOK then refuse s p st else placeRequest s line { d with pkt := p }

/-! ## Answers of caches (R203, R210) -/

/-- The answered wait of a transaction: same holder, line and TAG, and not already answered. -/
def findWait (s : State) (line : Nat) (p : Packet) : Option SnoopWait :=
  match (lctl s line).active with
  | some t => t.snoops.find? fun w => w.holder == p.src && w.tag == p.tag && !w.evict
  | none => none

/-- The record after a holder's answer: gone in I; S after a FWD_SHARED; F after a read's forward. -/
def noteAnswer (s : State) (line : Nat) (e : Epc) (st : Nat) : State :=
  match dirRec s line with
  | some r =>
    if !r.holders.contains e then s
    else if st = 0 then dropHolder s line e
    else if st = 4 then putDir s { r with owned := false, fwd := true, holders := e :: r.holders.filter fun h => h != e }
    else putDir s { r with owned := false, fwd := r.fwd && r.holders.head? != some e }
  | none => s

/-- The answer to a RECALL that R210 sent to a requester whose COMP_ACK is missing. -/
def grantAnswer (s : State) (line : Nat) (p : Packet) (w : SnoopWait) (g : GrantWait) : State :=
  let drop (s : State) : State := modTxn s line fun t => { t with snoops := t.snoops.filter fun x => x != w }
  if p.opcode = opSNOOP_DATA then settleGrant (storeLine (drop s) line p.payload) line p.src
  else if p.lstate ≠ 0 then settleGrant (drop s) line p.src
  else if p.evicting then
    if w.given then settleGrant (drop s) line p.src
    else modTxn s line fun t => { t with snoops := t.snoops.map fun x => if x == w then { x with evict := true } else x }
  else if g.byHome || !g.fromOwner then settleGrant (drop s) line p.src
  else
    let s := settleGrant (drop s) line p.src
    cohErr (lineFault (poisonAndForget s line) 0x0303 2 line 0xFF 0 p.src.toNat) 4 p.src

/-- SNOOP_RESP or SNOOP_DATA at the home, taken on arrival (R194, R203). An answer that no wait matches changes nothing. -/
def snoopAnswer (s : State) (d : Delivered) : State :=
  let p := d.pkt
  let line := p.offset / 128
  match (lctl s line).active, findWait s line p with
  | some t, some w =>
    match t.grants.find? fun g => g.who == p.src && g.recalled && w.opcode == opRECALL with
    | some g => settle (grantAnswer s line p w g) line
    | none =>
      let owner := t.own || recordedOwner s line p.src
      let fwd := w.opcode == opFWD_SHARED || w.opcode == opFWD_EXCL
      let s := if p.opcode = opSNOOP_DATA then storeLine s line p.payload else s
      if p.lstate = 0 && p.evicting && (fwd || owner) && !w.given then
        settle (modTxn s line fun t => { t with snoops := t.snoops.map fun x => if x == w then { x with evict := true } else x }) line
      else
        let s := modTxn s line fun t => { t with
          snoops := t.snoops.filter (fun x => x != w),
          fwd := t.fwd || (fwd && p.fwdData && t.kind == .request),
          gone := if p.lstate = 0 && p.evicting && !w.given then p.src :: t.gone else t.gone }
        let s := if t.kind = .convoy && w.opcode = opFWD_EXCL then (if p.fwdData then s else convoyServe s line w)
          else noteAnswer s line p.src p.lstate.toNat
        settle s line
  | _, _ => s

/-- COMP_ACK at the home (R193, R205): the grant of its source on the line is acknowledged; in a convoy so is every earlier
member's (R215). -/
def homeCompAck (s : State) (d : Delivered) : State :=
  let p := d.pkt
  let line := p.offset / 128
  match (lctl s line).active with
  | some t =>
    if t.grants.any fun g => g.who == p.src then
      let gs := if t.kind = .convoy then (t.grants.dropWhile fun g => g.who != p.src).drop 1
        else t.grants.eraseIdx (t.grants.findIdx fun g => g.who == p.src)
      settle (modTxn s line fun t => { t with grants := gs }) line
    else s
  | none => s

/-! ## Timeouts (R209, R210) -/

/-- SNOOP_RESEND and GRANT_CHECK in ns. -/
def snoopResend (s : State) : Nat := fldOf s HOM_TIMEOUT 31 16 * 10000
def grantCheck (s : State) : Nat := fldOf s HOM_TIMEOUT 15 0 * 10000

/-- A C2 packet has had no answer: sent again with the same TAG, or after the fourth send its holder is lost (R209). -/
def resendSnoop (s : State) (line : Nat) (holder : Epc) : State :=
  match (lctl s line).active with
  | none => s
  | some t =>
    match t.snoops.find? fun w => w.holder == holder && !w.evict with
    | none => s
    | some w =>
      if s.now < w.sentAt + snoopResend s then s
      else if w.sends < 4 then
        let s := modTxn s line fun t => { t with snoops := t.snoops.map fun x =>
          if x == w then { x with sentAt := s.now, sends := x.sends + 1 } else x }
        homEv (sendC2 s line w.opcode w.holder w.tag w.req) line 19 1
      else
        let owner := recordedOwner s line holder || (t.kind == .convoy && w.opcode == opFWD_EXCL)
        let s := modTxn s line fun t => { t with snoops := t.snoops.filter fun x => x != w }
        let s := if owner then poisonAndForget s line else dropHolder s line holder
        let s := cohErr (lineFault s 0x0302 3 line 0xFF 0 holder.toNat) 3 holder
        let s := modTxn s line fun t => { t with grants := t.grants.filter fun g => !(g.who == holder && g.recalled) }
        settle (convoyServe s line w) line

/-- A grant's COMP_ACK is missing: RECALL to the requester (R210). -/
def checkGrant (s : State) (line : Nat) (member : Epc) : State :=
  match (lctl s line).active with
  | none => s
  | some t =>
    match t.grants.find? fun g => g.who == member && !g.recalled with
    | none => s
    | some g =>
      if s.now < g.at_ + grantCheck s then s
      else
        let (s, ws) := snoopAll s line opRECALL [member]
        modTxn s line fun t => { t with
          snoops := t.snoops ++ ws,
          grants := t.grants.map fun x => if x == g then { x with recalled := true } else x }

/-! ## Hot runs (R212-R215, R218) -/

/-- A group of hot writes ends after the one just applied: the next placed request is no write. -/
def groupEnds (q : List HReq) : Bool := match q with | r :: _ => !isStore r.d.pkt.opcode | [] => true

/-- Serve the plain request at the head of a hot line (R213). -/
def servePlain (s : State) (line : Nat) (r : HReq) : State :=
  let p := r.d.pkt
  let c := lctl s line
  if isStore p.opcode && !(p.opcode == opWRITE_MASK && isPoisoned s line) then
    let mir := twinnedHere s line && twinUp s
    let s := homEv (setLctl s line { c with queue := c.queue.drop 1 }) line 14 1
    if mir then
      let s := performWrite s line p false
      let c := lctl s line
      let s := setLctl s line { c with groupComps := c.groupComps ++ [r] }
      if groupEnds c.queue then
        mirrorValue (setLctl s line { lctl s line with active := some { kind := .mirrorWait, req := none, stage := 1 } }) line
      else s
    else settle (exitHot (homeAnswer (performWrite s line p true) p stOK 0 0 0 []) line) line
  else
    let s := homEv (setLctl s line { c with queue := c.queue.drop 1 }) line 14 1
    if isPoisoned s line then exitHot (refuse s p stPOISON) line
    else
      let (data, s) := fetchLine s line
      exitHot (homeAnswer s p stOK 0 0 0 data) line

/-- Serve the TAKE_SHARED at the head of a hot line (R214): S, or F when no F holder exists. -/
def serveShared (s : State) (line : Nat) (r : HReq) : State :=
  let p := r.d.pkt
  let c := lctl s line
  let t : Txn := match c.active with | some t => t | none => { kind := .sharedRun, req := none, stage := 2 }
  if isPoisoned s line then refuse (setLctl s line { c with queue := c.queue.drop 1 }) p stPOISON
  else if recorded s line p.src then
    if t.snoops.any fun w => w.holder == p.src then s
    else
      let s := homEv (cohErr (setLctl s line { c with active := some t }) 1 p.src) line 21 1
      let (s, ws) := snoopAll s line opRECALL [p.src]
      modTxn s line fun t => { t with snoops := t.snoops ++ ws }
  else
    let g : GrantWait := { who := p.src, tag := p.tag, seq := p.seq, state := 0, at_ := s.now, byHome := true, fromOwner := false,
                           recalled := false }
    let s := homEv (setLctl s line { c with
      queue := c.queue.drop 1,
      active := some { t with stage := 1, req := some r, grants := t.grants ++ [g] } }) line 14 1
    let f := fHolder s line
    let hs := holdersOf s line
    let s := match f with
      | none => mkDir s line false true (p.src :: hs)
      | some f => mkDir s line false true (f :: (hs.filter fun h => h != f) ++ [p.src])
    settle s line

/-- Admit the TAKE_EXCL or ATOMIC at the head of a hot line to its convoy (R215): the first is granted from memory, the others by a
forward to the member before. -/
def serveConvoy (s : State) (line : Nat) (r : HReq) : State :=
  let p := r.d.pkt
  let c := lctl s line
  let g (byHome : Bool) : GrantWait := { who := p.src, tag := p.tag, seq := p.seq, state := 2, at_ := s.now, byHome := byHome,
                                         fromOwner := !byHome, recalled := false }
  if isPoisoned s line then refuse (setLctl s line { c with queue := c.queue.drop 1 }) p stPOISON
  else match c.active with
    | none =>
      let s := homEv (setLctl s line { c with
        queue := c.queue.drop 1,
        active := some { kind := .convoy, req := some r, stage := 1, grants := [g true] } }) line 15 1
      settle (mkDir s line true false [p.src]) line
    | some t =>
      let prev := ((dirRec s line).bind fun r => r.holders.head?).getD 0
      if t.stage ≠ 2 || !convoyGoesOn s line || decide (fldOf s HOM_CONVOY 4 0 ≤ (t.snoops.filter fun w => w.opcode == opFWD_EXCL).length)
      then s
      else
        let s := homEv (setLctl s line { c with queue := c.queue.drop 1 }) line 15 1
        let (s, w) := forwardTo s line opFWD_EXCL prev p.src p.tag
        let s := modTxn s line fun t => { t with snoops := t.snoops ++ [w], grants := t.grants ++ [g false] }
        settle (mkDir s line true false [p.src]) line

/-- The home serves the next request of a hot line's run (R212-R215), or lets the line return to normal service (R218). -/
def serveHot (s : State) (line : Nat) : State :=
  let c := lctl s line
  if !c.hot then s
  else match c.queue with
    | [] => settle (exitHot s line) line
    | r :: _ =>
      let k := runKind r.d.pkt.opcode
      match c.active with
      | none =>
        let s := checkDir s line r.d.pkt.src
        if k = 0 then servePlain s line r
        else if k = 1 then serveShared s line r
        else if k = 2 then serveConvoy s line r
        else
          let s := setLctl s line { lctl s line with queue := c.queue.drop 1 }
          exitHot (homeAnswer (applyAnnounce s line r.d.pkt) r.d.pkt stOK 0 0 0 []) line
      | some t =>
        if t.kind = .sharedRun && t.stage = 2 && k = 1 then serveShared s line r
        else if t.kind = .convoy && k = 2 then serveConvoy s line r
        else s

/-! ## Recalls for region changes and power-down (R238, R239) -/

/-- Recall every cached line that a test picks out, where the line is not blocked. -/
def recallWhere (s : State) (pick : Nat → Bool) : State :=
  forEach (s.homes.dir.filter fun r => pick r.line && (lctl s r.line).active.isNone) s fun s r =>
    beginOwn s r.line .change none opRECALL r.holders

/-- No cached line that the test picks out is left. -/
def noneCached (s : State) (pick : Nat → Bool) : Bool := !(s.homes.dir.any fun r => pick r.line)

/-! ## The standby side (R185, R187, R199) -/

/-- Apply a mirrored change from the twin: a line's value with its version, or a directory record kept in the standby
directory. Applied in the order received; acknowledged. -/
def applyMirror (s : State) (m : MirrorMsg) : State :=
  let s := match m with
    | .data line v ver =>
      match regionOfLine s line with
      | some r =>
        if r.standby then
          let s := setDirBits (memWriteLine s line (lineBytes v)) line 0
          if r.sealed then
            let k := sealKeyAt r line 0
            let l := sealLine s k
            setSealLine s k { l with
              major := BitVec.ofNat 64 (ver / 256),
              minors := l.minors.set (sealIndex r line % 64) (BitVec.ofNat 8 (ver % 256)) }
          else s
        else s
      | none => s
    | .dir line holders owned =>
      let rest := s.homes.standbyDir.filter fun r => r.line != line
      { s with homes := { s.homes with standbyDir := if holders = [] then rest else
          { line := line, owned := owned, fwd := false, holders := holders, granted := 0, extAt := 0 } :: rest } }
  emit s (.twin .mirrorAck)

/-- The twin has acknowledged the mirrored changes of a line's transaction (R186). -/
def ackMirror (s : State) (line : Nat) : State :=
  match (lctl s line).active with
  | some t =>
    if t.mir then settle (modTxn (homEv s line 24 (s.now - t.since)) line fun t => { t with mir := false }) line else s
  | none => s

/-- No twin port is left in service: changes that waited for the twin complete alone, and their blocks are marked (R189). -/
def releaseMirrors (s : State) : State :=
  forEach (s.homes.lines.filter fun e => match e.2.active with | some t => t.mir | none => false) s fun s e =>
    settle (mirrorValue (modTxn s e.1 fun t => { t with mir := false }) e.1) e.1

end Sys2Proof.Machine
end

