-- ==== Sys2Proof/Machine/Link.lean ====
section
/-! DEFINITION. Lanes and ports (chapter 3) and the link layer (R94-R108): lane phases, capability blocks, Checking, width changes,
quarantine, leaving service, twin ports, flits in and out of the replay buffer. -/

namespace Sys2Proof.Machine

/-! ## Events, blocks, masks -/

/-- Count link event k (R478). -/
def lnkEv (s : State) (k n : Nat) : State := ev s (1064 + k) n

/-- Send a control block of a type on a lane (R66). -/
def sendBlock (s : State) (n : Nat) (kind : Nat) (v : Nat) : State := emit s (.block n (BitVec.ofNat 8 kind) (BitVec.ofNat 56 v))

/-- Lanes of a port at its configured width, in order (R55, R56). -/
def lanesOf (s : State) (p : Nat) : List Nat :=
  match portLanes s p with
  | some (f, w) => (List.range (min w (cfgWidth s p))).map (f + ·)
  | none => []

/-- LANE_MASK of a port. -/
def laneMask (s : State) (p : Nat) : Nat := fldOf s (LNK_PORT_STATUS p) 18 11

/-- The lanes of a port that its mask names. -/
def maskLanes (s : State) (p : Nat) : List Nat :=
  match portLanes s p with
  | some (f, w) => ((List.range w).filter fun i => bit (laneMask s p) i).map (f + ·)
  | none => []

/-- A mask from a list of lanes of a port. -/
def maskOfLanes (s : State) (p : Nat) (ls : List Nat) : Nat :=
  match portLanes s p with
  | some (f, _) => (ls.map fun n => 2 ^ (n - f)).sum
  | none => 0

/-- Bits set in an eight-bit mask. -/
def popMask (m : Nat) : Nat := ((List.range 8).filter fun i => bit m i).length

/-- MIN_WIDTH of a port. -/
def minWidth (s : State) (p : Nat) : Nat := fldOf s (LNK_PORT_CFG p) 7 4

/-- The port is enabled by its configuration (ENABLE). -/
def portEnabled (s : State) (p : Nat) : Bool := bitOf s (LNK_PORT_CFG p) 0

/-- A port's rate step. -/
def portStep (s : State) (p : Nat) : Nat := fldOf s (LNK_PORT_STATUS p) 8 7

/-- Link faults carry their port die as source (R360) and R500's layout: PORT, LANE, EXPECTED, REPORTED, WIDTH, KIND,
PARTNER_MEMBER. -/
def portFault (s : State) (code sev p lane expected reported width kind member : Nat) : State :=
  fault s code sev (6 + dieOfPort s p) (myEpc s 0)
    (det [(16, 2, p), (18, 2, lane), (20, 3, expected), (24, 3, reported), (28, 1, width), (29, 1, kind), (30, 2, member)])

/-! ## Lane status -/

/-- Set STATE of LNK_LANE_STATUS: 0 off, 1 detect, 2 training, 3 in service, 4 idle, 5 quarantined, 6 failed. -/
def setLaneState (s : State) (n v : Nat) : State := setFld s (LNK_LANE_STATUS n) 2 0 v

/-- STATE of a lane. -/
def laneState (s : State) (n : Nat) : Nat := fldOf s (LNK_LANE_STATUS n) 2 0
/-- STEP of a lane. -/
def laneStep (s : State) (n : Nat) : Nat := fldOf s (LNK_LANE_STATUS n) 4 3

/-- STATE shown for a training phase. -/
def stateOfPhase : LanePhase → Nat
  | .off => 0 | .detect => 1 | .inPort => 3 | .failed => 6
  | _ => 2

/-- Move a lane to a phase with a timeout, the STATE following. -/
def enterPhase (s : State) (n : Nat) (ph : LanePhase) (timeout : Nat) : State :=
  setLaneState (setLane s n { lane s n with phase := ph, deadline := s.now + timeout }) n (stateOfPhase ph)

/-- Clear the three locks of a lane. -/
def clearLocks (s : State) (n : Nat) : State := setFld s (LNK_LANE_STATUS n) 7 5 0

/-- Stored training is to be used on a lane: its port's STORED is set, and the lane was trained before. -/
def storedTraining (s : State) (n : Nat) : Bool :=
  (lane s n).stored && (match portOfLane s n with | some (p, _) => bitOf s (LNK_PORT_CFG p) 11 | none => false)

/-- Start a lane's training from Detect (R73): 5 ms. -/
def startDetect (s : State) (n : Nat) : State :=
  let l := lane s n
  let st := storedTraining s n
  let s := setLane s n { losses := l.losses, cleanSince := l.cleanSince, stored := l.stored, useStored := st, manualSince := l.manualSince }
  setFld (clearLocks (enterPhase s n .detect 5000000) n) (LNK_LANE_STATUS n) 4 3 0

/-- Start a step with the Lock phase (R73): 2 ms. -/
def startStep (s : State) (n step : Nat) : State :=
  let s := setLane s n { lane s n with readyTx := false, readyRx := false, cap := none }
  setFld (clearLocks (enterPhase s n .lock 2000000) n) (LNK_LANE_STATUS n) 4 3 step

/-- Timeout of Equalise at a step (R73). -/
def equaliseTime (step : Nat) : Nat :=
  if step = 0 then 5000000 else if step = 1 then 20000000 else if step = 2 then 40000000 else 100000000

/-- A lane that failed, was left out or lost lock: out until it restarts from Detect 1 s later (R76). -/
def failLane (s : State) (n : Nat) : State :=
  let s := clearLocks (enterPhase s n .failed 0) n
  setLane s n { lane s n with restartAt := s.now + 1000000000, readyTx := false, readyRx := false, eiRx := false, idleDeadline := 0 }

/-- A lane switched off: its port is disabled. -/
def laneOff (s : State) (n : Nat) : State :=
  if laneState s n = 5 then s else setFld (clearLocks (enterPhase s n .off 0) n) (LNK_LANE_STATUS n) 4 3 0

/-! ## Superframes and width changes (R69, R83) -/

/-- Twice the length of a superframe at a step, in ns: 179,520 bits at 128, 64, 32 or 8 Gbit/s (R69). -/
def superframe2 (step : Nat) : Nat := if step = 3 then 2805 else if step = 2 then 5610 else if step = 1 then 11220 else 44880

/-- Superframes begun since the port entered service, modulo 2^24. -/
def sfCount (s : State) (p : Nat) : Nat := 2 * (s.now - (link s p).sfAt) / superframe2 (portStep s p) % 2 ^ 24

/-- The later of two superframe counts. -/
def sfLater (a b : Nat) : Nat := if (a + 2 ^ 24 - b) % 2 ^ 24 < 2 ^ 23 then a else b

/-- A superframe count has been reached. -/
def sfReached (s : State) (p b : Nat) : Bool := decide ((sfCount s p + 2 ^ 24 - b) % 2 ^ 24 < 2 ^ 23)

/-- Send WIDTH on all in-service lanes of a port: the mask of lanes it receives well, and the second boundary after sending
(R83). -/
def announceWidth (s : State) (p mask : Nat) : State :=
  let l := link s p
  let sq := l.widthSeq + 1
  let b := (sfCount s p + 2) % 2 ^ 24
  let s := setLink s p { l with
    widthSeq := sq,
    widthMine := some { seq := sq, mask := BitVec.ofNat 8 mask, boundary := BitVec.ofNat 24 b } }
  forEach (maskLanes s p) s fun s n => sendBlock s n 0x66 (sq.toNat + mask % 256 * 2 ^ 8 + b * 2 ^ 16)

/-- Lanes of a port's mask that it receives well. -/
def goodLanes (s : State) (p : Nat) : List Nat := (maskLanes s p).filter fun n => (lane s n).phase == .inPort

/-! ## Leaving service (R85, R88, R104, R138) -/

/-- The twin port that carries the twin link: ACTIVE of LNK_TWIN_STATUS (0, 1 or 3). -/
def twinActive (s : State) : Nat := fldOf s LNK_TWIN_STATUS 1 0

/-- The last twin port has left service (R189, R341, R342): the time is noted, with what the takeover will ask of it, changes that
waited for the twin complete alone, and TWIN_UNMIRRORED is written where any region is twinned here. -/
def twinLinkLost (s : State) : State :=
  let t := s.res.twin
  let s := { s with res := { s.res with twin := { t with
    downAt := some s.now, probeAt := none, syncAtLoss := !t.peerResync && !t.mismatch, locketOk := false } } }
  let s := setFld s LNK_TWIN_STATUS 1 0 3
  let s := if ((validRegions s).map (regionOf s)).any fun r => r.twinned && !r.standby then
      setBitOf (fault0 s 0x0305 3 5) FLT_STATUS 9 true
    else s
  releaseMirrors s

/-- Twin port 0 hands its unacknowledged flits to twin port 1, in their order (R88). Twin port 1 numbers them as its own next
flits (log entry 27). -/
def twinHandover (s : State) : State :=
  let old := (link s 256).replay
  let l := link s 257
  let l := old.foldl (fun (l : PortLink) e =>
    { l with txSeq := l.txSeq + 1, replay := l.replay ++ [{ e with flit := { e.flit with seq := l.txSeq }, sentAt := s.now }] }) l
  let l := { l with resend := if old = [] then l.resend else some (l.replay.length - old.length), busyAt := s.now }
  let s := setFld (setLink s 257 l) LNK_TWIN_STATUS 1 0 1
  ev s 1114 1

/-- A port leaves service: STATE 4, or 0 when disabled; its replay buffer and partly received packets are discarded (R104), its bit
in SWC_ROUTE_EN clears and what is queued for it is looked up again (R138, R161, R162). -/
def leaveService (s : State) (p : Nat) : State :=
  let was := inService s p
  let s := wr s (LNK_PORT_STATUS p) (if portEnabled s p then 4 else 0)
  if !was then s
  else
    let s := if p = 256 && inService s 257 && twinActive s == 0 then twinHandover s else s
    let l := link s p
    let s := setLink s p { l with
      replay := [], resend := none, rxBuf := Vector.replicate 6 [], widthMine := none, widthPeer := none, outAt := s.now }
    if p < 256 then
      let s := setBitOf s (SWC_ROUTE_EN (p / 32)) (p % 32) false
      updateService (relink s (egPort p))
    else
      let s := updateService s
      if twinUp s then (if p = 257 && twinActive s = 1 then setFld s LNK_TWIN_STATUS 1 0 0 else s) else twinLinkLost s

/-- A port with fewer than MIN_WIDTH lanes goes out of service (R85). -/
def portDown (s : State) (p : Nat) : State :=
  if inService s p then portEvent (portFault (leaveService s p) 0x0105 3 p 0xFFFF 0 0 0 0 0) p 2 else s

/-- LNK_PORT_CMD.RETRAIN (R92): the port leaves service and all its lanes start from Detect. Lanes in quarantine stay there
(R86, R87). -/
def retrain (s : State) (p : Nat) : State :=
  if !portEnabled s p || !portExists s p then s
  else
    let s := setFld (leaveService s p) (LNK_PORT_STATUS p) 2 0 1
    lnkEv (forEach (lanesOf s p) s fun s n => if laneState s n = 5 then s else startDetect s n) 14 1

/-- Setting ENABLE starts bring-up (R93). -/
def bringUpPort (s : State) (p : Nat) : State :=
  if !portExists s p || !portEnabled s p || inService s p then s
  else
    let s := setFld s (LNK_PORT_STATUS p) 2 0 1
    forEach (lanesOf s p) s fun s n => if laneState s n = 5 then s else startDetect s n

/-- Clearing ENABLE takes the port out of service at once (R93). -/
def disablePort (s : State) (p : Nat) : State :=
  if !portExists s p then s
  else
    let ls := match portLanes s p with | some (f, w) => (List.range w).map (f + ·) | none => []
    forEach ls (leaveService s p) laneOff

/-! ## A port's bring-up (R75, R79) -/

/-- A lane has ended its training at its STEP. -/
def laneTrained (s : State) (n : Nat) : Bool :=
  let l := lane s n
  l.phase == .inPort || (l.phase == .readyWait && !l.readyTx)

/-- A lane may still reach a higher step. -/
def laneRising (s : State) (n : Nat) : Bool :=
  match (lane s n).phase with
  | .detect | .lock | .exchange | .equalise | .verify => true
  | .readyWait => (lane s n).readyTx
  | _ => false

/-- The target step of a lane (R74): the lower of MAX_STEP and the partner's highest supported step. -/
def targetStep (s : State) (p n : Nat) : Nat :=
  let mx := fldOf s (LNK_PORT_CFG p) 9 8
  match (lane s n).cap with
  | some c =>
    let steps := bits c.toNat 75 72
    let hi := if bit steps 3 then 3 else if bit steps 2 then 2 else if bit steps 1 then 1 else 0
    min mx hi
  | none => mx

/-- The highest step that at least MIN_WIDTH lanes of a port have completed. -/
def commonStep (s : State) (p : Nat) : Option Nat :=
  let ls := (lanesOf s p).filter (laneTrained s)
  [3, 2, 1, 0].find? fun k => decide (minWidth s p ≤ (ls.filter fun n => decide (k ≤ laneStep s n)).length)

/-- Enter Checking (R75) once MIN_WIDTH lanes have reached one step that is their target, or none of the port's lanes can still
rise (log entry 28). Lanes that stopped below the step are left out; RATE_LOW when it is below the target. -/
def maybeChecking (s : State) (p : Nat) : State :=
  if !(portState s p == 1 || portState s p == 4) || !portEnabled s p then s
  else match commonStep s p with
    | none => s
    | some k =>
      let ls := lanesOf s p
      let target := (ls.filter (laneTrained s)).foldl (fun t n => max t (targetStep s p n)) 0
      if k < target && ls.any (laneRising s) then s
      else
        let s := forEach ls s fun s n =>
          if laneTrained s n then (if laneStep s n < k then failLane s n else setFld s (LNK_LANE_STATUS n) 4 3 k) else s
        let s := setFld (setFld s (LNK_PORT_STATUS p) 2 0 2) (LNK_PORT_STATUS p) 8 7 k
        let s := setLink s p { link s p with checkAt := s.now, skewFail := false }
        if k < target then portFault (portEvent s p 5) 0x0102 2 p 0xFFFF 0 0 0 0 0 else s

/-- A trained lane of a port in service asks to join it (R83, R84); one that stopped below the port's step is left out. -/
def maybeRejoin (s : State) (p n : Nat) : State :=
  if !inService s p || bit (laneMask s p) (n - ((portLanes s p).getD (0, 0)).1) then s
  else if laneStep s n < portStep s p then failLane s n
  else
    let s := setFld s (LNK_LANE_STATUS n) 4 3 (portStep s p)
    announceWidth s p (maskOfLanes s p (goodLanes s p ++ [n]))

/-- A lane's training is over: its port may enter Checking, or take it back. -/
def laneDone (s : State) (n : Nat) : State :=
  match portOfLane s n with
  | some (p, _) => maybeRejoin (maybeChecking s p) p n
  | none => s

/-- A lane has completed its step (R73, R74): READY below the target, otherwise its training is over. -/
def stepCompleted (s : State) (n : Nat) : State :=
  match portOfLane s n with
  | none => s
  | some (p, _) =>
    let k := laneStep s n
    let up := decide (k < targetStep s p n)
    let s := enterPhase s n .readyWait 0
    let s := setLane s n { lane s n with completed := some k, readyTx := up, stored := true }
    if up then s else laneDone s n

/-- A lane's training ends for good (R73): at the highest step it completed, or failed. -/
def trainingEnds (s : State) (n : Nat) : State :=
  match (lane s n).completed with
  | some k =>
    let s := enterPhase s n .readyWait 0
    laneDone (setFld (setLane s n { lane s n with readyTx := false }) (LNK_LANE_STATUS n) 4 3 k) n
  | none => failLane s n

/-- A phase times out (R73): run once more from the start of its step, then the end of the lane's training. -/
def phaseTimesOut (s : State) (n : Nat) : State :=
  let l := lane s n
  if l.retried then trainingEnds s n
  else
    let again := setLane s n { l with retried := true }
    if l.phase == .detect then enterPhase again n .detect 5000000 else startStep again n (laneStep s n)

/-! ## The partner (R33, R77-R79, R89) -/

/-- The EPC that R33 expects at a port: the twin for a twin port, LNK_PORT_EXPECT otherwise. -/
def expectedEpc (s : State) (p : Nat) : Nat :=
  if p ≥ 256 then (twinEpc s 0).toNat else fldOf s (LNK_PORT_EXPECT p) 23 0

/-- The partner check (R33, R79, R89): the KIND of the mismatch of R500, if any. -/
def partnerFault (s : State) (p : Nat) : Option Nat :=
  let got := rd s (LNK_PORT_PARTNER p)
  if got ≠ expectedEpc s p || epcUnit (BitVec.ofNat 24 got) ≠ 0 then some (if p ≥ 256 then 2 else 0)
  else if p ≥ 256 && fldOf s (LNK_PORT_PART p) 15 0 ≠ (if s.part.hz7134 then 0x7134 else 0x7168) then some 3
  else none

/-- A partner that fails R79: the port stays, or goes, out of service and PORT_MISWIRE is written; a twin port says in
LNK_TWIN_STATUS what it found (R89). -/
def miswire (s : State) (p kind : Nat) : State :=
  let s := if inService s p then leaveService s p else setFld s (LNK_PORT_STATUS p) 2 0 4
  let s := lnkEv (portEvent s p 3) 15 1
  let s := if kind = 2 then setBitOf s LNK_TWIN_STATUS 3 true
    else if kind = 3 then portEvent (setBitOf s LNK_TWIN_STATUS 2 true) p 4 else s
  portFault s 0x0101 3 p 0xFFFF (expectedEpc s p) (rd s (LNK_PORT_PARTNER p)) 0 kind
    (if kind = 3 then fldOf s (LNK_PORT_PART p) 15 0 else 0)

/-- A change of LNK_PORT_EXPECT in service is checked at once, with the outcome of R79 (R93). -/
def expectChanged (s : State) (p : Nat) : State :=
  if inService s p then (match partnerFault s p with | some k => miswire s p k | none => s) else s

/-- Fields of a capability block (R77). -/
def capField (c : BitVec 384) (hi lo : Nat) : Nat := bits c.toNat hi lo

/-- The block's CRC is good: bytes 46-47 hold the CRC-16 of bytes 0-45. -/
def capGood (c : BitVec 384) : Bool := decide ((crc16 (leBytes 46 c.toNat)).toNat = capField c 383 368)

/-- Two complete sets a receiver accepts (R77): good, and identical except for bytes 11-13. -/
def capAccepted (a b : BitVec 384) : Bool :=
  capGood a && capGood b && capField a 87 0 == capField b 87 0 && capField a 367 112 == capField b 367 112

/-- R78: a lane whose SENDER_EPC or PORT differs from that of the port's lowest-numbered locked lane is left out, with
PORT_MISWIRE. -/
def mapLanes (s : State) (p : Nat) : State :=
  let ls := (lanesOf s p).filter fun n => (lane s n).cap.isSome && bitOf s (LNK_LANE_STATUS n) 7
  match ls with
  | [] => s
  | f :: rest =>
    let a := ((lane s f).cap).getD 0
    forEach rest s fun s n =>
      let b := ((lane s n).cap).getD 0
      if capField a 23 0 = capField b 23 0 && capField a 56 48 = capField b 56 48 then s
      else
        let s := lnkEv (portEvent (failLane s n) p 3) 15 1
        portFault s 0x0101 3 p n (capField a 23 0) (capField b 23 0) 0 1 0

/-- A capability block is accepted (R77, R78): the partner is noted, and a lane in Exchange goes on to Verify or Equalise. -/
def acceptCap (s : State) (n : Nat) (c : BitVec 384) : State :=
  match portOfLane s n with
  | none => s
  | some (p, _) =>
    let l := lane s n
    let ready := capField c 82 82 == 1 && capField c 81 80 == laneStep s n
    let s := setLane s n { l with cap := some c, readyRx := ready }
    let s := wr (wr s (LNK_PORT_PARTNER p) (capField c 23 0)) (LNK_PORT_PART p) (capField c 143 112)
    let s := if p ≥ 256 then setFld s LNK_TWIN_STATUS 31 16 (capField c 127 112) else s
    let s := if l.phase == .exchange then
        (if l.useStored then enterPhase s n .verify 5000000 else enterPhase s n .equalise (equaliseTime (laneStep s n)))
      else s
    mapLanes s p

/-! ## Losses of lock and quarantine (R71, R84, R86, R87) -/

/-- A lane leaves its port (R83, R84): WIDTH goes out on the remaining lanes, or the port goes down below MIN_WIDTH. -/
def laneLeaves (s : State) (n : Nat) : State :=
  match portOfLane s n with
  | none => s
  | some (p, _) =>
    if inService s p && (maskLanes s p).contains n then
      let good := goodLanes s p
      if good.length < minWidth s p then portDown s p else announceWidth s p (maskOfLanes s p good)
    else s

/-- Quarantine period of a level, in seconds (R86). -/
def quarSeconds (level : Nat) : Nat :=
  if level = 0 then 10 else if level = 1 then 20 else if level = 2 then 40 else if level = 3 then 80
  else if level = 4 then 160 else if level = 5 then 320 else 600

/-- A lane enters quarantine (R86). -/
def quarantine (s : State) (n : Nat) : State :=
  let level := fldOf s (LNK_LANE_QUAR n) 13 10
  let secs := quarSeconds level
  let s := emit (sendBlock s n 0x55 secs) (.silent n)
  let s := setLaneState (clearLocks (enterPhase s n .off 0) n) n 5
  let s := setLane s n { lane s n with quarUntil := max (lane s n).quarUntil (s.now + secs * 1000000000), eiRx := false, idleDeadline := 0 }
  let s := setFld s (LNK_LANE_QUAR n) 13 10 (min 6 (level + 1))
  lnkEv (fault s 0x0106 1 (6 + dieOfLane s n) (myEpc s 0) (det [(16, 2, n), (18, 1, level)])) 8 1

/-- A loss of lock (R71): stamped, and answered by quarantine when 8 others lie in the preceding second, otherwise by leaving the
port and restarting 1 s later. -/
def lossOfLock (s : State) (n : Nat) : State :=
  let l := lane s n
  let recent := l.losses.filter fun t => decide (s.now ≤ t + 1000000000)
  let s := setLane s n { l with losses := recent ++ [s.now], cleanSince := s.now }
  let s := ev (lnkEv s 7 1) (1080 + 8 * dieOfLane s n + 7) 1
  let s := if 8 ≤ recent.length then quarantine s n else failLane s n
  laneLeaves s n

/-! ## The twin ports (R88) -/

/-- The twin link carries traffic again, or for the first time: twin port 0 where it is in service, else twin port 1. -/
def chooseTwinPort (s : State) : State :=
  if inService s 256 && (twinActive s = 3 || !inService s 257) then setFld s LNK_TWIN_STATUS 1 0 0
  else if inService s 257 && twinActive s = 3 then setFld s LNK_TWIN_STATUS 1 0 1
  else s

/-! ## Flits in (R97, R100, R106, R107) -/

/-- Distance from a to b, forwards, of 12-bit numbers. -/
def seqDist (a b : BitVec 12) : Nat := (b.toNat + 4096 - a.toNat) % 4096

/-- Take the acknowledgement of a trailer: flits up to ACK_SEQ leave the replay buffer (R101, R102). -/
def takeAck (s : State) (p : Nat) (ack : BitVec 12) : State :=
  let l := link s p
  match l.replay with
  | [] => s
  | e :: _ =>
    let n := seqDist e.flit.seq ack + 1
    if n ≤ l.replay.length then
      let l := match l.probe with
        | some (q, t) => if seqDist e.flit.seq q < n then { l with rtt := some (s.now - t), probe := none } else l
        | none => l
      setLink s p { l with
        replay := l.replay.drop n,
        resend := match l.resend with
          | some i => if i < n then (if l.replay.length ≤ n then none else some 0) else some (i - n)
          | none => none,
        oldestTries := 0, lastReq := none }
    else s

/-- The transmitter replays from its oldest unacknowledged flit (R101, R102); when that flit has been replayed 16 times the port is
retrained and LINK_RETRY_EXHAUSTED written. -/
def startReplay (s : State) (p : Nat) : State :=
  let l := link s p
  if l.replay = [] then s
  else if 16 ≤ l.oldestTries then portFault (retrain s p) 0x0108 3 p 0xFFFF 0 0 0 0 0
  else setLink s p { l with resend := some 0, oldestTries := l.oldestTries + 1 }

/-- A replay request (R101): from ACK_SEQ + 1; one with the same ACK_SEQ during that replay is ignored. -/
def takeReplayRequest (s : State) (p : Nat) (ack : BitVec 12) : State :=
  let l := link s p
  if l.resend.isSome && l.lastReq = some ack then s
  else
    let s := lnkEv s 4 1
    startReplay (setLink s p { link s p with lastReq := some ack }) p

/-- The fields every good trailer brings (R100, R106, R107): STOP, both grants, the acknowledgement. -/
def takeTrailer (s : State) (p : Nat) (f : Flit) : State :=
  let l := link s p
  let g := vset l.grant 0 (some f.c0Grant)
  let c := f.crVc.toNat
  let g := if 1 ≤ c && c ≤ 5 then vset g c (some f.crGrant) else g
  let s := setLink s p { l with grant := g, stopRx := f.stop }
  if f.ackKind = 1 then takeAck s p f.ackSeq
  else if f.ackKind = 2 then takeReplayRequest (takeAck s p f.ackSeq) p f.ackSeq
  else s

/-- The receiver discards a failed flit and asks for a replay in every trailer from now on (R100). -/
def failFlit (s : State) (p : Nat) : State :=
  let l := link s p
  let s := ev (lnkEv s 2 1) (1080 + 8 * dieOfPort s p + 5) 1
  if l.rxFailed then s else setLink (lnkEv s 3 1) p { l with rxFailed := true, owed := max l.owed 1 }

/-- Cells already arrived of a class stream are taken with whole packets (PACKET_ARRIVE); a packet whose class differs from the
FVC of its flits takes the FVC's class and a reserved opcode, which R115 refuses. -/
def streamPackets (s : State) (p c : Nat) (payload : List Byte) : State :=
  let l := link s p
  let (ps, rest) := parseStream 16 (vget [] l.rxBuf c ++ payload)
  let s := setLink s p { l with rxBuf := vset l.rxBuf c rest }
  let port : Ingress := .port (Fin.ofNat 258 p)
  { s with arrivals := s.arrivals ++ ps.map fun k => (port, if k.vc = c then k else { k with opcode := 0, cls := BitVec.ofNat 3 c }) }

/-- A sequenced flit with good CRC (R100): accepted when next, failed when ahead, a duplicate when behind. -/
def takeSequenced (s : State) (p : Nat) (f : Flit) : State :=
  let l := link s p
  let d := seqDist l.rxNext f.seq
  if d = 0 then
    let s := setLink s p { l with rxNext := l.rxNext + 1, rxFailed := false, owed := max l.owed 1 }
    let s := ev s (1080 + 8 * dieOfPort s p) 1
    let s := if p ≥ 256 then ev s 1113 1 else s
    streamPackets s p f.fvc.toNat (slice f.payload 0 240)
  else if 4096 - 512 ≤ d then s
  else failFlit s p

/-- A received flit (R95-R100). A flagged flit counts as failed (R68); a control-only flit carries only its trailer, and shows a
lost flit when its SEQ is ahead of the next expected one; FVC 6 is reserved and carries nothing. -/
def receiveFlit (s : State) (p : Nat) (f : Flit) (flagged : Bool) : State :=
  if !inService s p then s
  else if flagged || f.crc ≠ f.goodCrc then failFlit s p
  else
    let s := takeTrailer s p f
    let d := seqDist (link s p).rxNext f.seq
    if f.fvc.toNat ≤ 5 then takeSequenced s p f
    else if f.fvc = 7 && d ≠ 0 && d < 4096 - 512 then failFlit s p
    else s

/-- T_ack (R102). -/
def tAck (l : PortLink) : Nat := match l.rtt with | some r => 2 * r + 1000 | none => 12000

/-- The oldest unacknowledged flit reaches T_ack after its latest transmission, and no replay of it is under way (R102). -/
def ackTimeout (s : State) (p : Nat) : State :=
  let l := link s p
  match l.replay with
  | [] => s
  | e :: _ => if !inService s p || l.resend == some 0 || s.now < e.sentAt + tAck l then s else startReplay (lnkEv s 6 1) p

/-! ## C0 tokens (R148) -/

/-- Line rate of a step in Gbit/s. -/
def stepRate (step : Nat) : Nat := if step = 3 then 128 else if step = 2 then 64 else if step = 1 then 32 else 8

/-- Parts of one token: a cell of 2,048 bits at 1,024ths of the payload rate, which is 64 × 257 / (66 × 272) = 514 / 561 of the
line rate. -/
def tokenUnit : Nat := 1024 * 2048 * 561

/-- The token bucket's fill now: RATE of the port's payload rate at its configured width, at most the C0 initial credit. -/
def tokensNow (s : State) (p : Nat) : Nat :=
  let l := link s p
  let rate := fldOf s (SWC_C0_POLICE p) 10 0 * cfgWidth s p * stepRate (portStep s p) * 514
  min (vget 0 l.init 0 * tokenUnit) (l.tokens + (s.now - l.tokenAt) * rate)

/-- A waiting C0 cell takes a token, and its grant rises. -/
def takeC0Token (s : State) (p : Nat) : State :=
  let l := link s p
  let t := tokensNow s p
  if l.waitTokens = 0 || t < tokenUnit then s
  else
    let s := setLink s p { l with
      tokens := t - tokenUnit, tokenAt := s.now, waitTokens := l.waitTokens - 1,
      freed := vset l.freed 0 (vget 0 l.freed 0 + 1), owed := max l.owed 1 }
    ev s 1247 1

end Sys2Proof.Machine
end

