-- ==== Sys2Proof/Machine/Cache.lean ====
section
/-! DEFINITION. The module's own caches (R132, R190, R202-R207, R221-R225, R271): the operation of an ATOMIC, the answer to a C2 packet,
grants and acknowledgements. -/

namespace Sys2Proof.Machine

/-! ## ATOMIC (R167) -/

/-- A `size`-byte value as a signed integer. -/
def signed (size v : Nat) : Int := if v < 2 ^ (8 * size - 1) then Int.ofNat v else Int.ofNat v - Int.ofNat (2 ^ (8 * size))

/-- FP32 sums element by element. -/
def addFp32 (size v a : Nat) : Nat :=
  leNat ((List.range (size / 4)).flatMap fun i =>
    leBytes 4 (f32Add (BitVec.ofNat 32 (v / 2 ^ (32 * i))) (BitVec.ofNat 32 (a / 2 ^ (32 * i)))).toNat)

/-- The new value of an ATOMIC: operation, size in bytes, old value, operand, compare value. -/
def aopApply (aop size v a c : Nat) : Nat :=
  let m := 2 ^ (8 * size)
  match aop with
  | 0 => (v + a) % m
  | 1 => addFp32 size v a
  | 2 => if signed size a < signed size v then a else v
  | 3 => if signed size v < signed size a then a else v
  | 4 => Nat.land v a
  | 5 => Nat.lor v a
  | 6 => Nat.xor v a
  | 7 => a
  | 8 => if v = c then a else v
  | _ => v

/-- ASIZE in bytes (R112). -/
def asizeBytes (asize : Nat) : Nat := 2 ^ asize

/-- A reserved AOP, MIN or MAX of 16 bytes, or an ASIZE that is not 4, 8 or 16 (R112, R168). -/
def atomicBad (aop asize : Nat) : Bool := !(2 ≤ asize && asize ≤ 4) || decide (8 < aop) || ((aop == 2 || aop == 3) && asize == 4)

/-! ## Lines of a cache -/

/-- A cache line answers for this home and offset: the home's seat, or that of its twin after a takeover (R347). -/
def CacheLine.isFor (l : CacheLine) (src : Epc) (off : Nat) : Bool :=
  l.off.toNat == off && (sameSeat l.home src || sameSeat (twinOf l.home) src)

/-- A line gone to I: nothing of it is left unless its announcement or its request is outstanding. -/
def CacheLine.toI (l : CacheLine) : CacheLine := if l.evicting || l.requested then { l with state := 0 } else {}

/-- Send a C3 answer of a cache to the home or, for DATA, to the requester of a forward. -/
def sendAnswer (s : State) (self : Epc) (p : Packet) (op : Byte) (dest : Epc) (state : BitVec 3) (fwd ev : Bool) (data : List Byte) :
    State :=
  sendPlain s { mkPkt op 3 dest self (opfR p.offset state fwd ev p.tag 0) data with partition := p.partition, job := p.job }
    (ingressOfUnit s self)

/-- A cache's answer to a C2 packet by its state (R202): what it sends, and the line it keeps. -/
def answerC2 (s : State) (self : Epc) (l : CacheLine) (p : Packet) : State × CacheLine :=
  let st := if l.evicting then 0 else l.state.toNat
  let data := lineBytes l.data
  let home := p.src
  if p.opcode = opFWD_SHARED then
    if p.req = p.src then
      if st = 3 then (sendAnswer s self p opSNOOP_DATA home 4 false false data, { l with state := 4 })
      else if st = 2 then (sendAnswer s self p opSNOOP_RESP home 4 false false [], { l with state := 4 })
      else (sendAnswer s self p opSNOOP_RESP home (BitVec.ofNat 3 st) false l.evicting [], l)
    else if st = 2 || st = 3 || st = 4 then
      let s := sendAnswer s self p opDATA p.req 4 false false data
      if st = 3 then (sendAnswer s self p opSNOOP_DATA home 1 true false data, { l with state := 1 })
      else (sendAnswer s self p opSNOOP_RESP home 1 true false [], { l with state := 1 })
    else (sendAnswer s self p opSNOOP_RESP home (BitVec.ofNat 3 st) false l.evicting [], l)
  else if p.opcode = opFWD_EXCL then
    if st = 2 || st = 3 then
      let s := sendAnswer s self p opDATA p.req (BitVec.ofNat 3 st) false false data
      (sendAnswer s self p opSNOOP_RESP home 0 true false [], l.toI)
    else (sendAnswer s self p opSNOOP_RESP home 0 false l.evicting [], l.toI)
  else if st = 3 then (sendAnswer s self p opSNOOP_DATA home 0 false false data, l.toI)
  else (sendAnswer s self p opSNOOP_RESP home 0 false l.evicting [], l.toI)

/-- A cache takes a C2 packet: a forward for a line in I whose Take or ATOMIC is outstanding is held (R221). -/
def takeC2 (s : State) (self : Epc) (l : CacheLine) (p : Packet) : State × CacheLine :=
  if (p.opcode = opFWD_SHARED || p.opcode = opFWD_EXCL) && l.requested && l.state = 0 then (s, { l with held := l.held ++ [p] })
  else answerC2 s self l p

/-- Answer the held forwards of a line, in order. -/
def answerHeld (s : State) (self : Epc) (l : CacheLine) : State × CacheLine :=
  l.held.foldl (fun (acc : State × CacheLine) p => answerC2 acc.1 self acc.2 p) (s, { l with held := [] })

/-- COMP_ACK for a grant (R205): to Unit 1 of the home the request went to, or of its twin when the DATA came from there. -/
def sendCompAck (s : State) (self : Epc) (r : OutReq) (p : Packet) : State :=
  let home := if sameSeat p.src (twinOf r.pkt.dest) then twinOf r.pkt.dest else r.pkt.dest
  sendPlain s { mkPkt opCOMP_ACK 3 (epcWithUnit home 1) self (opfR p.offset 0 false false p.tag 0) [] with
    partition := r.pkt.partition, job := r.pkt.job } (ingressOfUnit s self)

/-- The new contents of a line after an ATOMIC of `size` bytes at byte `i`, and the old value. -/
def lineAtomic (data : Line) (i aop size operand compare : Nat) : Line × Nat :=
  let bs := lineBytes data
  let old := leAt bs i size
  (bytesLine (splice bs i (leBytes size (aopApply aop size old operand compare))), old)

/-- The request that gives a line up: GIVE with data in M, GIVE without in E, EVICT_NOTICE in S or F (R206). -/
def givePkt (self : Epc) (l : CacheLine) : Packet :=
  let op := if l.state = 2 || l.state = 3 then opGIVE else opEVICT_NOTICE
  { mkPkt op 1 l.home self (opfM l.off.toNat 0 0 0 0) (if l.state = 3 then lineBytes l.data else []) with
    partition := l.part, job := l.job, regionKey := l.key, enc := l.enc.isSome,
    ext := match l.enc with | some e => BitVec.ofNat 128 e.toNat | none => 0 }

/-- The outstanding Take or ATOMIC that a DATA answers, by line and TAG, whoever sent it (R204, R225). -/
def matchGrant (s : State) (p : Packet) : Option OutReq :=
  s.e2e.outs.find? fun r => r.isSent && r.pkt.src == p.dest && r.pkt.tag == p.tag && r.pkt.offset / 128 == p.offset / 128 &&
    (r.pkt.opcode == opTAKE_SHARED || takesExcl r.pkt.opcode) && (if sameSeat p.src r.pkt.dest then !(r.pkt.enc && !r.local_ && !p.enc && statusOf p == stOK) else p.seq == 0)

end Sys2Proof.Machine
end

