-- ==== Sys2Proof/Machine/Tensor.lean ====
section
/-! DEFINITION. What the Hall's array and vector engine compute (R254-R259, R265, R266): operands in the Pantry, the passes of an
output tile, its epilogue, and vector programs. -/

namespace Sys2Proof.Machine

/-! ## Command bytes -/

/-- `n` bytes of a command at byte `i`, as a number. -/
def cby (l : Line) (i n : Nat) : Nat := l.toNat / 2 ^ (8 * i) % 2 ^ (8 * n)
/-- Bits of the bytes from `i`. -/
def cbits (l : Line) (i hi lo : Nat) : Nat := bits (l.toNat / 2 ^ (8 * i)) hi lo
/-- One bit of byte `i`. -/
def cbit (l : Line) (i n : Nat) : Bool := bit (cby l i 1) n
/-- A signed 32-bit number at byte `i`. -/
def cint (l : Line) (i : Nat) : Int := signed 4 (cby l i 4)

/-! ## The Pantry -/

/-- Bytes of the Pantry. -/
def pRead (s : State) (a n : Nat) : List Byte := cellRead s.hall.pantry a n
/-- Write bytes to the Pantry. -/
def pWrite (s : State) (a : Nat) (bs : List Byte) : State := { s with hall := { s.hall with pantry := cellWrite s.hall.pantry a bs } }

/-- The element of a format at a bit address. -/
def pElem (s : State) (fmt bitAddr : Nat) : Nat :=
  let w := elemBits fmt
  bits (leNat (pRead s (bitAddr / 8) ((bitAddr % 8 + w + 7) / 8))) (bitAddr % 8 + w - 1) (bitAddr % 8)

/-- Store an element at a bit address, leaving its neighbours' bits. -/
def pPutElem (s : State) (fmt bitAddr v : Nat) : State :=
  let w := elemBits fmt
  let n := (bitAddr % 8 + w + 7) / 8
  let old := leNat (pRead s (bitAddr / 8) n)
  pWrite s (bitAddr / 8) (leBytes n (setBits old (bitAddr % 8 + w - 1) (bitAddr % 8) v))

/-- Two byte ranges meet. -/
def rangesMeet (a n b m : Nat) : Bool := decide (a < b + m) && decide (b < a + n) && decide (0 < n) && decide (0 < m)

/-- Output bytes that overlap an input range of their own command hold undefined values (R287): a free value for each. -/
def spoilOverlap (s : State) (outs ins : List (Nat × Nat)) : State :=
  let hit := outs.filter fun o => ins.any fun i => rangesMeet o.1 o.2 i.1 i.2
  if hit = [] then s
  else
    let n := s.freeIdx
    takeFree (forEach hit s fun s (a, len) => forEach (List.range len) s fun s k =>
      if ins.any fun i => decide (i.1 ≤ a + k) && decide (a + k < i.1 + i.2) then pWrite s (a + k) [Config.overlapByte n (a + k)] else s)

/-! ## Numbers -/

/-- A NaN whose sign and payload the manual leaves open. -/
def someNan (x : Word) : Word := BitVec.ofNat 32 (bits x.toNat 31 31 * 2 ^ 31 + 0x7F800001 + x.toNat % (2 ^ 23 - 1))

/-- A FP32 result of an operation (numbered for the free NaN) of two operands. -/
def hRes (op : Nat) (a b : Word) (v : FVal) : Word :=
  match v with | .nan => someNan (Config.nan32 op a b) | v => toF32 v

/-- FP32 sum, with a free NaN. -/
def hAdd (a b : Word) : Word := hRes 1 a b (fAdd (f32 a) (f32 b))
/-- FP32 product. -/
def hMul (a b : Word) : Word := hRes 3 a b (fMul (f32 a) (f32 b))

/-- An integer nearest an exact value, by the rounding asked for. -/
def roundInt (rnd : Rnd) : FVal → Option Int
  | .fin n m e =>
    let r := if 0 ≤ e then m * 2 ^ e.toNat else roundQuot rnd m (-e).toNat
    some (if n then -(Int.ofNat r) else Int.ofNat r)
  | _ => none

/-- Cast to a two's complement integer of `w` bits; what it cannot hold is left open (log entry 6). -/
def castInt (w : Nat) (rnd : Rnd) (x : Word) : Nat :=
  match roundInt rnd (f32 x) with
  | some i => if -(2 ^ (w - 1) : Int) ≤ i && i < (2 ^ (w - 1) : Int) then (i % (2 ^ w : Int)).toNat else (Config.intOf w x).toNat % 2 ^ w
  | none => (Config.intOf w x).toNat % 2 ^ w

/-- Cast a FP32 word to a FMT of one element without a block scale (R257, R265). -/
def castElem (fmt : Nat) (rnd : Rnd) (x : Word) : Nat :=
  if fmt = 0 then x.toNat
  else if fmt = 10 then castInt 8 rnd x
  else if fmt = 11 then castInt 32 rnd x
  else match f32 x, elemFmt fmt with
    | .nan, some f =>
      let y := (Config.nan32 (100 + fmt) x 0).toNat
      if f.top = .ieee then y % 2 * 2 ^ (f.eb + f.mb) + fInf f + 1 + y / 2 % (2 ^ f.mb - 1)
      else if f.top = .e4m3 then fNan f + y % 2 * 2 ^ (f.eb + f.mb)
      else y % 2 ^ f.width
    | v, _ => castTo fmt rnd v

/-- The high BF16 part of an exact value, and the low part of what is left (R255; the split is rounded to nearest, log entry 6). -/
def splitHi (v : FVal) : FVal := fDecode fBF16 (fRound fBF16 false .rne v)
def splitLo (v : FVal) : FVal := fDecode fBF16 (fRound fBF16 false .rne (fAdd v (fNeg (splitHi v))))

/-- Density of an array operand format (R254). -/
def density (fmt : Nat) : Nat := if fmt ≤ 2 then 1 else if fmt = 9 then 4 else 2

/-- Columns of the array (R263). -/
def arrayCols (s : State) : Nat := if s.part.hz7134 then 512 else 1024
/-- Slices (R282). -/
def nSlices (s : State) : Nat := if s.part.hz7134 then 8 else 16

/-! ## ARRAY (R257) -/

/-- P-address and format of a descriptor word. -/
def cpa (l : Line) (i : Nat) : Nat := cbits l i 27 0
def cfm (l : Line) (i : Nat) : Nat := cbits l i 31 28

def aM (l : Line) : Nat := cbits l 48 23 0
def aN (l : Line) : Nat := cbits l 52 23 0
def aK (l : Line) : Nat := cbits l 56 23 0
def aMT (l : Line) : Nat := cbits l 60 10 0
def aKP (l : Line) : Nat := cbits l 62 1 0
def aFmt (l : Line) : Nat := cfm l 16
def bFmt (l : Line) : Nat := cfm l 20
def cFmt (l : Line) : Nat := cfm l 24
/-- The addend D, the bias and stochastic rounding are in use. -/
def aDEn (l : Line) : Bool := cbit l 63 2
def aBiasEn (l : Line) : Bool := cbit l 63 3
def aStoch (l : Line) : Bool := cbit l 63 4

/-- Rows and columns of the grid of output tiles. -/
def tileRows (l : Line) : Nat := (aM l + aMT l - 1) / aMT l
def tileCols (s : State) (l : Line) : Nat := (aN l + arrayCols s - 1) / arrayCols s
/-- Output tiles of an operation, in row-major order (R258). -/
def nTiles (s : State) (l : Line) : Nat := tileRows l * tileCols s l
/-- Elements of K that one pass covers. -/
def passK (l : Line) : Nat := 512 * density (aFmt l)
/-- Passes of an output tile: FP32 takes three for each block of K (R254, R255). -/
def nPasses (l : Line) : Nat := (aK l + passK l - 1) / passK l * (if aFmt l = 0 then 3 else 1)
/-- Rows and columns of output tile `t`, as first and count. -/
def rowsOfTile (s : State) (l : Line) (t : Nat) : Nat × Nat :=
  let r := t / tileCols s l * aMT l
  (r, min (aMT l) (aM l - r))
def colsOfTile (s : State) (l : Line) (t : Nat) : Nat × Nat :=
  let c := t % tileCols s l * arrayCols s
  (c, min (arrayCols s) (aN l - c))
/-- Elements of K of pass `p`, as first and count. -/
def ksOfPass (l : Line) (p : Nat) : Nat × Nat :=
  let k := (if aFmt l = 0 then p / 3 else p) * passK l
  (k, min (passK l) (aK l - k))

/-- Bit address of an element of A (M × K, or K × M) and of B (K × N, or N × K). -/
def aBit (l : Line) (i k : Nat) : Nat :=
  let (r, c) := if cbit l 63 0 then (k, i) else (i, k)
  (cpa l 16 + r * cpa l 32) * 8 + c * elemBits (aFmt l)
def bBit (l : Line) (k j : Nat) : Nat :=
  let (r, c) := if cbit l 63 1 then (j, k) else (k, j)
  (cpa l 20 + r * cpa l 36) * 8 + c * elemBits (bFmt l)

/-- Addresses of the E8M0 scales: row by row of the operand as it is stored, one per 32 elements along K (log entry 6). -/
def aScaleAt (l : Line) (i k : Nat) : Nat :=
  let nb := (aK l + 31) / 32
  cpa l 76 + (if cbit l 63 0 then k / 32 * aM l + i else i * nb + k / 32)
def bScaleAt (l : Line) (k j : Nat) : Nat :=
  let nb := (aK l + 31) / 32
  cpa l 80 + (if cbit l 63 1 then j * nb + k / 32 else k / 32 * aN l + j)

/-- The exact value of a raw element with its scale. -/
def exactElem (s : State) (fmt raw scaleAt : Nat) : FVal :=
  match elemFmt fmt with
  | some f => if isMx fmt then mxScaled (leNat (pRead s scaleAt 1)) (fDecode f raw) else fDecode f raw
  | none => .nan

/-- One FP32 product's two factors in pass `p`. -/
def factors (s : State) (l : Line) (p i j k : Nat) : FVal × FVal :=
  let a := exactElem s (aFmt l) (pElem s (aFmt l) (aBit l i k)) (aScaleAt l i k)
  let b := exactElem s (bFmt l) (pElem s (bFmt l) (bBit l k j)) (bScaleAt l k j)
  if aFmt l = 0 then
    (if p % 3 = 2 then splitLo a else splitHi a, if p % 3 = 1 then splitLo b else splitHi b)
  else (a, b)

/-- The partial sum of a pass for element (i, j): in ascending K order, each product added with one rounding (R255); modulo 2^32 for
INT8. -/
def passSum (s : State) (l : Line) (p i j : Nat) : Word :=
  let (k0, n) := ksOfPass l p
  (List.range n).foldl (fun acc dk =>
    let k := k0 + dk
    if aFmt l = 10 then
      let a := signed 1 (pElem s 10 (aBit l i k))
      let b := signed 1 (pElem s 10 (bBit l k j))
      BitVec.ofInt 32 (acc.toInt + a * b)
    else
      let (a, b) := factors s l p i j k
      hRes 20 acc (toF32 (fMul a b)) (fAdd (f32 acc) (fMul a b))) 0

/-- Place of an element in its bank. -/
def bankAt (di dj : Nat) : Nat := di * 1024 + dj

/-- A checked pass is added into the bank (R255, R259). -/
def addPass (s : State) (l : Line) (r : ArrayRun) : SMap Word :=
  let (i0, m) := rowsOfTile s l r.tile
  let (j0, n) := colsOfTile s l r.tile
  (List.range m).foldl (fun bank di => (List.range n).foldl (fun bank dj =>
    let x := passSum s l r.pass (i0 + di) (j0 + dj)
    let old := cget (0 : Word) bank (bankAt di dj)
    cset 0 bank (bankAt di dj) (if aFmt l = 10 then old + x else hAdd old x)) bank) r.bank

/-- The activation of R257. -/
def activate (act : Nat) (x : Word) : Word :=
  match act with
  | 1 => match f32 x with
    | .nan => someNan (Config.nan32 30 x 0)
    | v => if v.neg then 0 else x
  | 2 => Config.gelu32 x
  | 3 => Config.silu32 x
  | _ => x

/-- The epilogue's FP32 value for element (i, j) from its accumulator (R257). -/
def epilogueVal (s : State) (l : Line) (acc : Word) (i j : Nat) : Word :=
  let x := if aFmt l = 10 then toF32 (.fin (decide (acc.toInt < 0)) acc.toInt.natAbs 0) else acc
  let y := hMul (BitVec.ofNat 32 (cby l 64 4)) x
  let y := if aDEn l then
      let d := exactElem s (cfm l 28) (pElem s (cfm l 28) ((cpa l 28 + i * cpa l 44) * 8 + j * elemBits (cfm l 28))) 0
      hAdd y (hMul (BitVec.ofNat 32 (cby l 68 4)) (toF32 d))
    else y
  let y := if aBiasEn l then
      hAdd y (toF32 (exactElem s (cfm l 72) (pElem s (cfm l 72) (cpa l 72 * 8 + j * elemBits (cfm l 72))) 0))
    else y
  activate (cbits l 88 3 0) y

/-- Rounding of element (i, j): stochastic with key (SEED, 0) and counter (i, j, 0, 0), or nearest even. -/
def rndAt (stoch : Bool) (seed i j : Nat) : Rnd :=
  if stoch then .stoch (philox (BitVec.ofNat 32 seed) 0 (BitVec.ofNat 32 i) (BitVec.ofNat 32 j)) else .rne

/-- A finished output tile is written to C (R257, R258): MX blocks of 32 along N get a scale each. -/
def writeTile (s : State) (l : Line) (r : ArrayRun) : State :=
  let (i0, m) := rowsOfTile s l r.tile
  let (j0, n) := colsOfTile s l r.tile
  let fmt := cFmt l
  let src := s
  let s := forEach (List.range m) s fun s di =>
    let i := i0 + di
    let vals := (List.range n).map fun dj => epilogueVal src l (cget (0 : Word) r.bank (bankAt di dj)) i (j0 + dj)
    let put (s : State) (dj v : Nat) : State := pPutElem s fmt ((cpa l 24 + i * cpa l 40) * 8 + (j0 + dj) * elemBits fmt) v
    if isMx fmt then
      forEach (List.range ((n + 31) / 32)) s fun s b =>
        let blk := (vals.drop (32 * b)).take 32
        let sc := Config.mxScale fmt blk
        let s := pWrite s (cpa l 84 + i * ((aN l + 31) / 32) + (j0 / 32 + b)) [sc]
        forEach (List.range blk.length) s fun s k =>
          let x := (blk[k]?).getD 0
          let v := match f32 x with
            | .fin g mm e => FVal.fin g mm (e - (Int.ofNat sc.toNat - 127))
            | v => v
          let rnd := rndAt (aStoch l) (cby l 92 4) i (j0 + 32 * b + k)
          put s (32 * b + k) (match v with | .nan => castElem fmt rnd x | v => castTo fmt rnd v)
    else forEach (List.range n) s fun s dj =>
      put s dj (castElem fmt (rndAt (aStoch l) (cby l 92 4) i (j0 + dj)) ((vals[dj]?).getD 0))
  ev s 1724 ((m * n * elemBits fmt / 8 + 127) / 128)

/-- Byte range of a row-pitched matrix. -/
def matRange (base ld rows cols fmt : Nat) : Nat × Nat := (base, if rows = 0 then 0 else (rows - 1) * ld + (cols * elemBits fmt + 7) / 8)

/-- Input and output ranges of an ARRAY. -/
def arrayIns (l : Line) : List (Nat × Nat) :=
  let m := aM l; let n := aN l; let k := aK l; let kb := (k + 31) / 32
  [if cbit l 63 0 then matRange (cpa l 16) (cpa l 32) k m (aFmt l) else matRange (cpa l 16) (cpa l 32) m k (aFmt l),
   if cbit l 63 1 then matRange (cpa l 20) (cpa l 36) n k (bFmt l) else matRange (cpa l 20) (cpa l 36) k n (bFmt l)] ++
  (if aDEn l then [matRange (cpa l 28) (cpa l 44) m n (cfm l 28)] else []) ++
  (if aBiasEn l then [(cpa l 72, n * elemBits (cfm l 72) / 8)] else []) ++
  (if isMx (aFmt l) then [(cpa l 76, m * kb), (cpa l 80, n * kb)] else [])
def arrayOuts (l : Line) : List (Nat × Nat) :=
  matRange (cpa l 24) (cpa l 40) (aM l) (aN l) (cFmt l) ::
  (if isMx (cFmt l) then [(cpa l 84, aM l * ((aN l + 31) / 32))] else [])

/-- ARRAY may name C = D (R287): the inputs its output must not overlap. -/
def arrayClash (l : Line) : List (Nat × Nat) :=
  if aDEn l && cpa l 28 == cpa l 24 && cpa l 44 == cpa l 40 && cfm l 28 == cFmt l then
    (arrayIns l).filter fun r => r != matRange (cpa l 28) (cpa l 44) (aM l) (aN l) (cfm l 28)
  else arrayIns l

/-- A reserved value or combination of an ARRAY descriptor (R254, R257). -/
def arrayBad (l : Line) : Bool :=
  let a := aFmt l; let b := bFmt l; let c := cFmt l
  !(a == b && a ≤ 10 || (a == 3 || a == 4) && (b == 3 || b == 4) || isMx a && isMx b && density a == density b) ||
  !(c ≤ 6 || c == 9 || (c == 11 && a == 10)) || (aDEn l && 2 < cfm l 28) || (aBiasEn l && 1 < cfm l 72) ||
  aM l == 0 || aN l == 0 || aK l == 0 || aMT l == 0 || 1024 < aMT l || aKP l == 0 || aKP l == 3 || 3 < cbits l 88 3 0

/-! ## VECTOR (R265, R266) -/

/-- An input or output of a VECTOR: P-address, format, stride. -/
structure VPort where
  paddr : Nat
  fmt : Nat
  stride : Int
  deriving DecidableEq, Repr

/-- The port at byte `i`; format 15 marks it unused. -/
def vPort (l : Line) (i : Nat) : VPort := ⟨cpa l i, cfm l i, cint l (i + 4)⟩
def vCount (l : Line) : Nat := cby l 16 4
def vIns (l : Line) : List VPort := [vPort l 20, vPort l 28, vPort l 36, vPort l 44]
def vOut0 (l : Line) : VPort := vPort l 52
def vOut1 (l : Line) : VPort := vPort l 60
/-- The program: its operations up to the first End. -/
def vOps (l : Line) : List Nat := ((List.range 8).map fun k => cby l (68 + 4 * k) 4).takeWhile fun o => bits o 4 0 != 0

/-- Bit address of element `n` of a port. -/
def VPort.at (p : VPort) (n : Nat) : Nat := (Int.ofNat (p.paddr * 8) + Int.ofNat n * p.stride * Int.ofNat (elemBits p.fmt)).toNat

/-- Lowest byte and length of a port's range; none when it goes below zero. -/
def VPort.range (p : VPort) (count : Nat) : Option (Nat × Nat) :=
  if p.fmt = 15 || count = 0 then some (p.paddr, 0)
  else
    let far := Int.ofNat (p.paddr * 8) + Int.ofNat (count - 1) * p.stride * Int.ofNat (elemBits p.fmt)
    let lo := min (Int.ofNat (p.paddr * 8)) far
    let hi := max (Int.ofNat (p.paddr * 8)) far + Int.ofNat (elemBits p.fmt)
    if lo < 0 then none else some (lo.toNat / 8, (hi.toNat + 7) / 8 - lo.toNat / 8)

/-- Element `n` of an input as FP32 (converted exactly). -/
def vLoad (s : State) (p : VPort) (n : Nat) : Word :=
  let raw := pElem s p.fmt (p.at n)
  if p.fmt = 0 then BitVec.ofNat 32 raw
  else if p.fmt = 10 then toF32 (.fin (decide (128 ≤ raw)) (signed 1 raw).natAbs 0)
  else match exactElem s p.fmt raw 0 with
    | .nan => someNan (Config.nan32 40 (BitVec.ofNat 32 raw) 0)
    | v => toF32 v

/-- A source of an operation: a temporary or a constant. -/
def vSrc (l : Line) (t : Vector Word 8) (i : Nat) : Word :=
  if i < 8 then vget 0 t i else BitVec.ofNat 32 (cby l (100 + 4 * (i - 8)) 4)

/-- MAX or MIN of R266, with a free NaN. -/
def hMaxMin (mx : Bool) (a b : Word) : Word :=
  match f32 a, f32 b with
  | .nan, _ | _, .nan => someNan (Config.nan32 (if mx then 10 else 11) a b)
  | x, y => if mx then (if fLess x y then b else a) else if fLess y x then b else a

/-- One operation on one element; reductions change no temporary. -/
def vOp (l : Line) (t : Vector Word 8) (o : Nat) : Vector Word 8 :=
  let a := vSrc l t (bits o 11 8)
  let b := vSrc l t (bits o 15 12)
  let c := vSrc l t (bits o 19 16)
  let put (w : Word) : Vector Word 8 := vset t (bits o 7 5) w
  match bits o 4 0 with
  | 1 => put (hAdd a b)
  | 2 => put (hRes 2 a b (fAdd (f32 a) (fNeg (f32 b))))
  | 3 => put (hMul a b)
  | 4 => put (hRes 4 a (hRes 44 b c (fMul (f32 b) (f32 c))) (fAdd (fMul (f32 a) (f32 b)) (f32 c)))
  | 5 => put (hRes 5 a b (fDiv (f32 a) (f32 b)))
  | 6 => put (hRes 6 a 0 (fSqrt (f32 a)))
  | 7 => put (Config.rsqrt32 a)
  | 8 => put (Config.exp32 a)
  | 9 => put (Config.log32 a)
  | 10 => put (hMaxMin true a b)
  | 11 => put (hMaxMin false a b)
  | 12 => put (a &&& 0x7FFFFFFF)
  | 13 => put (if fLess (.fin false 0 0) (f32 a) then b else c)
  | 17 => put (match f32 a with
    | .nan => someNan (Config.nan32 17 a 0)
    | v => toF32 (fDecode fBF16 (fRound fBF16 false .rne v)))
  | _ => t

/-- The temporaries before an element's program: inputs in T0-T3; the others hold what the manual leaves open. -/
def vStart (s : State) (l : Line) (n : Nat) : Vector Word 8 :=
  (List.range 4).foldl (fun t k =>
    let p := (vIns l)[k]?.getD ⟨0, 15, 0⟩
    if p.fmt = 15 then t else vset t k (vLoad s p n))
    (Vector.ofFn fun (k : Fin 8) => Config.nan32 (200 + k.val) (BitVec.ofNat 32 n) (BitVec.ofNat 32 s.freeIdx))

/-- The temporaries of an element after the first `k` operations. -/
def vAfter (s : State) (l : Line) (n k : Nat) : Vector Word 8 := ((vOps l).take k).foldl (vOp l) (vStart s l n)

/-- A reduction's result (R266) over the values it sees: the sums' fixed tree is open, the maximum is not. -/
def vReduce (op : Nat) (xs : List Word) : Word :=
  if op = 16 then (match xs with | [] => 0 | x :: rest => rest.foldl (hMaxMin true) x)
  else match xs with
    | [] => 0
    | [x] => if op = 15 then hMul x x else x
    | xs => Config.redSum (op == 15) xs

/-- Write one output of a VECTOR. -/
def vStore (s : State) (l : Line) (o : Nat) (p : VPort) (vals : List Word) : State :=
  if p.fmt = 15 then s
  else
    let stoch := cbit l 120 0
    let rnd (n : Nat) : Rnd := rndAt stoch (cby l 124 4) n o
    if isMx p.fmt then
      forEach (List.range ((vals.length + 31) / 32)) s fun s b =>
        let blk := (vals.drop (32 * b)).take 32
        let sc := Config.mxScale p.fmt blk
        forEach (List.range blk.length) (pWrite s ((vOut1 l).paddr + b) [sc]) fun s k =>
          let x := (blk[k]?).getD 0
          let v := match f32 x with
            | .fin g mm e => FVal.fin g mm (e - (Int.ofNat sc.toNat - 127))
            | v => v
          pPutElem s p.fmt (p.at (32 * b + k))
            (match v with | .nan => castElem p.fmt (rnd (32 * b + k)) x | v => castTo p.fmt (rnd (32 * b + k)) v)
    else forEach (List.range vals.length) s fun s n => pPutElem s p.fmt (p.at n) (castElem p.fmt (rnd n) ((vals[n]?).getD 0))

/-- Reduction operations of a program: their place and number. -/
def vReds (l : Line) : List (Nat × Nat) :=
  ((vOps l).mapIdx fun k o => (k, bits o 4 0)).filter fun e => 14 ≤ e.2 && e.2 ≤ 16

/-- OUT0 is in an MX format: OUT1's P-address takes its scales. -/
def vMx (l : Line) : Bool := isMx (vOut0 l).fmt

/-- Run a VECTOR (R265): every element's program, the outputs, the reductions' results. -/
def runVector (s : State) (l : Line) : State :=
  let cnt := vCount l
  let k := (vOps l).length
  let src := s
  let ends := (List.range cnt).map fun n => vAfter src l n k
  let reds := (vReds l).map fun (at_, op) => vReduce op ((List.range cnt).map fun n =>
    vSrc l (vAfter src l n at_) (bits (((vOps l)[at_]?).getD 0) 11 8))
  let s := vStore s l 0 (vOut0 l) (ends.map fun t => vget 0 t 6)
  let s := if vMx l then s else vStore s l 1 (vOut1 l) (ends.map fun t => vget 0 t 7)
  let s := forEach (List.range reds.length) s fun s i => pWrite s (cpa l 116 + 4 * i) (leBytes 4 ((reds[i]?).getD 0).toNat)
  let used := (vIns l ++ [vOut0 l, vOut1 l]).filter fun p => p.fmt != 15
  let traffic := (used.map fun p => (cnt * elemBits p.fmt / 8 + 127) / 128).sum
  ev (ev (ev (takeFree s) 1720 1) 1721 ((cnt + 4095) / 4096 * k)) 1722 traffic

/-- Ranges a VECTOR reads and writes; none when one lies below zero. -/
def vRanges (l : Line) : Option (List (Nat × Nat) × List (Nat × Nat)) :=
  let cnt := vCount l
  let outs := if vMx l then [vOut0 l] else [vOut0 l, vOut1 l]
  match (vIns l).mapM (fun p => p.range cnt), outs.mapM (fun p => p.range cnt) with
  | some i, some o => some (i, o ++ (if vMx l then [((vOut1 l).paddr, (cnt + 31) / 32)] else []) ++ [(cpa l 116, 4 * (vReds l).length)])
  | _, _ => none

/-- Input ranges an output must not overlap: an output may be exactly an input (R287). -/
def vClash (l : Line) (o : VPort) : List (Nat × Nat) := ((vIns l).filter fun p => p.fmt != 15 && p != o).filterMap fun p => p.range (vCount l)

/-- Undefined bytes where a VECTOR's outputs overlap its inputs (R287). -/
def vSpoil (s : State) (l : Line) : State :=
  let one (s : State) (o : VPort) : State :=
    if o.fmt = 15 then s else match o.range (vCount l) with
      | some r => spoilOverlap s [r] (vClash l o)
      | none => s
  let s := one s (vOut0 l)
  let s := if vMx l then spoilOverlap s [((vOut1 l).paddr, (vCount l + 31) / 32)] (vClash l ⟨0, 15, 0⟩) else one s (vOut1 l)
  spoilOverlap s [(cpa l 116, 4 * (vReds l).length)] (vClash l ⟨0, 15, 0⟩)

/-- A reserved value or combination of a VECTOR (R265, R266). -/
def vectorBad (l : Line) : Bool :=
  let inOk (f : Nat) : Bool := f ≤ 4 || f == 10 || f == 15
  !((vIns l).all fun p => inOk p.fmt) || !(inOk (vOut1 l).fmt) ||
  !(inOk (vOut0 l).fmt || (isMx (vOut0 l).fmt && (vOut1 l).fmt == 15)) ||
  (vOps l).any fun o => 17 < bits o 4 0 || 11 < bits o 11 8 || 11 < bits o 15 12 || 11 < bits o 19 16

end Sys2Proof.Machine
end

