-- ==== Sys2Proof/Machine/Hall.lean ====
section
/-! DEFINITION. The Hall (chapters 9 and 10): contexts, their commands and the checks of R281, translation (R272-R276), DMA (R268-R271),
the Cupboard as a cache (R271), the array's schedule (R258-R263) and its slot accounting (R282), order (R288-R296). -/

namespace Sys2Proof.Machine

/-! ## Contexts -/

/-- The Hall's EPC (R270). -/
def hallEpc (s : State) : Epc := myEpc s 9
/-- A context beside its registers. -/
def hctx (s : State) (c : Nat) : HallCtx := cget {} s.hall.ctxs c
/-- Change a context. -/
def setHctx (s : State) (c : Nat) (x : HallCtx) : State := { s with hall := { s.hall with ctxs := cset {} s.hall.ctxs c x } }
/-- STATE: 0 idle, 1 running, 2 waiting, 3 halted, 4 stopping. -/
def ctxState (s : State) (c : Nat) : Nat := fldOf s (HAL_CTX_STATUS c) 2 0
/-- Set STATE; the time with STATE 2 is event 1800 + 4c + 2. -/
def setCtxState (s : State) (c v : Nat) : State :=
  let s := if ctxState s c = 2 && v != 2 then ev s (1800 + 4 * c + 2) (s.now - (hctx s c).since) else s
  let s := if v = 2 && ctxState s c != 2 then setHctx s c { hctx s c with since := s.now } else s
  setFld s (HAL_CTX_STATUS c) 2 0 v
/-- PRIORITY of a context (R247). -/
def ctxPrio (s : State) (c : Nat) : Nat := fldOf s (HAL_CTX_CFG c) 9 8
/-- The absolute semaphore of a context's index. -/
def ctxSem (s : State) (c k : Nat) : Nat := (fldOf s (HAL_CTX_CFG c) 23 16 + k) % 256
/-- A semaphore index is within SEM_COUNT. -/
def semOk (s : State) (c k : Nat) : Bool := decide (k < fldOf s (HAL_CTX_CFG c) 31 24)
/-- Bytes [a, a + n) lie in the context's Pantry window (R247, R257). -/
def inWindow (s : State) (c a n : Nat) : Bool :=
  let w := rd s (HAL_CTX_PANTRY c)
  n == 0 || (decide (bits w 11 0 * 65536 ≤ a) && decide (a + n ≤ (bits w 11 0 + bits w 23 12) * 65536) && decide (a + n ≤ 0xB400000))
/-- C-slots [a, a + n) lie in the context's range. -/
def inCup (s : State) (c a n : Nat) : Bool :=
  let b := fldOf s (HAL_CTX_CUP_BASE c) 17 0
  n == 0 || (decide (b ≤ a) && decide (a + n ≤ b + fldOf s (HAL_CTX_CUP_SIZE c) 18 0) && decide (a + n ≤ 262144))

/-- The Hall can work: it is up, its clock runs, and it is not shed (R283, R421, R431). -/
def hallOn (s : State) : Bool := bitOf s HAL_STATUS 0 && !(bitOf s PWR_STATUS 7) && pwrState s == 0
/-- The array takes new tiles: not while the hardware throttle stops it (R429). -/
def arrayOn (s : State) : Bool := hallOn s && !(bitOf s PWR_STATUS 6)

/-! ## Command fields (R250, R268) -/

def cOp (l : Line) : Nat := cby l 0 1
def cAcquire (l : Line) : Bool := cbit l 1 0
def cRelease (l : Line) : Bool := cbit l 1 1
def cScope (l : Line) : Nat := cbits l 1 4 2
def dKind (l : Line) : Nat := cbits l 16 3 0
def dVol (l : Line) : Bool := cbit l 16 4
def dFlagLast (l : Line) : Bool := cbit l 16 5
def dStream (l : Line) : Bool := cbit l 16 6
def dUrgent (l : Line) : Bool := cbit l 16 7
def dChannel (l : Line) : Nat := cbits l 17 3 0
def dAop (l : Line) : Nat := cbits l 18 3 0
def dAsize (l : Line) : Nat := cbits l 18 7 4
def dSlot (l : Line) : Nat := cbits l 80 17 0
def dResult (l : Line) : Nat := cbits l 84 27 0
/-- Repetitions of dimension 0 (in 128-byte lines) to 3. -/
def dCount (l : Line) (k : Nat) : Nat := if k = 0 then cby l 36 4 / 128 else cby l (36 + 4 * k) 4
/-- Signed stride of dimension 1-3, at the source or the destination. -/
def dStride (l : Line) (dst : Bool) (k : Nat) : Int := cint l ((if dst then 60 else 48) + 4 * k)
/-- Lines of the descriptor's traversal. -/
def dLines (l : Line) : Nat := dCount l 0 * dCount l 1 * dCount l 2 * dCount l 3
/-- Byte address of line `n` of the traversal, COUNT0 first. -/
def dAddr (l : Line) (dst : Bool) (n : Nat) : Int :=
  let i0 := n % dCount l 0
  let i1 := n / dCount l 0 % dCount l 1
  let i2 := n / (dCount l 0 * dCount l 1) % dCount l 2
  let i3 := n / (dCount l 0 * dCount l 1 * dCount l 2)
  Int.ofNat (cby l (if dst then 28 else 20) 8 + 128 * i0) + dStride l dst 1 * Int.ofNat i1 + dStride l dst 2 * Int.ofNat i2 +
    dStride l dst 3 * Int.ofNat i3
/-- Lowest and highest line address of a traversal. -/
def dSpan (l : Line) (dst : Bool) : Int × Int :=
  let base : Int := Int.ofNat (cby l (if dst then 28 else 20) 8)
  [1, 2, 3].foldl (fun (lo, hi) k =>
    let d := dStride l dst k * Int.ofNat (dCount l k - 1)
    (lo + min 0 d, hi + max 0 d)) (base, base + Int.ofNat (128 * (dCount l 0 - 1)))
/-- The whole traversal lies in the context's Pantry window. -/
def dInWindow (s : State) (c : Nat) (l : Line) (dst : Bool) : Bool :=
  let (lo, hi) := dSpan l dst
  dLines l == 0 || (decide (0 ≤ lo) && inWindow s c lo.toNat (hi.toNat + 128 - lo.toNat))
/-- Every line of a traversal begins at a multiple of `m`. -/
def dAligned (l : Line) (dst : Bool) (m : Nat) : Bool :=
  cby l (if dst then 28 else 20) 8 % m == 0 && [1, 2, 3].all fun k => dCount l k ≤ 1 || dStride l dst k % Int.ofNat m == 0

/-- The instance that executes a command of a context (R248, R284). -/
def instOf (c : Nat) (l : Line) : HInst :=
  if cOp l = 1 then .array else if cOp l = 2 then .vector else if cOp l = 3 then .dma (Fin.ofNat 16 (dChannel l))
  else .core (Fin.ofNat 2 (c % 2))

/-! ## Checks at dispatch (R281) -/

/-- A reserved value or combination of a DMA descriptor (R268). -/
def dmaBad (l : Line) : Bool :=
  let k := dKind l
  let memSrc := k == 0 || k == 3 || k == 4
  let memDst := k == 1
  cby l 36 4 % 128 != 0 || cby l 76 4 % 128 != 0 || (dUrgent l && dStream l) ||
  (memSrc && !(dAligned l false 128)) || (memDst && !(dAligned l true 128)) ||
  (k == 0 && !(dAligned l true 128)) || ((k == 1 || k == 7) && !(dAligned l false 128)) || (k == 6 && !(dAligned l true 128)) ||
  (k == 2 && !(dAligned l false 32 && dAligned l true 32)) ||
  (k == 8 && (atomicBad (dAop l) (dAsize l) || cby l 28 8 % asizeBytes (dAsize l) != 0))

/-- P-address ranges of a DMA command lie in the window. -/
def dmaWindow (s : State) (c : Nat) (l : Line) : Bool :=
  match dKind l with
  | 0 | 6 => dInWindow s c l true
  | 1 | 7 => dInWindow s c l false
  | 2 => dInWindow s c l true && dInWindow s c l false
  | 8 => inWindow s c (cby l 20 8) (2 * asizeBytes (dAsize l)) && inWindow s c (dResult l) (asizeBytes (dAsize l))
  | _ => true

/-- Number of C-slots a command names. -/
def dmaSlots (l : Line) : Nat :=
  match dKind l with
  | 3 | 4 | 5 | 6 | 7 => dLines l
  | 8 => 1
  | _ => 0

/-- The error a command ends with at its dispatch; 0 for none (R281). -/
def dispatchErr (s : State) (c : Nat) (l : Line) : Nat :=
  let win (rs : List (Nat × Nat)) : Bool := rs.all fun r => inWindow s c r.1 r.2
  if 4 < cScope l then 2
  else if cbit l 9 0 && !(semOk s c (cby l 8 1)) then 4
  else match cOp l with
    | 1 => if arrayBad l then 2 else if win (arrayIns l ++ arrayOuts l) then 0 else 3
    | 2 => if vectorBad l then 2 else match vRanges l with
      | some (i, o) => if win (i ++ o) then 0 else 3
      | none => 3
    | 3 => if dmaBad l then 2
      else if !(bitOf s (HAL_CTX_DMA c) (dChannel l)) || !(inCup s c (dSlot l) (dmaSlots l)) then 5
      else if dmaWindow s c l then 0 else 3
    | 5 => if inWindow s c (cbits l 16 27 0) 16 then 0 else 3
    | 6 => if cby l 16 2 = 0 || 64 < cby l 16 2 then 2 else 0
    | _ => 0

/-- WAIT is satisfied (R250): ((semaphore − WAIT_VAL) mod 2^32) < 2^31. -/
def waitOk (s : State) (c : Nat) (l : Line) : Bool :=
  !(cbit l 3 0) || decide ((rd s (HAL_SEM (ctxSem s c (cby l 2 1))) + 2 ^ 32 - cby l 4 4) % 2 ^ 32 < 2 ^ 31)

/-! ## Halting (R279) -/

/-- The context halts at its first failing command: STATE 3, ERR, CTX_ERR_VA, HAL_ERR, and HALL_CMD_ERR at most once per context per 1 s.
A change that waits for STATE 0 performs STOP again (R283). -/
def haltCtx (s : State) (c err va : Nat) : State :=
  if ctxState s c = 3 then s
  else
    let s := setHctx s c { hctx s c with fetched := none, fetching := none }
    let s := setCtxState s c (if (hctx s c).pendingCfg = [] then 3 else 4)
    let s := wr64 (setFld s (HAL_CTX_STATUS c) 11 8 err) (HAL_CTX_ERR_VA c) (va % 2 ^ 48)
    let s := ev (halErr s 0) (1800 + 4 * c + 3) 1
    let key := 0x05020000 + c
    if onceSince s key 1000000000 then
      fault (noteSince s key) 0x0502 2 4 (hallEpc s) (det [(16, 1, c), (17, 1, err)])
    else s

/-! ## Commands of a context -/

/-- Replace a dispatched command. -/
def setCmd (s : State) (c : Nat) (k : HCmd) : State :=
  setHctx s c { hctx s c with cmds := (hctx s c).cmds.map fun x => if x.id = k.id then k else x }
/-- A dispatched command by its number. -/
def findCmd (s : State) (c id : Nat) : Option HCmd := (hctx s c).cmds.find? fun k => k.id == id
/-- SIGNAL, FENCE, LOOP or END: while one is not completed the core dispatches no later command (R291, R296). -/
def blocksCore (k : HCmd) : Bool := cOp k.body == 4 || cOp k.body == 5 || cOp k.body == 6 || cOp k.body == 8
/-- A STORE. -/
def isStoreCmd (l : Line) : Bool := cOp l == 3 && dKind l == 1

/-- A command has completed or ended with an error (R251, R269, R275). -/
def cmdFinished (s : State) (c : Nat) (k : HCmd) : Bool :=
  k.started &&
  (if cOp k.body = 3 then k.fullyIssued && k.waiting == 0
   else if cOp k.body = 7 then !(s.hall.walks.any fun w => w.ctx == c && w.stale)
   else k.finished)

/-- The release point of an earlier command for a scope (R291); a command that has completed is no longer listed. -/
def releasePoint (scope : Nat) (k : HCmd) : Bool :=
  isStoreCmd k.body && (dStream k.body || (!(dUrgent k.body) && decide (scope ≤ 1) && k.fullyIssued))

/-- Every earlier command has reached its release point for this command (R291). -/
def released (earlier : List HCmd) (k : HCmd) : Bool :=
  !(cRelease k.body) || earlier.all fun e => (cScope k.body == 0 && e.inst != k.inst) || releasePoint (cScope k.body) e

/-- No earlier acquire holds this command back (R292). -/
def acquired (earlier : List HCmd) (k : HCmd) : Bool :=
  earlier.all fun e => !(cAcquire e.body) || (cScope e.body == 0 && e.inst != k.inst)

/-- Commands on one instance start in dispatch order (R249). -/
def inTurn (earlier : List HCmd) (k : HCmd) : Bool := earlier.all fun e => e.inst != k.inst || e.started

/-! ## Translation (R272-R276) -/

/-- What a virtual address translates to: home EPC, offset and entry; nothing cached; or a fault. -/
inductive Xlate where
  | hit (epc : Epc) (off : Nat) (pte : BitVec 128)
  | miss
  | fault
  deriving DecidableEq, Repr

/-- A walk's result passed to what waited for it: the 64 MiB page, and the entry with its page size, or none for a fault. -/
abbrev WalkResult := Nat × Option (Bool × BitVec 128)

/-- The rights of an entry cover what is needed. -/
def pteRights (pte : BitVec 128) (r w : Bool) : Bool := (!r || bit pte.toNat 2) && (!w || bit pte.toNat 3)

/-- A page's entry applied to an address (R273). -/
def pteHit (big : Bool) (pte : BitVec 128) (va : Nat) (r w : Bool) : Xlate :=
  if pteRights pte r w then
    .hit (BitVec.ofNat 24 (bits pte.toNat 63 40))
      (if big then bits pte.toNat 39 32 * 2 ^ 32 + va % 2 ^ 32 else bits pte.toNat 39 26 * 2 ^ 26 + va % 2 ^ 26) pte
  else .fault

/-- Translate an address of a context: a finished walk's result first, then the cached translations. -/
def xlate (s : State) (c va : Nat) (r w : Bool) (res : Option WalkResult) : Xlate :=
  let cached : Xlate :=
    match s.hall.tlb.find? fun t => t.ctx == c && t.vaPage == (if t.big then va / 2 ^ 32 else va / 2 ^ 26) with
    | some t => pteHit t.big t.pte va r w
    | none => .miss
  match res with
  | some (page, out) =>
    if page = va / 2 ^ 26 then (match out with | some (big, pte) => pteHit big pte va r w | none => .fault) else cached
  | none => cached

/-- A request of the Hall (R270): PARTITION of the context, key of the translation, JOB of HAL_CTX_JOB and its encryption. -/
def hallPkt (s : State) (c : Nat) (op : Byte) (cls : Nat) (dest : Epc) (off key asize aop : Nat) (payload : List Byte) : Packet :=
  let j := rd s (HAL_CTX_JOB c)
  { mkPkt op cls dest (hallEpc s) (opfM off asize aop 0 0) payload with
    partition := BitVec.ofNat 8 (fldOf s (HAL_CTX_CFG c) 7 0), job := BitVec.ofNat 16 (bits j 15 0),
    regionKey := BitVec.ofNat 32 key, enc := bit j 20, ext := BitVec.ofNat 128 (bits j 19 16) }

/-- Read a table entry's line (R272, R274), with the key of the region it lies in (log entry 21). -/
def walkRead (s : State) (c va level addr : Nat) : State :=
  let p := hallPkt s c opREAD 1 (myEpc s 1) (addr / 128 * 128) (regionKeyAt s addr).toNat 0 0 []
  issue s { p with enc := false } (.walk c (BitVec.ofNat 48 va) level) none

/-- Where the level-1 entry of an address lies. -/
def level1At (s : State) (c va : Nat) : Nat := (fldOf s (HAL_CTX_PT_BASE c) 31 20 + fldOf s (HAL_CTX_PT_BASE c + 4) 7 0 * 4096) * 2 ^ 20 +
  16 * (va / 2 ^ 32)

/-- Start a walk for an address unless one of its page is under way. -/
def startWalk (s : State) (c va : Nat) : State :=
  let s := ev s 1726 1
  if s.hall.walks.any fun w => w.ctx == c && w.va.toNat / 2 ^ 26 == va / 2 ^ 26 && !w.stale then s
  else
    let w : Walk := { ctx := c, va := BitVec.ofNat 48 va, level := 1, pte := none, stale := false }
    walkRead (ev { s with hall := { s.hall with walks := s.hall.walks ++ [w] } } 1727 1) c va 1 (level1At s c va)

/-- Change the walk of an address that is at a level. -/
def setWalk (s : State) (c va level : Nat) (f : Walk → Walk) : State :=
  { s with hall := { s.hall with walks := s.hall.walks.map fun w =>
    if w.ctx = c && w.va.toNat == va && w.level == level && w.pte == none then f w else w } }

/-- A table read has been answered: a pointer leads to level 2; any other entry ends the walk, a failed read as an entry that is not
VALID (log entry 21). -/
def walkData (s : State) (c va level status : Nat) (data : List Byte) : State :=
  let addr2 (pte : Nat) : Nat := bits pte 39 10 * 1024 + 16 * (va / 2 ^ 26 % 64)
  match s.hall.walks.find? fun w => w.ctx == c && w.va.toNat == va && w.level == level && w.pte == none with
  | none => s
  | some _ =>
    if status ≠ stOK then setWalk s c va level fun w => { w with pte := some 0 }
    else
      let at_ := if level = 1 then level1At s c va % 128 else 16 * (va / 2 ^ 26 % 64) % 128
      let pte := leAt data at_ 16
      if level = 1 && bit pte 0 && !(bit pte 1) then
        walkRead (setWalk s c va level fun w => { w with level := 2 }) c va 2 (addr2 pte)
      else setWalk s c va level fun w => { w with pte := some (BitVec.ofNat 128 pte) }

/-! ## The Cupboard (R271) -/

/-- A C-slot. -/
def cupSlot (s : State) (k : Nat) : CacheLine := cget {} s.hall.cup k
/-- Change a C-slot. -/
def setCup (s : State) (k : Nat) (l : CacheLine) : State := { s with hall := { s.hall with cup := cset {} s.hall.cup k l } }
/-- A slot is in I and free of any request or announcement. -/
def slotFree (l : CacheLine) : Bool := l.state == 0 && !l.evicting && !l.requested
/-- Some slot of the Hall holds, requests or is giving up the line. -/
def lineInCup (s : State) (home : Epc) (off : Nat) : Bool :=
  s.hall.cup.any fun e => e.2.off.toNat == off && sameSeat e.2.home home && !(slotFree e.2)
/-- The slot that a C2 packet's line lies in. -/
def slotOfLine (s : State) (src : Epc) (off : Nat) : Option (Nat × CacheLine) :=
  (s.hall.cup.find? fun e => e.2.isFor src off && !(slotFree e.2))

/-! ## DMA (R268-R271) -/

/-- Note an error of a DMA command: no further line of it is issued. -/
def dmaErr (s : State) (c : Nat) (k : HCmd) (err : Nat) : State :=
  setCmd s c { k with err := if k.err = 0 then err else k.err, fullyIssued := true }

/-- One line of a DMA command is on its way, or done at once when it sends nothing to wait for. -/
def dmaIssued (s : State) (c id waits : Nat) : State :=
  match findCmd s c id with
  | some k => setCmd s c { k with issued := k.issued + 1, waiting := k.waiting + waits }
  | none => s

/-- Bytes of one line that COPY moves: a multiple of 128 at a time, from the source's traversal to the destination's. -/
def dmaCopyLine (s : State) (l : Line) (n : Nat) : State :=
  ev (pWrite s (dAddr l true n).toNat (pRead s (dAddr l false n).toNat 128)) 1723 2

/-- One line of a COPY, CUP_OUT or CUP_IN, which need no translation: an error, or the state with the line moved. -/
def localLine (s : State) (l : Line) (n : Nat) : Nat × State :=
  let k := dSlot l + n
  let x := cupSlot s k
  let here := x.state != 0 && !x.evicting
  match dKind l with
  | 6 => if here then (0, ev (pWrite s (dAddr l true n).toNat (lineBytes x.data)) 1723 1) else (9, s)
  | 7 =>
    if !here then (9, s)
    else if x.state = 2 || x.state = 3 then
      (0, ev (setCup s k { x with state := 3, data := bytesLine (pRead s (dAddr l false n).toNat 128) }) 1723 1)
    else (10, s)
  | _ => (0, dmaCopyLine s l n)

/-- The lines of a COPY, CUP_OUT or CUP_IN in order, up to the first that fails. -/
def localLines : Nat → State → Line → Nat → Nat × State
  | 0, s, _, _ => (0, s)
  | f + 1, s, l, n =>
    let (e, s) := localLine s l n
    if e = 0 then localLines f s l (n + 1) else (e, s)

/-- Old data of overlapping ranges of a COPY: its destination's bytes that are also source bytes are undefined (R287). -/
def copySpoil (s : State) (l : Line) : State :=
  if dKind l = 2 && 0 < dLines l then
    let r (dst : Bool) : Nat × Nat := let (lo, hi) := dSpan l dst; (lo.toNat, hi.toNat + 128 - lo.toNat)
    let meets := (List.range (dLines l)).any fun n => rangesMeet (dAddr l true n).toNat 128 (r false).1 (r false).2
    if meets then
      spoilOverlap s ((List.range (dLines l)).map fun n => ((dAddr l true n).toNat, 128))
        ((List.range (dLines l)).map fun n => ((dAddr l false n).toNat, 128))
    else s
  else s

/-- Send the GIVE or EVICT_NOTICE of one slot; a slot in I sends nothing and counts as given. -/
def giveLine (s : State) (c id slot n : Nat) : State :=
  let x := cupSlot s slot
  if x.state = 0 || x.evicting then dmaIssued s c id 0
  else
    let s := setCup s slot { x with evicting := true }
    let s := issue s (givePkt (hallEpc s) x) (.dma c id n) none
    ev (dmaIssued s c id 1) 1731 1

/-- Issue one line of a DMA command that reaches memory: none when it must wait for a walk. -/
def dmaLine (s : State) (c : Nat) (k : HCmd) (res : Option WalkResult) : Option State :=
  let l := k.body
  let n := k.issued
  let kind := dKind l
  let last := decide (n + 1 = dLines l)
  if kind = 5 then some (giveLine s c k.id (dSlot l + n) n)
  else
    let va := (if kind = 8 then Int.ofNat (cby l 28 8) else dAddr l (kind == 1) n).toNat % 2 ^ 48
    let w := kind == 1 || kind == 4 || kind == 8
    match xlate s c va (kind != 1) w res with
    | .miss => none
    | .fault => some (dmaErr s c k 6)
    | .hit epc off pte =>
      let key := bits pte.toNat 95 64
      if kind = 0 then
        let vol := dVol l || bit pte.toNat 4 || dUrgent l || (cAcquire l && 2 ≤ cScope l)
        let p := hallPkt s c (if vol then opREAD_VOL else opREAD) (if dUrgent l then 0 else 1) epc off key 0 0 []
        some (ev (dmaIssued (issue s p (.dma c k.id n) none) c k.id 1) 1728 1)
      else if kind = 1 then
        let data := pRead s (dAddr l false n).toNat 128
        let s := ev (ev s 1729 1) 1723 1
        if dStream l then
          let p := { hallPkt s c opSTREAM_WRITE 5 epc off key 0 0 data with opf := opfS off }
          if p.enc then
            let x := sealPkt s { p with enc := false } (p.ext.toNat % 16)
            some (dmaIssued (sendPlain x.2 x.1 .hall) c k.id 0)
          else some (dmaIssued (sendPlain s p .hall) c k.id 0)
        else
          let p := { hallPkt s c opWRITE (if dUrgent l then 0 else 1) epc off key 0 0 data with flag := dFlagLast l && last }
          some (dmaIssued (issue s p (.dma c k.id n) none) c k.id 1)
      else
        let slot := dSlot l + (if kind = 8 then 0 else n)
        let line := off / 128 * 128
        if !(slotFree (cupSlot s slot)) || lineInCup s epc line then some (dmaErr s c k 8)
        else
          let p := if kind = 8 then hallPkt s c opATOMIC 1 epc off key (dAsize l) (dAop l) []
            else hallPkt s c (if kind = 3 then opTAKE_SHARED else opTAKE_EXCL) 1 epc off key 0 0 []
          let x : CacheLine := { home := epc, off := BitVec.ofNat 40 line, part := p.partition, key := p.regionKey, job := p.job,
                                 enc := if p.enc then some (BitVec.ofNat 4 p.ext.toNat) else none, requested := true }
          some (ev (dmaIssued (issue (setCup s slot x) p (.dma c k.id n) none) c k.id 1) 1730 1)

/-- Lines a DMA command issues. -/
def dmaTotal (l : Line) : Nat := if dKind l = 8 then 1 else dLines l

/-- Issue a DMA command's lines until the last, an error, or a translation that must be walked for. -/
def dmaLines : Nat → State → Nat → Nat → Option WalkResult → State
  | 0, s, _, _, _ => s
  | f + 1, s, c, id, res =>
    match findCmd s c id with
    | none => s
    | some k =>
      if k.fullyIssued then s
      else if dmaTotal k.body ≤ k.issued then setCmd s c { k with fullyIssued := true }
      else match dmaLine s c k res with
        | some s => dmaLines f s c id res
        | none => startWalk s c ((if dKind k.body = 8 then Int.ofNat (cby k.body 28 8) else dAddr k.body (dKind k.body == 1) k.issued).toNat
            % 2 ^ 48)

/-- Go on issuing a DMA command. -/
def runDma (s : State) (c id : Nat) (res : Option WalkResult) : State :=
  match findCmd s c id with
  | none => s
  | some k =>
    if cOp k.body ≠ 3 || !k.started then s
    else if dKind k.body = 2 || dKind k.body = 6 || dKind k.body = 7 then
      if k.fullyIssued then s
      else
        let (e, s) := localLines (dLines k.body) s k.body 0
        setCmd (copySpoil s k.body) c { k with fullyIssued := true, issued := dLines k.body, err := e }
    else dmaLines (dmaTotal k.body + 2) s c id res

/-! ## Answers to the Hall's requests -/

/-- A line of a DMA command was answered: one fewer awaited; a status other than OK is the command's ACCESS error, and the first one
fills HAL_CTX_ERR_DETAIL (R280). -/
def dmaAnswered (s : State) (c id va status : Nat) : State :=
  match findCmd s c id with
  | none => s
  | some k =>
    let k := { k with waiting := k.waiting - 1 }
    if status = stOK then setCmd s c k
    else
      let s := if k.err = 0 then wr64 s (HAL_CTX_ERR_DETAIL c) (va % 2 ^ 48 + status * 2 ^ 48) else s
      dmaErr s c k 7

/-- Virtual address of line `n` of a command. -/
def dmaVa (l : Line) (n : Nat) : Nat :=
  (if dKind l = 8 then Int.ofNat (cby l 28 8) else if dKind l = 5 then 0 else dAddr l (dKind l == 1) n).toNat % 2 ^ 48

/-- A grant or refusal of a slot's Take or ATOMIC (R205, R207, R221, R224): the line is installed, the ATOMIC applied and its old
value written to RESULT, COMP_ACK sent, held forwards answered. -/
def slotAnswered (s : State) (k : HCmd) (n : Nat) (r : OutReq) (p : Packet) : State :=
  let slot := dSlot k.body + (if dKind k.body = 8 then 0 else n)
  let x := { cupSlot s slot with requested := false }
  let self := hallEpc s
  if statusOf p = stOK && p.lstate != 0 then
    let x := { x with state := p.lstate, data := bytesLine (slice p.payload 0 128) }
    let (s, x) := if dKind k.body = 8 then
        let size := asizeBytes (dAsize k.body)
        let a := leNat (pRead s (cby k.body 20 8) size)
        let b := leNat (pRead s (cby k.body 20 8 + size) size)
        let (d, old) := lineAtomic x.data (r.pkt.offset % 128) (dAop k.body) size a b
        (pWrite s (dResult k.body) (leBytes size old), { x with state := 3, data := d })
      else (s, x)
    let s := sendCompAck s self r p
    let (s, x) := answerHeld s self x
    setCup s slot x
  else
    let (s, x) := answerHeld s self { x with state := 0 }
    setCup s slot (if x.state = 0 then {} else x)

/-- A GIVE or EVICT_NOTICE of the Cupboard was answered (R206, R347): one that completes UNREACHABLE is sent again to the twin of the
line's home, once. -/
def giveAnswered (s : State) (c id n slot : Nat) (r : OutReq) (status : Nat) : State :=
  let x := cupSlot s slot
  if status = stUNREACHABLE && sameSeat r.pkt.dest x.home then
    issue s { r.pkt with dest := twinOf r.pkt.dest, retx := false, opn := false } (.dma c id n) none
  else dmaAnswered (setCup s slot {}) c id 0 status

/-- A response to a DMA line (R269, R280). -/
def dmaData (s : State) (c id n : Nat) (r : OutReq) (p : Packet) : State :=
  match findCmd s c id with
  | none => s
  | some k =>
    let st := statusOf p
    match dKind k.body with
    | 0 =>
      let s := if st = stOK then ev (pWrite s (dAddr k.body true n).toNat (slice p.payload 0 128)) 1723 1 else s
      dmaAnswered s c id (dmaVa k.body n) st
    | 1 => dmaAnswered s c id (dmaVa k.body n) st
    | 5 => giveAnswered s c id n (dSlot k.body + n) r st
    | _ => dmaAnswered (slotAnswered s k n r p) c id (dmaVa k.body n) st

/-! ## The array (R258-R263, R282) -/

/-- Change the array's place. -/
def setHall (s : State) (h : Hall) : State := { s with hall := h }
/-- The command of an array operation. -/
def runCmd (s : State) (r : ArrayRun) : Option HCmd := findCmd s r.ctx r.id
/-- The descriptor of an array operation. -/
def runBody (s : State) (r : ArrayRun) : Line := match runCmd s r with | some k => k.body | none => 0

/-- HAL_STATUS follows the array: ARRAY_BUSY, ARRAY_CTX, ARRAY_PRIO and SPILLED. -/
def noteArray (s : State) : State :=
  let up := rd s HAL_STATUS % 2
  let who := match s.hall.run with | some r => some r | none => match s.hall.spilling with | some r => some r | none => s.hall.restoring
  let spilled := ((s.hall.spilled ++ s.hall.spilling.toList ++ s.hall.restoring.toList).map fun r => ctxPrio s r.ctx).foldl
    (fun m p => Nat.lor m (2 ^ (p - 1))) 0
  wr s HAL_STATUS (up + (match who with | some r => 2 + r.ctx * 4 + ctxPrio s r.ctx * 64 | none => 0) + spilled % 8 * 256)

/-- The Hall clock divisor (R428, R429). -/
def hallDivisor (s : State) : Nat := if bitOf s PWR_STATUS 6 then 8 else 2 ^ fldOf s PWR_MEASURES 1 0

/-- Count `n` array cycles whose slots all fall in Front-starved cause `k` (R282, R475). -/
def frontCycles (s : State) (k n : Nat) : State :=
  let slots := n * nSlices s
  ev (ev (ev (bump64 s HAL_SLOT_FRONT slots) 1706 slots) (1710 + k) slots) 1719 n

/-- Cycles since the last count; a clock-gated or shed array has none. -/
def arrayCycles (s : State) : Nat :=
  if hallOn s then (s.now - s.hall.slotAt) * 3 / (5 * hallDivisor s) else 0

/-- Count the cycles since the last count by what the array was doing: nothing ready 0, waiting within an operation 1, spill or restore 3,
both banks waiting for the epilogue. -/
def countGap (s : State) : State :=
  let n := arrayCycles s
  let s' := setHall s { s.hall with slotAt := s.now }
  if n = 0 then s'
  else if s.hall.spilling.isSome || s.hall.restoring.isSome then frontCycles s' 3 n
  else match s.hall.run with
    | none => frontCycles s' 0 n
    | some r =>
      if nPasses (runBody s r) ≤ r.pass then
        let slots := n * nSlices s
        ev (ev (bump64 s' HAL_SLOT_BACK slots) 1707 slots) 1719 n
      else frontCycles s' 1 n

/-- Count a pass at its end (R282): rows streamed by useful and useless slices, all Wasted when it failed, and the rest of its length
Front-starved. -/
def countPass (s : State) (r : ArrayRun) (ok : Bool) : State :=
  let l := runBody s r
  let (_, m) := rowsOfTile s l r.tile
  let (_, n) := colsOfTile s l r.tile
  let (_, k) := ksOfPass l r.pass
  let used := (n + 63) / 64
  let len := max m n
  let extra := arrayCycles s - len
  let s := setHall s { s.hall with slotAt := s.now }
  let retired := if ok then m * used else 0
  let wasted := m * nSlices s - retired
  let macs := if ok then m * n * k else 0
  let s := ev (bump64 s HAL_SLOT_RETIRED retired) 1704 retired
  let s := ev (bump64 s HAL_SLOT_WASTED wasted) 1705 wasted
  let s := ev (bump64 s HAL_MAC_USEFUL macs) 1708 macs
  let s := ev (ev s 1709 (32768 * density (aFmt l) * retired)) (1800 + 4 * r.ctx) retired
  let s := ev s 1724 ((m * k * elemBits (aFmt l) + k * n * elemBits (bFmt l) + 1023) / 1024)
  let s := if m < len then
      let slots := (len - m) * nSlices s
      ev (ev (bump64 s HAL_SLOT_FRONT slots) 1706 slots) 1712 slots
    else s
  let s := ev s 1719 len
  if extra = 0 then s else frontCycles s 1 extra

/-- The next operation each context offers the array: its first started ARRAY that has rows left to stream (R249). -/
def arrayOffers (s : State) : List (Nat × HCmd) :=
  (List.range 16).filterMap fun c =>
    ((hctx s c).cmds.find? fun k => k.inst == .array && k.started && !k.fullyIssued).map fun k => (c, k)

/-- Context `a` has used a smaller fraction of its share in this frame than context `b`. -/
def lessShare (s : State) (a b : Nat) : Bool :=
  decide ((hctx s a).shareUsed * fldOf s (HAL_CTX_SHARE b) 7 0 < (hctx s b).shareUsed * fldOf s (HAL_CTX_SHARE a) 7 0)

/-- Is this offer taken before that one (R260): priority, a spilled bank, share, context number? -/
def offerBefore (s : State) (a b : Nat × HCmd) : Bool :=
  let spilled (o : Nat × HCmd) : Bool := s.hall.spilled.any fun r => r.ctx == o.1 && r.id == o.2.id
  if ctxPrio s a.1 ≠ ctxPrio s b.1 then decide (ctxPrio s a.1 < ctxPrio s b.1)
  else if spilled a != spilled b then spilled a
  else if lessShare s a.1 b.1 then true
  else if lessShare s b.1 a.1 then false
  else decide (a.1 < b.1)

/-- The offer the array takes. -/
def bestOffer (s : State) : List (Nat × HCmd) → Option (Nat × HCmd)
  | [] => none
  | o :: os => match bestOffer s os with
    | some x => if offerBefore s o x then some o else some x
    | none => some o

/-- The duty cycle lets the array start a tile (R428): the array cycles used in this share frame are within DUTY/256 of those passed; a DUTY
of 0 stands for 256/256. -/
def dutyOk (s : State) : Bool :=
  let d := fldOf s PWR_MEASURES 9 2
  d == 0 || decide (((s.hall.ctxs.map fun e => e.2.shareUsed).sum) * 256 ≤ d * ((s.now - s.hall.frameAt) * 3 / (5 * hallDivisor s)))

/-- The free array takes the best operation: begun, resumed from its output-tile boundary, or restored first (R260). -/
def chooseOp (s : State) : State :=
  if !(arrayOn s) || !(dutyOk s) || s.hall.run.isSome || s.hall.spilling.isSome || s.hall.restoring.isSome then noteArray s
  else
    let s := countGap s
    match bestOffer s (arrayOffers s) with
    | none => noteArray s
    | some (c, k) =>
      let mine (r : ArrayRun) : Bool := r.ctx == c && r.id == k.id
      let h := s.hall
      match h.spilled.find? mine with
      | some r => noteArray (setHall s { h with spilled := h.spilled.erase r, restoring := some r })
      | none => match h.paused.find? mine with
        | some r => noteArray (setHall s { h with paused := h.paused.erase r, run := some r })
        | none => noteArray (setHall s { h with run := some { ctx := c, id := k.id } })

/-- A tile boundary inside an output tile (R260): an operation of a higher priority makes the running bank spill; the throttle, shedding and
the duty cycle stop the array here (R428, R429, R431). -/
def tileBoundary (s : State) (r : ArrayRun) : State :=
  if !(arrayOn s) || !(dutyOk s) then noteArray (setHall s { s.hall with stopped := true })
  else match bestOffer s (arrayOffers s) with
    | some (c, _) =>
      if ctxPrio s c < ctxPrio s r.ctx then
        noteArray (ev (setHall (countGap s) { (countGap s).hall with run := none, spilling := some r, stopped := false }) 1717 1)
      else noteArray (setHall s { s.hall with stopped := false })
    | none => noteArray (setHall s { s.hall with stopped := false })

/-- An output tile has streamed its last pass: its bank goes to the epilogue when that is free, and the array chooses again; otherwise
both banks wait (R258). -/
def outputTileEnds (s : State) (r : ArrayRun) : State :=
  match s.hall.epilogue with
  | some _ => noteArray s
  | none =>
    let l := runBody s r
    let s := countGap s
    let s := setHall s { s.hall with epilogue := some r, run := none }
    if r.tile + 1 < nTiles s l then
      chooseOp (setHall s { s.hall with paused := s.hall.paused ++ [{ r with tile := r.tile + 1, pass := 0, tries := 0, bank := [] }] })
    else match runCmd s r with
      | some k => chooseOp (setCmd s r.ctx { k with fullyIssued := true })
      | none => chooseOp s

/-- The array looks again after a change of power or clock, or when an ARRAY becomes ready. -/
def arrayKick (s : State) : State :=
  match s.hall.run with
  | some r => if s.hall.stopped && arrayOn s && dutyOk s then tileBoundary s r else s
  | none => chooseOp s

/-- A pass ends (R255, R259): added into the bank when its residues agree, else run again at most twice, else the command ends with
RESIDUE. -/
def passEnds (s : State) (ok : Bool) : State :=
  match s.hall.run with
  | none => s
  | some r =>
    let l := runBody s r
    if s.hall.stopped || nPasses l ≤ r.pass then s
    else
      let (_, m) := rowsOfTile s l r.tile
      let (_, n) := colsOfTile s l r.tile
      let s := countPass s r ok
      let s := setHctx s r.ctx { hctx s r.ctx with shareUsed := (hctx s r.ctx).shareUsed + max m n }
      if ok then
        let r := { r with bank := addPass s l r, pass := r.pass + 1, tries := 0 }
        let s := setHall s { s.hall with run := some r }
        if nPasses l ≤ r.pass then outputTileEnds s r
        else if r.pass % aKP l = 0 then tileBoundary s r
        else s
      else if r.tries < 2 then
        let s := ev (halErr s 1) 1716 1
        let s := setHall s { s.hall with run := some { r with tries := r.tries + 1 } }
        if onceSince s 0x0501 1000000000 then fault (noteSince s 0x0501) 0x0501 1 4 (hallEpc s) (det [(16, 1, r.ctx)]) else s
      else
        let s := fault (halErr s 2) 0x0501 3 4 (hallEpc s) (det [(16, 1, r.ctx)])
        let s := setHall s { s.hall with run := none }
        chooseOp (match runCmd s r with
          | some k => setCmd s r.ctx { k with err := 11, fullyIssued := true, finished := true }
          | none => s)

/-- Address of the save area of a priority (R261). -/
def saveArea (prio : Nat) : Nat := 0xB400000 + (3 - prio) * 0x400000

/-- A spill ends: the bank lies in its priority's save area, and the array chooses (R260, R261). -/
def spillEnds (s : State) : State :=
  match s.hall.spilling with
  | none => s
  | some r =>
    let l := runBody s r
    let (_, m) := rowsOfTile s l r.tile
    let (_, n) := colsOfTile s l r.tile
    let s := countGap s
    let s := forEach (List.range m) s fun s i =>
      pWrite s (saveArea (ctxPrio s r.ctx) + i * arrayCols s * 4)
        ((List.range n).flatMap fun j => leBytes 4 (cget (0 : Word) r.bank (bankAt i j)).toNat)
    chooseOp (setHall s { s.hall with spilling := none, spilled := s.hall.spilled ++ [{ r with bank := [] }] })

/-- A restore ends: the operation resumes with its bank (R260). -/
def restoreEnds (s : State) : State :=
  match s.hall.restoring with
  | none => s
  | some r =>
    let l := runBody s r
    let (_, m) := rowsOfTile s l r.tile
    let (_, n) := colsOfTile s l r.tile
    let bank := (List.range m).foldl (fun b i => (List.range n).foldl (fun b j =>
      cset (0 : Word) b (bankAt i j) (BitVec.ofNat 32 (leNat (pRead s (saveArea (ctxPrio s r.ctx) + (i * arrayCols s + j) * 4) 4)))) b) []
    let s := ev (countGap s) 1718 1
    let r := { r with bank := bank }
    tileBoundary (setHall s { s.hall with restoring := none, run := some r }) r

/-- An epilogue ends (R257, R258): the tile is in the Pantry, its bank is free; after the last tile the command is complete. -/
def epilogueEnds (s : State) : State :=
  match s.hall.epilogue with
  | none => s
  | some e =>
    let l := runBody s e
    let s := writeTile (countGap s) l e
    let s := setHall s { s.hall with epilogue := none }
    let s := if e.tile + 1 = nTiles s l then
        match runCmd s e with
        | some k => setCmd (spoilOverlap s (arrayOuts l) (arrayClash l)) e.ctx { k with finished := true }
        | none => s
      else s
    match s.hall.run with
    | some r => if nPasses (runBody s r) ≤ r.pass then outputTileEnds s r else s
    | none => chooseOp s

/-- The share frame ends (R260): usage restarts. -/
def frameEnds (s : State) : State :=
  let s := forEach (List.range 16) s fun s c => setHctx s c { hctx s c with shareUsed := 0 }
  setHall s { s.hall with frameAt := s.now }

/-! ## Starting and completing commands -/

/-- The context's cached translations go, and its walks are from now on too old to be cached (R275). -/
def dropTranslations (s : State) (c : Nat) : State :=
  setHall s { s.hall with tlb := s.hall.tlb.filter (fun t => t.ctx != c),
                          walks := s.hall.walks.map fun w => if w.ctx = c then { w with stale := true } else w }

/-- A stopping context with nothing left becomes idle (R283). -/
def maybeIdle (s : State) (c : Nat) : State :=
  if ctxState s c = 4 && (hctx s c).cmds = [] then setCtxState s c 0 else s

/-- A LOOP's effect on the next command's address: its LEN commands again, COUNT more times in all (R251). -/
def doLoop (s : State) (c : Nat) (k : HCmd) : State :=
  let back := k.va - BitVec.ofNat 48 (128 * cby k.body 16 2)
  let jump (s : State) : State := wr64 s (HAL_CTX_LIST c) back.toNat
  let x := hctx s c
  match x.loops with
  | (va, n) :: rest =>
    if va = k.va then
      if n = 0 then setHctx s c { x with loops := rest }
      else jump (setHctx s c { x with loops := (va, n - 1) :: rest })
    else if cby k.body 18 4 = 0 then s
    else jump (setHctx s c { x with loops := (k.va, cby k.body 18 4 - 1) :: x.loops })
  | [] =>
    if cby k.body 18 4 = 0 then s
    else jump (setHctx s c { x with loops := [(k.va, cby k.body 18 4 - 1)] })

/-- A command leaves its context: SIG_ADD is applied if it completed (R251, R252, R302). -/
def removeCmd (s : State) (c : Nat) (k : HCmd) : State :=
  let s := setHctx s c { hctx s c with cmds := (hctx s c).cmds.filter fun x => x.id != k.id }
  let s := if k.err = 0 && cbit k.body 9 0 then semAdd s (ctxSem s c (cby k.body 8 1)) (cby k.body 12 4) else s
  maybeIdle s c

/-- A command begins (R249, R251): what it does at once. SIGNAL, LOOP and END complete here. -/
def startCmd (s : State) (c : Nat) (k : HCmd) : State :=
  let k := { k with started := true }
  let s := setCmd s c k
  match cOp k.body with
  | 1 => arrayKick s
  | 2 => setCmd (vSpoil (runVector s k.body) k.body) c { k with finished := true }
  | 3 => runDma s c k.id none
  | 4 => removeCmd s c k
  | 6 => removeCmd (doLoop s c k) c k
  | 7 => dropTranslations s c
  | 8 => removeCmd (setCtxState (setHctx s c { hctx s c with loops := [] }) c 0) c k
  | _ => s

/-- May this command begin now? `rel` lets a release command begin that had to wait. -/
def mayStart (s : State) (rel : Bool) (earlier : List HCmd) (k : HCmd) : Bool :=
  !k.started && inTurn earlier k && acquired earlier k && (!(cRelease k.body) || rel) && released earlier k &&
  (k.inst != .vector || hallOn s)

/-- The first command of a context that may begin. -/
def nextStart (s : State) (rel : Bool) : List HCmd → List HCmd → Option HCmd
  | _, [] => none
  | earlier, k :: ks => if mayStart s rel earlier k then some k else nextStart s rel (earlier ++ [k]) ks

/-- Begin commands of a context in dispatch order, as far as order lets them. -/
def startReady : Nat → State → Nat → Bool → State
  | 0, s, _, _ => s
  | f + 1, s, c, rel => match nextStart s rel [] (hctx s c).cmds with
    | some k => startReady f (startCmd s c k) c rel
    | none => s

/-- Begin what may begin. -/
def startAll (s : State) (c : Nat) (rel : Bool) : State := startReady ((hctx s c).cmds.length + 1) s c rel

/-- Fetch the next command of a running context (R248): translated with READ, and sent as a READ; a walk may have to come first. -/
def startFetch (s : State) (c : Nat) (res : Option WalkResult) : State :=
  let x := hctx s c
  if ctxState s c ≠ 1 || x.fetching.isSome || x.fetched.isSome || x.cmds.any (fun k => blocksCore k || k.err != 0) then s
  else
    let va := rd64 s (HAL_CTX_LIST c)
    match xlate s c va true false res with
    | .miss => startWalk s c va
    | .fault => haltCtx s c 6 va
    | .hit epc off pte =>
      let s := setHctx s c { x with fetching := some (BitVec.ofNat 48 va) }
      issue s (hallPkt s c opREAD 1 epc off (bits pte.toNat 95 64) 0 0 []) (.fetch c (BitVec.ofNat 48 va)) none

/-- A fetched command has arrived (R248): a reserved opcode or KIND and a bad WAIT_SEM fail here; an unsatisfied wait gives STATE 2. -/
def fetchData (s : State) (c va status : Nat) (data : List Byte) : State :=
  let x := hctx s c
  if x.fetching ≠ some (BitVec.ofNat 48 va) then s
  else
    let l := bytesLine (slice data 0 128)
    let s := setHctx s c { x with fetching := none }
    if status ≠ stOK then haltCtx (wr64 s (HAL_CTX_ERR_DETAIL c) (va + status * 2 ^ 48)) c 7 va
    else if cOp l = 0 || 8 < cOp l || (cOp l = 3 && 8 < dKind l) then haltCtx s c 1 va
    else if cbit l 3 0 && !(semOk s c (cby l 2 1)) then haltCtx s c 4 va
    else
      let s := setHctx s c { hctx s c with fetched := some l }
      if waitOk s c l then s else setCtxState s c 2

/-! ## Dispatch (R248, R249) -/

/-- The context can dispatch its fetched command. -/
def canDispatch (s : State) (c : Nat) : Bool :=
  let x := hctx s c
  match x.fetched with
  | none => false
  | some l =>
    hallOn s && ctxState s c == 1 && waitOk s c l &&
    !(x.cmds.any fun k => blocksCore k || k.err != 0) &&
    (match instOf c l with
     | .core _ => true
     | i => decide ((x.cmds.filter fun k => k.inst == i).length < 8)) &&
    (cOp l != 5 || x.cmds.all fun k => cOp k.body != 3 || k.fullyIssued)

/-- The context core `n` dispatches from (R248): the highest priority that can; contexts of equal priority take turns. -/
def coreChoice (s : State) (n : Nat) : Option Nat :=
  let cs := (List.range 8).map (fun i => 2 * ((vget 0 s.hall.turn n / 2 + 1 + i) % 8) + n)
  let ok := cs.filter (canDispatch s)
  ok.foldl (fun b c => match b with
    | none => some c
    | some d => if ctxPrio s c < ctxPrio s d then some c else some d) none

/-- Dispatch a context's fetched command, or halt the context with the error its checks find (R281). -/
def dispatch (s : State) (c : Nat) : State :=
  let x := hctx s c
  match x.fetched with
  | none => s
  | some l =>
    let va := rd64 s (HAL_CTX_LIST c)
    let e := dispatchErr s c l
    if e ≠ 0 then haltCtx s c e va
    else
      let k : HCmd := { id := s.hall.nextId, va := BitVec.ofNat 48 va, body := l, inst := instOf c l }
      let s := setHall s { s.hall with nextId := s.hall.nextId + 1, turn := vset s.hall.turn (c % 2) c }
      let s := setHctx s c { hctx s c with fetched := none, cmds := (hctx s c).cmds ++ [k] }
      let s := wr64 s (HAL_CTX_LIST c) ((va + 128) % 2 ^ 48)
      let s := ev (ev s 1725 1) (1800 + 4 * c + 1) 1
      let s := match cOp l with
        | 2 => s
        | 5 => startFence s (.hall (Fin.ofNat 16 c)) [hallEpc s] none
        | _ => s
      startFetch (startAll s c true) c none

/-- A row's command of context `c` is dispatched when it is the one fetched and the core's choice. -/
def dispatchRow (s : State) (c : Nat) (pick : Line → Bool) : State :=
  match (hctx s c).fetched with
  | some l => if pick l && coreChoice s (c % 2) = some c then dispatch s c else s
  | none => s

/-! ## Events of the contexts -/

/-- A wait is satisfied (R249): the context runs again, and its command is dispatched when the core chooses it. -/
def waitSatisfied (s : State) (c : Nat) : State :=
  match (hctx s c).fetched with
  | some l =>
    if ctxState s c = 2 && waitOk s c l && hallOn s then
      let s := setCtxState s c 1
      if coreChoice s (c % 2) = some c then dispatch s c else s
    else s
  | none => s

/-- A command completes, or ends with its error and halts the context (R251, R279); what it held back begins. -/
def completeCmd (s : State) (c id : Nat) : State :=
  match findCmd s c id with
  | none => s
  | some k =>
    if !(cmdFinished s c k) then s
    else
      let s := if k.err = 0 then s else haltCtx s c k.err k.va.toNat
      startFetch (startAll (removeCmd s c k) c false) c none

/-- A walk ends (R274): its entry is cached unless it is too old, and what waited for it goes on; a fault is reported only by what needs
the translation (R276). -/
def walkDone (s : State) (c va : Nat) : State :=
  match s.hall.walks.find? fun w => w.ctx == c && w.va.toNat == va && w.pte.isSome with
  | none => s
  | some w =>
    let pte := w.pte.getD 0
    let big := w.level == 1
    let good := bit pte.toNat 0 && bit pte.toNat 1
    let t : TlbEntry := { ctx := c, vaPage := if big then va / 2 ^ 32 else va / 2 ^ 26, big := big, pte := pte }
    let tlb := if good && !w.stale then
        ((s.hall.tlb.filter fun u => !(u.ctx == t.ctx && u.vaPage == t.vaPage && u.big == t.big)) ++ [t]) else s.hall.tlb
    let s := setHall s { s.hall with walks := s.hall.walks.erase w, tlb := tlb.drop (tlb.length - 8192) }
    let res : WalkResult := (va / 2 ^ 26, if good then some (big, pte) else none)
    let s := forEach (hctx s c).cmds s fun s k => runDma s c k.id (some res)
    startFetch s c (some res)

/-- START (R283): from STATE 0 or 3, with ENABLE. -/
def ctxStart (s : State) (c : Nat) : State :=
  if !(bitOf s (HAL_CTX_CFG c) 10) then setBitOf s (HAL_CTX_STATUS c) 3 true
  else if ctxState s c = 0 || ctxState s c = 3 then
    let s := setHctx s c { hctx s c with fetching := none, fetched := none, loops := [] }
    let s := setCtxState (setBitOf (setFld s (HAL_CTX_STATUS c) 11 8 0) (HAL_CTX_STATUS c) 3 false) c 1
    startFetch s c none
  else s

/-- STOP (R283): no further dispatch; STATE 0 once the queued commands complete. -/
def ctxStop (s : State) (c : Nat) : State :=
  if ctxState s c = 0 then s
  else
    let s := setHctx s c { hctx s c with fetching := none, fetched := none, loops := [] }
    maybeIdle (setCtxState s c 4) c

/-- A write of HAL_CTX_LIST (R283). -/
def ctxListWrite (s : State) (c v : Nat) : State :=
  if ctxState s c = 0 then wr64 s (HAL_CTX_LIST c) (bits v 47 7 * 128) else setBitOf s (HAL_CTX_STATUS c) 3 true

/-- A change of a context's CFG, PANTRY, CUP_BASE, CUP_SIZE or PT_BASE takes effect at STATE 0: its cached translations go, and a Pantry
range assigned to a new partition is zeroed (R267, R283). -/
def ctxCfgApply (s : State) (c : Nat) : State :=
  let x := hctx s c
  if x.pendingCfg = [] || ctxState s c ≠ 0 || x.cmds ≠ [] then s
  else
    let oldPart := fldOf s (HAL_CTX_CFG c) 7 0
    let oldP := rd s (HAL_CTX_PANTRY c)
    let s := forEach x.pendingCfg s fun s (o, v) => wr s o v.toNat
    let s := setHctx (dropTranslations s c) c { hctx s c with pendingCfg := [] }
    let w := rd s (HAL_CTX_PANTRY c)
    let part := fldOf s (HAL_CTX_CFG c) 7 0
    let lo := bits w 11 0 * 65536
    let hi := lo + bits w 23 12 * 65536
    let shared := (List.range 16).any fun d => d != c && fldOf s (HAL_CTX_CFG d) 7 0 == part && rangesMeet lo (hi - lo)
      (fldOf s (HAL_CTX_PANTRY d) 11 0 * 65536) (fldOf s (HAL_CTX_PANTRY d) 23 12 * 65536)
    if (oldPart = part && oldP = w) || shared then s
    else
      let keepLo := bits oldP 11 0 * 65536
      let keepHi := keepLo + bits oldP 23 12 * 65536
      let p := if oldPart = part then cellErase (cellErase s.hall.pantry lo (min hi (max lo keepLo))) (max lo (min hi keepHi)) hi
        else cellErase s.hall.pantry lo hi
      setHall s { s.hall with pantry := p }

/-- Clasp changes words of a context (R283): at once for the others, by way of STOP and STATE 0 for those five. -/
def ctxCfgChange (s : State) (c : Nat) (words : List (Nat × Word)) : State :=
  let s := setHctx s c { hctx s c with pendingCfg := (hctx s c).pendingCfg ++ words }
  if ctxState s c = 0 && (hctx s c).cmds = [] then ctxCfgApply s c else ctxStop s c

/-- A write to HAL_SEM_ADD (R252). -/
def halSemAdd (s : State) (sem v : Nat) : State := semAdd s sem v

/-- A C2 packet at the Cupboard (R202, R221, R271). -/
def cupSnoop (s : State) (p : Packet) : State :=
  let s := ev s 1734 1
  match slotOfLine s p.src p.offset with
  | some (k, x) =>
    let (s, x) := takeC2 s p.dest x p
    setCup s k x
  | none => (takeC2 s p.dest {} p).1

/-- The Hall goes on after a change of power or clock: vector and array commands, and the fetches. -/
def hallKick (s : State) : State :=
  forEach (List.range 16) (arrayKick s) fun s c => startFetch (startAll s c false) c none

end Sys2Proof.Machine
end

