-- ==== Sys2Proof/Machine/Cnt.lean ====
section
/-! DEFINITION. Performance counters (chapter 17): view slots, snapshots, CLEAR and chaining, and who may see what. The counters themselves
stand in Ops (`ev`). -/

namespace Sys2Proof.Machine

/-- Change the counters. -/
def setCnt (s : State) (c : Counters) : State := { s with cnt := c }

/-! ## Who may see what (R375, R448, R474) -/

/-- The partition of a virtual function, 256 (which none has) while it is not enabled (log entry 41); none for PF0. -/
def vfPart (s : State) (j f : Nat) : Option Nat :=
  if f = 0 then none else some (if bitOf s (HST_FN_CFG j f) 13 then fldOf s (HST_FN_CFG j f) 7 0 else 256)

/-- Debug access through JTAG is enabled (R394). -/
def debugOn (s : State) : Bool := bitOf s SEC_STATUS 3

/-- The source is Unit 0 of a module seat of the same plane (R370). -/
def moduleSource (s : State) (e : Epc) : Bool :=
  epcUnit e == 0 && epcPlane e == myPlane s &&
  (if epcRack e = 255 then decide (epcSeat e < 128) else decide (128 ≤ epcSeat e) && decide (epcSeat e < (if s.part.hz7134 then 132 else 130)))

/-- Annex and PF0 of either host port, and JTAG with debug enabled. -/
def mgmtPath (s : State) (p : Path) : Bool :=
  match p with
  | .annex => true
  | .host _ f => f == 0
  | .jtag => debugOn s
  | _ => false

/-- A slot is granted to a partition. -/
def slotPart (s : State) (i : Nat) : Option Nat := if bitOf s (CNT_SLOT_OWNER i) 0 then some (fldOf s (CNT_SLOT_OWNER i) 8 1) else none

/-- A path may read a slot. -/
def slotReads (s : State) (p : Path) (i : Nat) : Bool :=
  match p with
  | .host j f => f == 0 || (match vfPart s j f with | some q => slotPart s i == some q | none => true)
  | .i3c => (slotPart s i).isNone
  | .window e => moduleSource s e
  | _ => mgmtPath s p

/-- A path may write a slot's EVENT and name it in CNT_SNAP. -/
def slotWrites (s : State) (p : Path) (i : Nat) : Bool :=
  match p with
  | .host j f => f == 0 || (match vfPart s j f with | some q => slotPart s i == some q | none => true)
  | _ => mgmtPath s p

/-- Only this partition is admitted by a port. -/
def admitsOnly (s : State) (port part : Nat) : Bool :=
  (List.range 8).all fun w => rd s (SEC_ADMIT port w) == (if w = part / 32 then 2 ^ (part % 32) else 0)

/-- A virtual function of a partition may select an event (R474). -/
def selectable (s : State) (part n : Nat) : Bool :=
  (decide (2048 + 4 * part ≤ n) && decide (n < 2052 + 4 * part)) ||
  (decide (1800 ≤ n) && decide (n < 1864) && fldOf s (HAL_CTX_CFG ((n - 1800) / 4)) 7 0 == part) ||
  (decide (32 ≤ n) && decide (n < 32 + 4 * nPorts s) && admitsOnly s ((n - 32) / 4) part)

/-- The path may select an event. -/
def maySelect (s : State) (p : Path) (n : Nat) : Bool :=
  match p with
  | .host j f => (match vfPart s j f with | some q => selectable s q n | none => true)
  | _ => mgmtPath s p

/-- A granted slot whose event its partition may not select (R474). -/
def slotDenied (s : State) (i n : Nat) : Bool := match slotPart s i with | some q => !selectable s q n | none => false

/-! ## What a slot shows (R470, R471) -/

/-- Value and CHAINED of an event as a slot shows them. -/
def shown (s : State) (n : Nat) : Nat × Bool :=
  if !chained s (n / 2) then (evGet s n, false)
  else if n % 2 = 1 then (0, true)
  else (evGet s n + evGet s (n + 1) * 2 ^ 48, true)

/-- OVF of an event as a slot shows it. -/
def shownOvf (s : State) (n : Nat) : Bool :=
  let m := if chained s (n / 2) then n / 2 * 2 + 1 else n
  bitOf s (CNT_OVF (m / 32)) (m % 32)

/-- The event of a slot. -/
def slotEvent (s : State) (i : Nat) : Nat := fldOf s (CNT_SLOT_CFG i) 11 0

/-- CNT_LIVE and CNT_LIVE_HI of a slot as one value, and CNT_VIEW_STATUS. -/
def liveView (s : State) (i : Nat) : Nat × Nat :=
  let n := slotEvent s i
  let d := slotDenied s i n
  let (v, c) := shown s n
  (if d then 0 else v, n + b2n c * 2 ^ 12 + b2n (shownOvf s n) * 2 ^ 13 + b2n d * 2 ^ 14)

/-- The upper word of CNT_LIVE, CNT_LIVE_HI and CNT_VIEW_STATUS as a read of CNT_LIVE latches them for a path. -/
def latchView (s : State) (p : Path) (i : Nat) (v st : Nat) : State :=
  let new := [(p, CNT_LIVE i + 4, BitVec.ofNat 32 (v / 2 ^ 32)), (p, CNT_LIVE_HI i, BitVec.ofNat 32 (v / 2 ^ 64)),
              (p, CNT_VIEW_STATUS i, BitVec.ofNat 32 st)]
  let old := s.cnt.latches.filter fun e => !(e.1 == p && new.any fun x => x.2.1 == e.2.1)
  setCnt s { s.cnt with latches := new ++ old }

/-- A read of CNT_LIVE, of either size: the value, and the latched rest. Read as 4 bytes, the upper word is left for the next read; read
as 8, it has been returned. -/
def liveRead (s : State) (p : Path) (i : Nat) : Nat × State :=
  let s := countGap s
  let (v, st) := liveView s i
  (v, latchView s p i v st)

/-- The word that a path's earlier read latched at an offset, and the state after it has been read. -/
def takeLatch (s : State) (p : Path) (off : Nat) : Option (Nat × State) :=
  match s.cnt.latches.find? fun e => e.1 == p && e.2.1 == off with
  | some e => some (e.2.2.toNat, setCnt s { s.cnt with latches := s.cnt.latches.erase e })
  | none => none

/-! ## CLEAR and chaining (R471, R472) -/

/-- Zero a counter and its OVF bit. -/
def zeroEvent (s : State) (n : Nat) : State := setBitOf (evSet s n 0) (CNT_OVF (n / 32)) (n % 32) false

/-- CLEAR of an event. -/
def clearNow (s : State) (n : Nat) : State :=
  if chained s (n / 2) then (if n % 2 = 1 then s else zeroEvent (zeroEvent s n) (n + 1)) else zeroEvent s n

/-- A chain bit is set or cleared. -/
def chainNow (s : State) (k : Nat) (on : Bool) : State :=
  if chained s k == on then s else evSet (setBitOf s (CNT_CHAIN (k / 32)) (k % 32) on) (2 * k + 1) 0

/-- A snapshot of a counter of a pair is pending. -/
def pairPending (s : State) (k : Nat) : Bool := s.cnt.snaps.any fun r => r.taken.isNone && r.event / 2 == k

/-- Do it now, or once the pending snapshot has been captured (R473). -/
def cntOp (s : State) (o : HeldOp) : State :=
  let hold (s : State) : State := setCnt s { s.cnt with held := s.cnt.held ++ [o] }
  match o with
  | .clear n => if pairPending s (n / 2) then hold s else clearNow s n
  | .chain k b => if pairPending s k then hold s else chainNow s k b

/-- CLEAR_ALL: every counter with a pending snapshot waits. -/
def clearEvery (s : State) : State :=
  let s := countGap s
  let waiting := (s.cnt.snaps.filter fun r => r.taken.isNone).map fun r => r.event / 2
  let s := setCnt s { s.cnt with ev := s.cnt.ev.filter fun e => waiting.contains (e.1 / 2) }
  let s := forEach (List.range 96) s fun s w =>
    if waiting.any (fun k => k / 16 == w) then
      forEach ((List.range 32).filter fun b => !waiting.contains ((32 * w + b) / 2)) s fun s b => setBitOf s (CNT_OVF w) b false
    else wr s (CNT_OVF w) 0
  forEach waiting.eraseDups s fun s k => cntOp (cntOp s (.clear (2 * k))) (.clear (2 * k + 1))

/-- CNT_CHAIN is written. -/
def chainWrite (s : State) (w v : Nat) : State := forEach (List.range 32) s fun s b => cntOp s (.chain (32 * w + b) (bit v b))

/-! ## Snapshots (R473) -/

/-- A snapshot of one slot is requested: SNAP_VALID clears, and the stamp is the one chosen for this write. -/
def snapSlot (s : State) (i stamp : Nat) : State :=
  let s := setBitOf s (CNT_SNAP_STATUS i) 13 false
  setCnt s { s.cnt with snaps := s.cnt.snaps.filter (fun r => r.slot != i) ++ [{ slot := i, event := slotEvent s i, stamp := stamp }] }

/-- CNT_SNAP: the stamp is open between 500 ns and 1 µs from now. -/
def snapWrite (s : State) (p : Path) (mask : Nat) : State :=
  let slots := (List.range 64).filter fun i => bit mask i && slotWrites s p i
  if slots = [] then s
  else
    let stamp := s.now + 500 + freeVal s % 501
    forEach slots (takeFree s) fun s i => snapSlot s i stamp

/-- Operations whose counters no pending snapshot names any longer are done, in order. -/
def releaseHeldOps (s : State) : State :=
  let ops := s.cnt.held
  if ops = [] then s else forEach ops (setCnt s { s.cnt with held := [] }) cntOp

/-- The counters are captured when the local counter reaches a stamp. -/
def captureDue (s : State) : State :=
  if !(s.cnt.snaps.any fun r => r.taken.isNone && decide (r.stamp ≤ s.now)) then s
  else
    let s := countGap s
    let take (r : SnapReq) : SnapReq :=
      if r.taken.isNone && decide (r.stamp ≤ s.now) then
        let x := shown s r.event
        let d := slotDenied s r.slot r.event
        { r with taken := some (if d then 0 else x.1, x.2, d) }
      else r
    releaseHeldOps (setCnt s { s.cnt with snaps := s.cnt.snaps.map take })

/-- SNAPSHOT_CAPTURE: a slot's snapshot registers are set, once its counter has been captured. -/
def snapDone (s : State) (i : Nat) : State :=
  let s := captureDue s
  match s.cnt.snaps.find? fun r => r.slot == i with
  | some r => match r.taken with
    | some (v, c, d) =>
      let s := setCnt s { s.cnt with snaps := s.cnt.snaps.filter fun q => q.slot != i }
      let s := wr (wr64 s (CNT_SNAP_LO i) (v % 2 ^ 64)) (CNT_SNAP_HI i) (v / 2 ^ 64)
      wr64 (wr s (CNT_SNAP_STATUS i) (r.event + b2n c * 2 ^ 12 + 2 ^ 13 + b2n d * 2 ^ 14)) (CNT_SNAP_STAMP i) r.stamp
    | none => s
  | none => s

/-- A read of a snapshot register: zero while the slot is denied (R474), but for the status. -/
def snapWord (s : State) (i off : Nat) : Nat :=
  let d := slotDenied s i (fldOf s (CNT_SNAP_STATUS i) 11 0)
  if off = CNT_SNAP_STATUS i then (if d then setBits (rd s off) 14 14 1 else rd s off) else if d then 0 else rd s off

end Sys2Proof.Machine
end

