-- ==== Sys2Proof/Machine/Resil.lean ====
section
/-! DEFINITION. Failure handling and foresight (chapter 12): the twin's loss, takeover, handoff and resynchronisation, foresight's
windows, spare seats, the fault ring and queue. -/

namespace Sys2Proof.Machine

/-- Change the twin's supervision. -/
def setTwin (s : State) (t : Twin) : State := { s with res := { s.res with twin := t } }
/-- CONFIRM in ns (R341, R367). -/
def confirmNs (s : State) : Nat := fldOf s FLT_TWIN_CFG 31 16 * 10000

/-! ## The twin's regions (R237) -/

/-- What the twins compare of a twinned entry. -/
def regionWords (r : Region) : List Nat :=
  [r.base, r.size, r.tier, b2n r.sealed, b2n r.bulk, b2n r.rRight, b2n r.wRight, r.part, r.key]
/-- The digest of the module's twinned entries. -/
def myDigest (s : State) : BitVec 256 :=
  Config.regionDigest ((((validRegions s).map (regionOf s)).filter Region.twinned).flatMap regionWords)
/-- The module has a twinned entry. -/
def hasTwinned (s : State) : Bool := ((validRegions s).map (regionOf s)).any Region.twinned
/-- Send the digest at Joining and after every region change. -/
def sendDigest (s : State) : State := emit s (.twin (.digest (myDigest s)))

/-! ## Resynchronisation (R350) -/

/-- The twin link can mirror again: resynchronisation starts when blocks are marked; UNMIRRORED ends. -/
def startResync (s : State) : State :=
  let s := setBitOf s FLT_STATUS 9 false
  if s.res.twin.changeMap = [] || s.res.twin.mismatch then s else emit (setBitOf s FLT_STATUS 10 true) (.twin .resyncStart)

/-- Lines of a marked block that lie in regions served here. -/
def blockLines (s : State) (b : Nat) : List Nat := ((List.range 8192).map fun i => b * 8192 + i).filter (twinnedHere s)

/-- The last marked block is copied (R350): every line of the marked blocks has been mirrored, and every directory record of a twinned
line with it, takeover is allowed again, TWIN_RESYNC_DONE. No event while a line of a marked block is blocked, or with no link. -/
def resyncDone (s : State) : State :=
  let t := s.res.twin
  let busy := s.homes.lines.any fun e => e.2.active.isSome && t.changeMap.contains (e.1 / 8192)
  if !(bitOf s FLT_STATUS 10) || !(twinUp s) || busy then s
  else
    let s := forEach t.changeMap s fun s b => forEach (blockLines s b) s fun s l =>
      homEv (emit s (.twin (.mirror (.data l (memLine s l) (lineVersion s l))))) l 18 1
    let s := forEach (s.homes.dir.filter fun r => twinnedHere s r.line) s fun s r =>
      emit s (.twin (.mirror (.dir r.line r.holders r.owned)))
    let s := setFld (setTwin s { s.res.twin with changeMap := [] }) FLT_RESYNC 19 0 0
    fault0 (emit (setBitOf s FLT_STATUS 10 false) (.twin .resyncEnd)) 0x0705 0 5

/-- The twin's digest has arrived (R237): a mismatch is reported and leaves the regions unmirrored until the entries match. -/
def takeDigest (s : State) (d : BitVec 256) : State :=
  let bad := d != myDigest s
  let was := s.res.twin.mismatch
  let s := setTwin s { s.res.twin with mismatch := bad }
  if bad && !was && hasTwinned s then fault0 s 0x0306 3 5
  else if !bad && was && twinUp s then startResync s
  else s

/-! ## The alias (R344) -/

/-- The alias record's 128 bytes. -/
def aliasRecord (s : State) : List Byte :=
  (List.range 4).flatMap (fun w => leBytes 4 (rd s (FLT_ALIAS w))) ++ List.replicate 112 0

/-- Broadcast the alias record: a multicast STREAM_WRITE of one line from Unit 0 with PARTITION 0. -/
def broadcastAlias (s : State) : State :=
  if !(bitOf s FLT_ALIAS_CFG 12) then s
  else
    let off := (rd64 s FLT_ALIAS_OFFSET) % 2 ^ 40
    let dest : Epc := BitVec.ofNat 24 (myPlane s * 2 ^ 21 + fldOf s FLT_ALIAS_CFG 11 0)
    sendPlain s { mkPkt opSTREAM_WRITE 5 dest (myEpc s 0) (opfS off) (aliasRecord s) with mcast := true } .mgmt

/-- Change the alias record: STATE and EPOCH; it is broadcast at once and again at 1, 2, 4 ... 512 ms. -/
def setAlias (s : State) (active : Bool) : State :=
  let s := wr s (FLT_ALIAS 0) ((twinEpc s 1).toNat + b2n active * 2 ^ 24)
  let s := wr s (FLT_ALIAS 1) (myEpc s 1).toNat
  let s := wr s (FLT_ALIAS 2) ((rd s (FLT_ALIAS 2) + 1) % 2 ^ 32)
  let now := s.now
  broadcastAlias (setTwin s { s.res.twin with aliasDue := (List.range 10).map fun k => now + 2 ^ k * 1000000 })

/-- A scheduled broadcast is due. -/
def aliasDue (s : State) : State :=
  match s.res.twin.aliasDue with
  | t :: rest => if t ≤ s.now then broadcastAlias (setTwin s { s.res.twin with aliasDue := rest }) else s
  | [] => s

/-! ## Takeover (R341, R342) -/

/-- Takeover begins (R342 steps 1 and 2): requests to standby ranges wait; mirrored changes received have been applied. -/
def startTakeover (s : State) : State :=
  if !(bitOf s FLT_TWIN_CFG 0) || s.res.twin.stage = 1 then s else setTwin s { s.res.twin with stage := 1 }

/-- The twin is declared lost (R341): TWIN_LOST, and takeover where TAKEOVER_EN is set. -/
def declareLost (s : State) : State :=
  if s.res.twin.lost || twinUp s then s
  else startTakeover (fault (noteActivePath (setTwin s { s.res.twin with lost := true, probeAt := none })) 0x0702 0 5 (twinEpc s 0) 0)

/-- CONFIRM has run with no twin port in service. -/
def confirmRun (s : State) : Bool :=
  pwrState s == 0 && !(twinUp s) && !s.res.twin.lost && (match s.res.twin.downAt with | some t => decide (t + confirmNs s ≤ s.now) | none => false)

/-- After CONFIRM, and every CONFIRM after a read that completed OK (R341): TWIN_PRSNT_N high declares the twin lost; otherwise the
management agent reads the twin's IDN_PART. -/
def confirmTimeout (s : State) : State :=
  if !(confirmRun s) then s
  else if !(bitOf s PWR_INPUTS 4) then declareLost s
  else if s.e2e.outs.any (fun r => r.agent == .probe) ||
      (match s.res.twin.probeAt with | some t => decide (s.now < t) | none => false) then s
  else issue s (mkPkt opREG_READ 1 (twinEpc s 31) (myEpc s 0) (opfM IDN_PART 2 0 0 0) []) .probe none

/-- The probe's answer: UNREACHABLE declares the twin lost; another means it is alive, and the read is repeated after CONFIRM. -/
def probeAnswered (s : State) (status : Nat) : State :=
  if twinUp s || s.res.twin.lost then s
  else if status = stUNREACHABLE then declareLost s
  else setTwin s { s.res.twin with probeAt := some (s.now + confirmNs s) }

/-- Load one mirrored directory record; where its set is full a victim is recalled first and the record stays (R342 step 3). -/
def loadRecord (s : State) (r : DirRec) : State :=
  if needsVictim s r.line then
    match chooseVictim s r.line with
    | some v => beginOwn s v.line .victim none opRECALL v.holders
    | none => s
  else
    let s := { s with homes := { s.homes with standbyDir := s.homes.standbyDir.filter fun x => x.line != r.line } }
    mkDir s r.line r.owned r.fwd r.holders

/-- The standby entries that were synchronised at the loss. -/
def syncedEntries (s : State) : List Region :=
  if s.res.twin.syncAtLoss then ((validRegions s).map (regionOf s)).filter Region.standby else []

/-- The directory is loaded (R342 steps 3-5): STANDBY clears on the synchronised entries, waiting requests are served or answered by
R346, the alias becomes active. Regions of its own that come back to a rejoined module need no alias (R349). No event while a record
still waits for a victim's recall. -/
def takeoverLoaded (s : State) : State :=
  if s.res.twin.stage ≠ 1 then s
  else
    let s := forEach (s.homes.standbyDir.filter fun r => (regionOfLine s r.line).isSome) s loadRecord
    if s.homes.standbyDir.any fun r => (regionOfLine s r.line).isSome then s
    else
      let rs := syncedEntries s
      let back := s.res.twin.returning
      let s := forEach rs s fun s r => wr s (HOM_REGION r.i 0) (setBits (setBits (rd s (HOM_REGION r.i 0)) 23 23 0) 22 22 1)
      let s := setTwin s { s.res.twin with stage := if back then 0 else 2, returning := false,
                                           taken := if back then [] else rs.map Region.i }
      let s := fault s 0x0703 3 5 (myEpc s 0) (det [(16, 2, rs.length)])
      let s := if back then s else setAlias (setBitOf s FLT_STATUS 8 true) true
      forEach (waitingLines s) s settle

/-! ## Handoff (R348) -/

/-- A handoff starts, while the twin link is in service. -/
def startHandoff (s : State) : State :=
  if !(twinUp s) || s.res.twin.handingOff then s
  else fault0 (setTwin s { s.res.twin with handingOff := true }) 0x0704 0 5

/-- The lines of the regions being handed over are all served and acknowledged. -/
def handoffQuiet (s : State) : Bool :=
  s.homes.lines.all fun e => !(match regionOfLine s e.1 with | some r => handRegion s r | none => false) ||
    (e.2.active.isNone && e.2.queue.isEmpty)

/-- Every change is acknowledged (R348 step 3): HANDOFF goes out, the entries become STANDBY, their directory records are kept as the
twin's, and an alias is withdrawn (R349). -/
def handoffComplete (s : State) : State :=
  if !s.res.twin.handingOff || !(twinUp s) || !(handoffQuiet s) then s
  else
    let rs := ((validRegions s).map (regionOf s)).filter (handRegion s)
    let gone (l : Nat) : Bool := rs.any fun r => r.holds (l * 128)
    let recs := s.homes.dir.filter fun r => gone r.line
    let s := emit s (.twin .handoff)
    let s := forEach recs s fun s r => setDirBits s r.line 0
    let s := { s with homes := { s.homes with dir := s.homes.dir.filter (fun r => !(gone r.line)),
                                              standbyDir := s.homes.standbyDir ++ recs } }
    let s := noteDir (noteDir s 0) 1
    let s := forEach rs s fun s r => setBitOf s (HOM_REGION r.i 0) 23 true
    let s := setTwin s { s.res.twin with handingOff := false, stage := 0, taken := [] }
    if aliasActive s then setAlias (setBitOf s FLT_STATUS 8 false) false else s

/-- A HANDOFF arrives (R348): the link is in service, so the regions are synchronised unless a resynchronisation is under way or the
entries differ. -/
def handoffReceived (s : State) : State :=
  startTakeover (setTwin s { s.res.twin with syncAtLoss := !s.res.twin.peerResync && !s.res.twin.mismatch })

/-! ## Fault queue and ring (R360-R367) -/

/-- The 32 bytes of a record (R360). -/
def recBytes (r : FaultRec) : List Byte :=
  leBytes 8 r.stamp ++ leBytes 2 r.code.toNat ++ leBytes 1 r.severity.val ++ leBytes 1 r.source.val ++ leBytes 3 r.epc.toNat ++
  leBytes 1 (b2n r.lostBefore) ++ leBytes 16 r.details.toNat

/-- The oldest record the ring admits with no earlier record of its own source in the queue (R363). -/
def drainChoice (free : Nat) : List FaultRec → List FaultRec → Option FaultRec
  | _, [] => none
  | before, r :: rs =>
    if faultRoom r.severity.val ≤ free && !(before.any fun b => b.source == r.source) then some r else drainChoice free (before ++ [r]) rs

/-- Free entries of the ring. -/
def ringFree (s : State) : Nat := 65536 - (rd s FLT_RING_HEAD + 2 ^ 32 - rd s FLT_RING_TAIL) % 2 ^ 32

/-- Write the next admissible record to the ring: a WRITE_MASK of its 32 bytes from Unit 0 to Unit 1 (R362). -/
def drainOne (s : State) : State :=
  if !(bitOf s FLT_RING_CFG 0) || s.res.ringWrite.isSome then s
  else match drainChoice (ringFree s) [] s.res.queue with
    | none => s
    | some r =>
      let at_ := rd64 s FLT_RING_BASE + 32 * (rd s FLT_RING_HEAD % 65536)
      let i := at_ % 128
      let mask := (2 ^ 32 - 1) * 2 ^ i
      let p := { mkPkt opWRITE_MASK 1 (myEpc s 1) (myEpc s 0) (opfM (at_ / 128 * 128) 0 0 0 0)
          (leBytes 16 mask ++ splice (List.replicate 128 0) i (recBytes r)) with regionKey := regionKeyAt s at_ }
      issue { s with res := { s.res with ringWrite := some r, ringRetryAt := 0 } } p .ring none

/-- FAULT_QUEUE_DRAIN: not while a failed write waits for its retry. -/
def queueDrain (s : State) : State := if s.res.ringRetryAt ≠ 0 then s else drainOne s

/-- RING_WRITE_RETRY: 1 ms after a ring write that did not complete OK. -/
def ringRetry (s : State) : State := if s.res.ringRetryAt ≠ 0 && s.res.ringRetryAt ≤ s.now then drainOne s else s

/-- The ring write's answer: OK moves the record into the ring; another status leaves it in the queue for 1 ms. -/
def ringAnswered (s : State) (status : Nat) : State :=
  match s.res.ringWrite with
  | none => s
  | some r =>
    if status = stOK then
      let s := { s with res := { s.res with ringWrite := none, queue := s.res.queue.erase r } }
      noteQueue (wr s FLT_RING_HEAD ((rd s FLT_RING_HEAD + 1) % 2 ^ 32))
    else { s with res := { s.res with ringWrite := none, ringRetryAt := s.now + 1000000 } }

/-- POP (R367): removes the oldest queued record, unless the ring is enabled. -/
def queuePop (s : State) : State :=
  if bitOf s FLT_RING_CFG 0 then s else noteQueue { s with res := { s.res with queue := s.res.queue.drop 1 } }

/-- A write of FLT_RING_TAIL (R367). -/
def ringTailWrite (s : State) (v : Nat) : State :=
  if (rd s FLT_RING_HEAD + 2 ^ 32 - v % 2 ^ 32) % 2 ^ 32 ≤ 65536 then wr s FLT_RING_TAIL v else s

/-- Clearing LOST clears COUNT and MAX_SEV too (R367). -/
def ovfClear (s : State) (source : Nat) : State := wr s (FLT_OVF source) 0

/-! ## Group changes (R308) -/

/-- A change of a group's entries waits for its steps to close. -/
def queueChange (s : State) (g : Nat) (words : List (Nat × Word)) (owner : DrainOwner) : State :=
  noteGState { s with coll := { s.coll with changes := s.coll.changes ++ [{ g := g, words := words, since := s.now, owner := owner }] } } g

/-- STARTs held for a group go on, in order. -/
def releaseStarts (s : State) (g : Nat) : State :=
  let mine := s.coll.heldStarts.filter fun h => h.1 == g
  let s := { s with coll := { s.coll with heldStarts := s.coll.heldStarts.filter fun h => h.1 != g } }
  forEach mine s fun s (g, i, step) => trigStart s g i step

/-- First free entry of FLT_RETIRED. -/
def freeRetired (s : State) : Option Nat := (List.range 64).find? fun r => !(bitOf s (FLT_RETIRED r) 24)

/-- Retire a swapped seat, and write MEMBER_SWAPPED (R357). -/
def retireSeat (s : State) (e : Epc) : State :=
  let e := epcWithUnit e 0
  if (List.range 64).any fun r => bitOf s (FLT_RETIRED r) 24 && fldOf s (FLT_RETIRED r) 23 0 == e.toNat then s
  else match freeRetired s with
    | some r => fault (ev (wr s (FLT_RETIRED r) (e.toNat + 2 ^ 24)) 2031 1) 0x0708 3 1 e 0
    | none => fault s 0x0709 3 1 e 0

/-- A word is a member's or owner's entry, or one of the group's words. -/
def isMemberWord (off : Nat) : Bool := decide (COL_MEMBER 0 ≤ off) && decide (off < COL_MEMBER 524288)

/-- The seats a change swaps out for a spare in use. -/
def swappedSeats (s : State) (words : List (Nat × Word)) : List Epc :=
  words.filterMap fun (o, v) =>
    let old : Epc := BitVec.ofNat 24 (fldOf s o 23 0)
    if isMemberWord o && old.toNat != v.toNat % 2 ^ 24 && isLocalSeat s old &&
        (List.range 32).any (fun q => bitOf s (FLT_SPARE q) 24 && bitOf s (FLT_SPARE q) 25 && fldOf s (FLT_SPARE q) 23 0 == v.toNat % 2 ^ 24)
    then some old else none

/-- No step of the group is open: the change applies; a rewritten member ends the group's degradation (R337, R357); held STARTs proceed. -/
def changeApply (s : State) (g : Nat) : State :=
  match s.coll.changes.find? fun c => c.g == g with
  | none => s
  | some c =>
    if openSteps s g ≠ [] then s
    else
      let old := swappedSeats s c.words
      let s := forEach c.words s fun s (o, v) => wr s o v.toNat
      let s := if c.words.any fun w => isMemberWord w.1 then setBitOf s (COL_GSTATE g 2) 2 false else s
      let s := forEach old s retireSeat
      let s := { s with coll := { s.coll with changes := s.coll.changes.erase c } }
      releaseStarts (noteGState s g) g

/-- A change not applied within COL_TIMEOUT.VOTE is abandoned (R308); one of a configuration commit or return is kept, and the group's
oldest open step is revoked (R410). -/
def changeAbandon (s : State) (g : Nat) : State :=
  match s.coll.changes.find? fun c => c.g == g with
  | none => s
  | some c =>
    if s.now < c.since + fldOf s COL_TIMEOUT 31 16 * 10000000 then s
    else if c.owner == .commitJob || c.owner == .returnJob then
      let s := { s with coll := { s.coll with changes := s.coll.changes.map fun x => if x = c then { x with since := s.now } else x } }
      match (openSteps s g).foldl (fun (o : Option Word) r => match o with
        | some k => if r.step.toNat < k.toNat then some r.step else some k
        | none => some r.step) none with
      | some k => revokeToSteward s g k 0xFFFFFFFF
      | none => s
    else
      let s := fault s 0x0602 0 1 (myEpc s 12) (det [(16, 2, g)])
      releaseStarts (noteGState { s with coll := { s.coll with changes := s.coll.changes.erase c } } g) g

/-! ## Spare seats (R357) -/

/-- The groups and member entries that name a seat. -/
def memberships (s : State) (e : Epc) : List (Nat × Nat) :=
  ((List.range 1024).filter (gValid s)).filterMap fun g => (memberOf s g e).map fun i => (g, i)

/-- Propose a swap of a seat to the first free spare: a request of the module's own for Clasp's queue (R357); the proposals to the other
modules of the groups travel outside what the manual gives a form (log entry 22). -/
def proposeSwap (s : State) (e : Epc) : State :=
  match (List.range 32).find? (fun q => bitOf s (FLT_SPARE q) 24 && !(bitOf s (FLT_SPARE q) 25)), freeRetired s with
  | some q, some _ =>
    let gs := memberships s e
    let new := fldOf s (FLT_SPARE q) 23 0
    let items := gs.map fun (g, i) =>
      let o := COL_MEMBER (gf s g 3 18 0 + i)
      (o, 4, BitVec.ofNat 64 (setBits (rd s o) 23 0 new))
    let s := setBitOf s (FLT_SPARE q) 25 true
    { s with sec := { s.sec with queue := s.sec.queue ++ [.swap items (gs.map Prod.fst)] } }
  | _, _ => fault s 0x0709 3 1 e 0

/-- The tier-1 seat on a down-port, by its port number (R21, R55). -/
def seatOfPort (s : State) (p : Nat) : Epc :=
  mkEpc (myPlane s) (myRack s) (myHalf s * (if s.part.hz7134 then 32 else 64) + p) 0

/-! ## Foresight (R353-R356) -/

/-- Rank of an arrival among those of its step: by stamp, then member index. -/
def lateRank (all : List LateRec) (a : LateRec) : Nat :=
  (all.filter fun b => b.g == a.g && b.step == a.step &&
    (decide (b.stamp < a.stamp) || (b.stamp == a.stamp && decide (b.member < a.member)))).length

/-- The port of a local member. -/
def memberPort (s : State) (g i : Nat) : Nat :=
  match fldOf s (SWC_SEAT (epcSeat (memberEpc s g i))) 1 0 with
  | 1 => fldOf s (SWC_SEAT (epcSeat (memberEpc s g i))) 9 2
  | _ => 65535

/-- Members charged as last in a window's evaluation: open steps whose first arrival was stamped before its end. -/
def charges (s : State) (stop : Nat) : List (StepRec × Nat) :=
  (s.coll.steps.filter fun r => gLeaf s r.g && !r.arrivals.isEmpty && (match r.arrivals with | a :: _ => decide (a.stamp < stop) | [] => false)).flatMap
    fun r => ((localMembers s r.g).filter fun i => !(r.arrivals.any fun a => a.member == i)).map fun i => (r, i)

/-- LATE_q from contributions L as fractions: 255 × their mean, rounded half up (log entry 23). -/
def lateQ (ls : List (Nat × Nat)) : Nat :=
  let (n, d) := ls.foldl (fun (n, d) (a, b) => (n * b + a * d, d * b)) (0, 1)
  (2 * 255 * n + d * ls.length) / (2 * d * ls.length)

/-- A ratio of a reading to its warning level in 1/64 units, held at 0 and 255. -/
def marginRatio (v warn : Int) : Nat := if warn ≤ 0 then 255 else min 255 (max 0 (v * 64) / warn).toNat

/-- 16- or 12-bit two's complement. -/
def signedBits (w v : Nat) : Int := if v < 2 ^ (w - 1) then Int.ofNat v else Int.ofNat v - Int.ofNat (2 ^ w)

/-- The lane is on a co-packaged optical engine (R62): a lane of the upper half of its port die. -/
def isOptical (s : State) (n : Nat) : Bool := decide (n < 512) && decide (lanesPerDie s / 2 ≤ n % lanesPerDie s)

/-- The droop monitor's site of a lane (R62): a quarter of its die's lanes each. -/
def siteOfLane (s : State) (n : Nat) : Nat := if n < 512 then n % lanesPerDie s / (lanesPerDie s / 4) else 0

/-- mq of a port (R355): the smallest ratio over its lanes in service; 255 with none. -/
def marginNow (s : State) (p : Nat) : Nat :=
  let warn (hi lo : Nat) : Int := Int.ofNat (fldOf s LNK_MARGIN_CFG hi lo)
  let one (n : Nat) : Nat :=
    let e := rd s (LNK_LANE_EYE_RESULT n)
    let eye := if bit e 18 then min (marginRatio (Int.ofNat (bits e 7 0)) (warn 7 0)) (marginRatio (Int.ofNat (bits e 15 8)) (warn 15 8)) else 255
    let site := if n < 512 && rd s (LNK_DROOP (dieOfLane s n) (siteOfLane s n)) ≠ 0 then
      marginRatio (signedBits 12 (fldOf s (LNK_DROOP (dieOfLane s n) (siteOfLane s n)) 23 12)) (warn 23 16) else 255
    let opt := if isOptical s n then marginRatio (signedBits 16 (fldOf s (LNK_LANE_OPT_RX n) 15 0) + 500) (10 * warn 31 24) else 255
    min eye (min site opt)
  ((maskLanes s p).map one).foldl min 255

/-- MARGIN_q from the margins of this and the eight windows before, newest first. -/
def marginQ (h : List Nat) : Nat :=
  let m := h.headD 255
  let old := (h[8]?).getD m
  min 255 (4 * (old - m) + 128 * b2n (decide (m < 64)))

/-- Score a port in a window (R355, R356): MARGIN_q of every port; LATE_q, SCORE, RUN and suspicion of a down-port with contributions. -/
def scorePort (s : State) (p : Nat) (ls : List (Nat × Nat)) : State :=
  let h := (marginNow s p :: cget [] s.res.marginHist p).take 9
  let s := { s with res := { s.res with marginHist := cset [] s.res.marginHist p h } }
  let mq := marginQ h
  let s := setFld s (FLT_SCORE p) 23 16 mq
  if ls = [] then s
  else
    let lq := lateQ ls
    let cfg := rd s FLT_SUSPECT_CFG
    let score := min 255 ((bits cfg 11 8 * lq + bits cfg 15 12 * mq) / 16)
    let run := if bits cfg 7 0 ≤ score then min 15 (fldOf s (FLT_SCORE p) 27 24 + 1) else 0
    let s := setFld (setFld (setFld s (FLT_SCORE p) 7 0 score) (FLT_SCORE p) 15 8 lq) (FLT_SCORE p) 27 24 run
    if bits cfg 19 16 ≤ run && run ≠ 0 && !(bitOf s (FLT_SCORE p) 28) then
      let s := ev (setBitOf s (FLT_SCORE p) 28 true) 2030 1
      let s := fault s 0x0707 0 1 (seatOfPort s p) (det [(16, 1, score), (17, 1, lq), (18, 1, mq)])
      if bit cfg 20 then proposeSwap s (seatOfPort s p) else s
    else s

/-- Evaluate the oldest window that has ended (R354). -/
def windowEvaluate (s : State) : State :=
  let w := fldOf s FLT_WINDOW 15 0 * 1000000
  let k := min s.res.nextWindow (s.now / max w 1)
  if w = 0 || s.now < (k + 1) * w then s
  else
    let all := s.res.lates
    let ch := charges s ((k + 1) * w)
    let part (p : Nat) : List (Nat × Nat) :=
      ((all.filter fun a => a.port == p && a.stamp / w == k).map fun a => if a.n ≤ 1 then (0, 1) else (lateRank all a, a.n - 1)) ++
      ((ch.filter fun c => memberPort s c.1.g c.2 == p).map fun _ => (1, 1))
    let s := forEach (allPorts s) s fun s p => scorePort s p (if isDownPort s p then part p else [])
    let s := forEach ch s fun s (r, i) => match stepRec s r.g r.step with
      | some r => setStep s { r with late := r.late ++ [i] }
      | none => s
    { s with res := { s.res with
      nextWindow := k + 1,
      lates := s.res.lates.filter fun a => decide ((k + 1) * w ≤ a.stamp) || (stepRec s a.g a.step).isSome } }

/-! ## Lost members (R337) -/

/-- A member whose port has been out of service for COL_TIMEOUT.REISSUE, or whose seat is retired: its leaf revokes its open steps, marks
the group degraded, and proposes a swap where AUTO_SWAP is set. -/
def memberLost (s : State) (g i : Nat) : State :=
  let e := memberEpc s g i
  let p := memberPort s g i
  let out := decide (p < 258) && !(inService s p) && decide ((link s p).outAt + fldOf s COL_TIMEOUT 15 0 * 100000 ≤ s.now)
  if !(gValid s g && gLeaf s g && isLocalSeat s e && decide (i < gMembers s g)) || !(out || seatRetired s e) || degraded s g then s
  else
    let s := forEach (openSteps s g) s fun s r => revokeToSteward s g r.step 0xFFFFFFFF
    let s := markDegraded s g
    if fldOf s FLT_SUSPECT_CFG 20 20 = 1 && !(seatRetired s e) then proposeSwap s e else s

end Sys2Proof.Machine
end

