-- ==== Sys2Proof/Machine/Tables.lean ====
section
/-! DEFINITION. The rules a change of the tables must meet: items (R371), reserved encodings (R11), what each window may propose
(R370), and the checks of R28, R160, R234, R236, R238, R307, R343, R373, R386, R447 and R455 over the tables as they would stand. -/

namespace Sys2Proof.Machine

/-! ## Words and items -/

/-- Register words put in place of the present ones. -/
def withWords (s : State) (ws : List (Nat × Word)) : State :=
  { s with regs := ws.foldl (fun r e => sset regReset r e.1 e.2) s.regs }

/-- One item of a request (R371): offset, size, value. -/
abbrev Item := Nat × Nat × BitVec 64

/-- The words an item writes (R7, R371). -/
def itemWords (it : Item) : List (Nat × Nat) :=
  if it.2.1 = 8 then [(it.1, it.2.2.toNat % 2 ^ 32), (it.1 + 4, it.2.2.toNat / 2 ^ 32)] else [(it.1, it.2.2.toNat % 2 ^ 32)]

/-- The RWC fields of the word at an offset. -/
def rwcFields (s : State) (off : Nat) : List FieldRow :=
  match findReg s.part.hz7134 off with
  | some (r, _, w) => r.fields.filter fun f => f.word == w && f.acc == .rwc
  | none => []

/-- An encoding a field does not reserve (R11). -/
def legalEnc (f : FieldRow) (x : Nat) : Bool := f.legal.isEmpty || f.legal.any fun (lo, hi) => decide (lo ≤ x) && decide (x ≤ hi)

/-- The word as a validated write leaves it: its RWC fields changed, the rest kept (R10, R12). -/
def rwcMerge (s : State) (off old v : Nat) : Nat :=
  (rwcFields s off).foldl (fun a f => setBits a f.hi f.lo (bits v f.hi f.lo)) old

/-- The value holds a reserved encoding in an RWC field. -/
def rwcReserved (s : State) (off v : Nat) : Bool := (rwcFields s off).any fun f => !legalEnc f (bits v f.hi f.lo)

/-- A window may propose the field at an offset (R370, R373): the partition set and SEC_PART_MIRROR by no window. -/
def mayPropose (w off : Nat) : Bool :=
  !(decide (SEC_PART_MIRROR 0 ≤ off) && decide (off < SEC_PART_MIRROR 8)) &&
  (if w = 3 then blockOf off == 2
   else if w = 4 then (decide (COL_GROUP 0 0 ≤ off) && decide (off < COL_GROUP 1024 0)) || isMemberWord off ||
     (decide (FLT_RETIRED 0 ≤ off) && decide (off < FLT_RETIRED 64)) || (decide (FLT_SPARE 0 ≤ off) && decide (off < FLT_SPARE 32))
   else true)

/-- What is wrong with an item by itself: 0 nothing, 3 FORMAT, 5 ACCESS (R370, R371, R373). -/
def itemErr (s : State) (w : Nat) (it : Item) : Nat :=
  if !(it.2.1 == 4 || it.2.1 == 8) || it.1 % it.2.1 ≠ 0 then 3
  else if (itemWords it).any fun (o, _) => (rwcFields s o).isEmpty || !mayPropose w o then 5
  else if (itemWords it).any fun (o, v) => rwcReserved s o v then 3
  else 0

/-- The words a list of items leaves, in order (R371: a later item overrides an earlier one). -/
def itemsWords (s : State) (items : List Item) : List (Nat × Word) :=
  let rs := items.foldl (fun (r : SMap Word) it =>
    (itemWords it).foldl (fun r (o, v) => sput o (BitVec.ofNat 32 (rwcMerge s o (match r.find? fun e => e.1 == o with
      | some e => e.2.toNat | none => rd s o) v)) r) r) []
  rs

/-- Words that differ from the present ones. -/
def changedWords (s : State) (ws : List (Nat × Word)) : List (Nat × Word) := ws.filter fun e => e.2.toNat != rd s e.1

/-! ## Regions (R234, R236, R238, R343) -/

/-- Every valid entry. -/
def regions (s : State) : List Region := (validRegions s).map (regionOf s)

/-- First offset of an entry, and the first beyond it. -/
def Region.lo (r : Region) : Nat := r.base * 2 ^ 20
def Region.hi (r : Region) : Nat := (r.base + r.size) * 2 ^ 20

/-- Two half-open ranges share an offset. -/
def overlaps (a b c d : Nat) : Bool := decide (a < d) && decide (c < b) && decide (a < b) && decide (c < d)

/-- A half-open range lies in the Loft or Cellar window. -/
def inWindowRange (s : State) (tier lo hi : Nat) : Bool :=
  decide (lo < hi) && (if tier = 0 then inLoft s lo && inLoft s (hi - 1) else inCellar s lo && inCellar s (hi - 1))

/-- R236 for one entry, beside the overlaps. -/
def regionOk (s : State) (r : Region) : Bool :=
  r.size != 0 && inWindowRange s r.tier r.lo r.hi && (inKeepsake s r.lo == inKeepsake s (r.hi - 1)) &&
  !(r.bulk && r.sealed) && !(r.evac && (r.tier == 1 || r.sealed)) &&
  (!r.evac || inWindowRange s 1 (r.evacBase * 2 ^ 20) ((r.evacBase + r.size) * 2 ^ 20))

/-- R236: no two entries overlap, and no evacuation area meets an entry or another evacuation area. -/
def regionsApart (r q : Region) : Bool :=
  let ea (x : Region) := x.evacBase * 2 ^ 20
  let eb (x : Region) := (x.evacBase + x.size) * 2 ^ 20
  (r.i == q.i || !overlaps r.lo r.hi q.lo q.hi) && (!r.evac || !overlaps (ea r) (eb r) q.lo q.hi) &&
  (r.i == q.i || !r.evac || !q.evac || !overlaps (ea r) (eb r) (ea q) (eb q))

/-- Each Store die's share of a tier's counter store, in counter lines (R229). -/
def sealShare (s : State) (tier : Nat) : Nat :=
  (if tier = 0 then 3342336 else 13369344) / (if s.part.hz7134 then 4 else 2)

/-- R234: counter ranges fit their share, and neither they nor root slots are shared. -/
def sealsOk (s : State) (rs : List Region) : Bool :=
  let ss := rs.filter Region.sealed
  ss.all fun r => decide (r.sealBase + sealLines r.size ≤ sealShare s r.tier) && ss.all fun q =>
    r.i == q.i || (r.sealRoot != q.sealRoot && (r.tier != q.tier ||
      !overlaps r.sealBase (r.sealBase + sealLines r.size) q.sealBase (q.sealBase + sealLines q.size)))

/-- The fault ring's range (R361). -/
def ringBase (s : State) : Nat := rd64 s FLT_RING_BASE
/-- FLT_STANDBY_BASE. -/
def standbyBase (s : State) : Nat := rd64 s FLT_STANDBY_BASE

/-- The region that holds a whole range. -/
def regionOfRange (s : State) (lo hi : Nat) : Option Region := (regions s).find? fun r => r.holds lo && r.holds (hi - 1)

/-- R343: the standby directory's range. "No other use names it" is read as the ring and the evacuation areas (log entry 30). -/
def standbyOk (s : State) : Bool :=
  let lo := standbyBase s
  let hi := lo + 2 ^ 27
  match regionOfRange s lo hi with
  | some r => r.tier == 1 && r.part == 0 && !r.bulk && !r.twinned && !r.standby && !r.sealed &&
      !overlaps lo hi (ringBase s) (ringBase s + 2 ^ 21) &&
      (regions s).all fun q => !q.evac || !overlaps lo hi (q.evacBase * 2 ^ 20) ((q.evacBase + q.size) * 2 ^ 20)
  | none => false

/-- R234, R236 and R343 over the whole table. -/
def regionTableOk (s : State) : Bool :=
  let rs := regions s
  rs.all (fun r => regionOk s r && rs.all (regionsApart r)) && sealsOk s rs &&
  (!(rs.any fun r => r.twinned || r.standby) || standbyOk s)

/-- R238: BASE, TIER, SEALED and EVAC of an entry valid before and after are the same. -/
def regionKept (a b : State) : Bool :=
  (validRegions a).all fun i =>
    let r := regionOf a i
    let q := regionOf b i
    !(validRegions b).contains i || (r.base == q.base && r.tier == q.tier && r.sealed == q.sealed && r.evac == q.evac)

/-- R373: PARTITION of a valid entry is unchanged. -/
def regionPartKept (a b : State) : Bool :=
  (validRegions a).all fun i => !(validRegions b).contains i || (regionOf a i).part == (regionOf b i).part

/-! ## Groups (R307, R455) -/

/-- A partition in use. -/
def partUsed (s : State) (p : Nat) : Bool := bitOf s (SEC_PART_USE (p / 32)) (p % 32)

/-- Valid groups: those of the listed register words that are a valid word 0. -/
def validGroups (s : State) : List Nat :=
  (s.regs.filter fun e => COL_GROUP 0 0 ≤ e.1 && e.1 < COL_GROUP 1024 0 && (e.1 - COL_GROUP 0 0) % 128 == 0 &&
    bit e.2.toNat 0).map fun e => (e.1 - COL_GROUP 0 0) / 128

/-- A host seat of a compute rack (R35). -/
def isHostSeat (e : Epc) : Bool := decide (144 ≤ epcSeat e)

/-- A member entry names a seat attached to a tier-1 module of the plane, and a host seat only for KIND BARRIER (R307, R455). -/
def memberSeatOk (s : State) (g i : Nat) : Bool :=
  let e := memberEpc s g i
  bitOf s (COL_MEMBER (gf s g 3 18 0 + i)) 24 && epcPlane e == myPlane s && decide (epcRack e < 128) && epcUnit e == 0 &&
  (halfOfSeat s.part.hz7134 (epcSeat e)).isSome && !(decide (128 ≤ epcSeat e) && decide (epcSeat e < 144)) &&
  (!isHostSeat e || gKind s g == 5)

/-- Members are in range, distinct, attached and allowed. -/
def membersOk (s : State) (g : Nat) : Bool :=
  let n := gMembers s g
  decide (1 ≤ n) && decide (n ≤ (if gKind s g = 6 then 512 else 16384)) && decide (gf s g 3 18 0 + n ≤ 524288) &&
  (List.range n).all (memberSeatOk s g) && ((List.range n).map (memberEpc s g)).Nodup

/-- Owners are tier-1 modules of the plane, and hold every chunk (R307). -/
def ownersOk (s : State) (g : Nat) : Bool :=
  let n := gOwners s g
  decide (n ≤ 256) && decide (gf s g 4 18 0 + n ≤ 524288) &&
  ((List.range n).all fun o =>
    let e := ownerEpc s g o
    epcPlane e == myPlane s && decide (epcRack e < 128) && epcUnit e == 12 && decide (128 ≤ epcSeat e) &&
    decide (epcSeat e < (if s.part.hz7134 then 132 else 130))) &&
  (!(gKind s g == 1 || gKind s g == 2) || decide (gChunks s g ≤ gShard s g * n))

/-- The seats a group's mask must name: members, and the seats of its leaves and owners. -/
def groupSeats (s : State) (g : Nat) : List Epc :=
  (List.range (gMembers s g)).map (memberEpc s g) ++ gLeaves s g ++ (List.range (gOwners s g)).map (ownerEpc s g)

/-- The mask names exactly those seats: SEAT_MASK their seats and RACK_MASK their racks (R307). -/
def groupMaskOk (s : State) (g : Nat) : Bool :=
  let es := groupSeats s g
  let k := gMask s g
  bitOf s (SWC_MASK k 12) 0 &&
  ((List.range 256).all fun n => bitOf s (SWC_MASK k (n / 32)) (n % 32) == es.any fun e => epcSeat e == n) &&
  (List.range 128).all fun r => bitOf s (SWC_MASK k (8 + r / 32)) (r % 32) == es.any fun e => epcRack e == r

/-- The formats are those that R313 permits for their fields. -/
def groupFormatsOk (s : State) (g : Nat) : Bool :=
  (decide (gFmtIn s g ≤ 9) || (gFmtIn s g == 15 && gKind s g == 6)) &&
  (gFmtOut s g == 0 || gFmtOut s g == 1 || gFmtOut s g == 3 || gFmtOut s g == 4) &&
  (decide (gFmtGather s g ≤ 9) || (gFmtGather s g == 15 && gSource1 s g))

/-- LAST_ELEMS (R307). -/
def groupLastOk (s : State) (g : Nat) : Bool :=
  gKind s g == 5 || gKind s g == 6 ||
  (decide (1 ≤ gLastElems s g) && decide (gLastElems s g ≤ 16384) &&
   (!(isMx (gFmtIn s g) || isMx (gFmtOut s g) || isMx (gFmtGather s g)) || gLastElems s g % 32 == 0))

/-- A range lies in one valid coherent region of the group's partition. -/
def groupRangeOk (s : State) (g lo n : Nat) : Bool :=
  lo % 128 == 0 && (match regionOfRange s lo (lo + max n 1) with
    | some r => !r.bulk && r.part == gPart s g
    | none => false)

/-- The offset fields (R307): the trigger line of a leaf; of an owner, the result region of REDUCE_SCATTER and STEP, the slots of the
kinds that send its memory, and the step record of STEP. -/
def groupOffsetsOk (s : State) (g : Nat) : Bool :=
  let k := gKind s g
  let n := min (gShard s g) (gChunks s g)
  (!gLeaf s g || groupRangeOk s g (gTrigger s g) 128) &&
  (!gOwner s g ||
    ((!(k == 1 || k == 2) || groupRangeOk s g (gResult s g) (n * 16 * pieceStride (gFmtOut s g))) &&
     (!(k == 2 || ((k == 3 || k == 4) && !gSource1 s g)) ||
       (groupRangeOk s g (gParam s g 0) (n * 16 * pieceStride (gFmtGather s g)) &&
        groupRangeOk s g (gParam s g 1) (n * 16 * pieceStride (gFmtGather s g)))) &&
     (!(k == 1 || k == 2) || groupRangeOk s g (gStepRec s g) 128)))

/-- R307 and R455 for a whole group entry, as far as one module can see (log entry 31). -/
def groupOk (s : State) (g : Nat) : Bool :=
  membersOk s g && ownersOk s g && groupMaskOk s g && groupFormatsOk s g && groupLastOk s g && groupOffsetsOk s g

/-- The groups whose entry a list of offsets names, and those of which it names a member or owner entry. -/
def touchedEntries (offs : List Nat) : List Nat :=
  ((offs.filter fun o => decide (COL_GROUP 0 0 ≤ o) && decide (o < COL_GROUP 1024 0)).map fun o => (o - COL_GROUP 0 0) / 128).eraseDups

/-- A member-store offset belongs to a group's members or owners. -/
def groupHasWord (s : State) (g off : Nat) : Bool :=
  let i := (off - COL_MEMBER 0) / 4
  isMemberWord off &&
  ((decide (gf s g 3 18 0 ≤ i) && decide (i < gf s g 3 18 0 + gMembers s g)) ||
   (decide (gf s g 4 18 0 ≤ i) && decide (i < gf s g 4 18 0 + gOwners s g)))

/-- Groups of which the offsets name a member or owner entry. -/
def touchedMembers (s : State) (offs : List Nat) : List Nat := (validGroups s).filter fun g => offs.any (groupHasWord s g)

/-! ## Partitions (R373, R386, R447) -/

/-- A port admits a partition. -/
def admits (s : State) (p part : Nat) : Bool := bitOf s (SEC_ADMIT p (part / 32)) (part % 32)

/-- The partitions a port admits. -/
def admitted (s : State) (p : Nat) : List Nat := bitsSet 256 fun w => rd s (SEC_ADMIT p w)

/-- Ports that admit some partition: those of the listed words. -/
def admitPorts (s : State) : List Nat :=
  ((s.regs.filter fun e => SEC_ADMIT 0 0 ≤ e.1 && e.1 < SEC_ADMIT 256 0).map fun e => (e.1 - SEC_ADMIT 0 0) / 32).eraseDups

/-- The down-port of a seat of this module, if it has one. -/
def seatPort (s : State) (e : Epc) : Option Nat :=
  if isLocalSeat s e && fldOf s (SWC_SEAT (epcSeat e)) 1 0 == 1 then some (fldOf s (SWC_SEAT (epcSeat e)) 9 2) else none

/-- R373, group entry: PARTITION is in use and every member seat's down-port admits it. -/
def groupAdmitted (s : State) (g : Nat) : Bool :=
  partUsed s (gPart s g) && (List.range (gMembers s g)).all fun i =>
    match seatPort s (memberEpc s g i) with | some p => admits s p (gPart s g) | none => true

/-- R373, mask entry: one named by a valid group names only seats whose ports admit the group's partition. -/
def maskAdmitted (s : State) (g : Nat) : Bool :=
  let k := gMask s g
  !bitOf s (SWC_MASK k 12) 0 || !bitOf s (SWC_MASK k (8 + myRack s / 32)) (myRack s % 32) || (List.range 256).all fun n =>
    !bitOf s (SWC_MASK k (n / 32)) (n % 32) ||
    (match seatPort s (mkEpc (myPlane s) (myRack s) n 0) with | some p => admits s p (gPart s g) | none => true)

/-- Contexts that are enabled. -/
def ctxEnabled (s : State) (c : Nat) : Bool := bitOf s (HAL_CTX_CFG c) 10
/-- Partition of a context. -/
def ctxPart (s : State) (c : Nat) : Nat := fldOf s (HAL_CTX_CFG c) 7 0

/-- R373, Hall context: the checks of one context. Those of PT_BASE and JOB are made of an enabled context (log entry 32). -/
def ctxIsolated (s : State) (c : Nat) : Bool :=
  let part := ctxPart s c
  let cup (d : Nat) : Nat × Nat := (fldOf s (HAL_CTX_CUP_BASE d) 17 0, fldOf s (HAL_CTX_CUP_BASE d) 17 0 + fldOf s (HAL_CTX_CUP_SIZE d) 18 0)
  let pan (d : Nat) : Nat × Nat := (fldOf s (HAL_CTX_PANTRY d) 11 0, fldOf s (HAL_CTX_PANTRY d) 11 0 + fldOf s (HAL_CTX_PANTRY d) 23 12)
  ((List.range 16).all fun d => c == d || ctxPart s d == part ||
    (!overlaps (cup c).1 (cup c).2 (cup d).1 (cup d).2 && !overlaps (pan c).1 (pan c).2 (pan d).1 (pan d).2)) &&
  (!ctxEnabled s c || (partUsed s part &&
    (match regionAny s (rd64 s (HAL_CTX_PT_BASE c)) with | some r => r.part == part | none => false) &&
    (!bitOf s (HAL_CTX_JOB c) 20 ||
      s.sec.jobKeys.all fun k => k.job.toNat != fldOf s (HAL_CTX_JOB c) 15 0 || k.partition.toNat == part)))

/-- R283's ranges: a Pantry window lies within the 180 MiB, C-slots within the Cupboard. -/
def ctxRangesOk (s : State) (c : Nat) : Bool :=
  decide (fldOf s (HAL_CTX_PANTRY c) 11 0 + fldOf s (HAL_CTX_PANTRY c) 23 12 ≤ 2880) &&
  decide (fldOf s (HAL_CTX_CUP_BASE c) 17 0 + fldOf s (HAL_CTX_CUP_SIZE c) 18 0 ≤ 262144)

/-- R373, watch: its line lies in a region of the partition of the context whose semaphore range holds SEM. -/
def watchIsolated (s : State) (w : Nat) : Bool :=
  let hi := rd s (HAL_WATCH w + 4)
  let sem := bits hi 8 1
  !bit hi 31 || (List.range 16).any fun c =>
    (sem + 256 - fldOf s (HAL_CTX_CFG c) 23 16) % 256 < fldOf s (HAL_CTX_CFG c) 31 24 &&
    (match regionAny s ((rd s (HAL_WATCH w) + bits hi 0 0 * 2 ^ 32) * 128) with | some r => r.part == ctxPart s c | none => false)

/-- Mirroring is on at a port (R156). -/
def mirrored (s : State) (p : Nat) : Bool := (List.range 3).any fun k => rd s (SWC_MIRROR_N p k) != 0

/-- R373, SEC_ADMIT and mirroring, of one port. -/
def portIsolated (s : State) (p : Nat) : Bool :=
  (admitted s p).all fun q => partUsed s q && (!mirrored s p || bitOf s (SEC_PART_MIRROR (q / 32)) (q % 32))

/-- R373, FLT_RING_BASE and FLT_STANDBY_BASE: each, once set, lies in a region of partition 0 (the ring's in the Loft: R367). -/
def basesIsolated (s : State) : Bool :=
  let within (lo n : Nat) : Bool := match regionOfRange s lo (lo + n) with | some r => r.part == 0 | none => false
  ((ringBase s == 0 && !bitOf s FLT_RING_CFG 0) || (within (ringBase s) (2 ^ 21) && inLoft s (ringBase s))) &&
  (standbyBase s == 0 || within (standbyBase s) (2 ^ 27))

/-- R447: the bindings of the functions of a port. -/
def fnsIsolated (s : State) (j : Nat) : Bool :=
  let vfs := (List.range 128).filter fun f => f != 0 && bitOf s (HST_FN_CFG j f) 13
  let parts := vfs.map fun f => fldOf s (HST_FN_CFG j f) 7 0
  fldOf s (HST_FN_CFG j 0) 7 0 == 0 && parts.all (fun p => p != 0 && partUsed s p) && parts.Nodup

/-- R373 and R447 over the tables as they would stand (`b`), beside what they say of an entry's past (`a`). -/
def isolated (a b : State) : Bool :=
  ((regions b).all fun r => partUsed b r.part) && regionPartKept a b && (List.range 16).all (ctxIsolated b) &&
  (List.range 16).all (watchIsolated b) && (validGroups b).all (fun g => groupAdmitted b g && maskAdmitted b g) &&
  (admitPorts b).all (portIsolated b) && basesIsolated b && fnsIsolated b 0 && fnsIsolated b 1

/-! ## A request's checks (R372, R373) -/

/-- The format checks of a request over the tables before and after it. -/
def formatOk (a b : State) (offs : List Nat) : Bool :=
  regionTableOk b && regionKept a b && (List.range 16).all (ctxRangesOk b) &&
  ((touchedEntries offs).all fun g => !gValid b g || groupOk b g) && (touchedMembers b offs).all (membersOk b)

/-- The outcome of a request on the tables (R373, R374): 1 APPLIED, 2 ISOLATION or 3 FORMAT. -/
def tableResult (a b : State) (offs : List Nat) : Nat := if !formatOk a b offs then 3 else if !isolated a b then 2 else 1

/-- First failing item of a request: by itself, or by the tables its items up to it would leave (log entry 33). -/
def firstBad (a : State) (w res : Nat) (items : List Item) : Nat :=
  if res = 3 && !(items.any fun it => itemErr a w it != 0) || res = 2 then
    ((List.range items.length).find? fun k =>
      let xs := itemsWords a (items.take (k + 1))
      tableResult a (withWords a xs) (xs.map (·.1)) == res).getD 0
  else (items.findIdx fun it => itemErr a w it != 0)

/-- A request's result over the tables as they will stand (R370-R373): 1 APPLIED, else the refusal. -/
def requestResult (a : State) (w : Nat) (items : List Item) : Nat :=
  match items.find? fun it => itemErr a w it != 0 with
  | some it => itemErr a w it
  | none =>
    if (items.map fun it => blockOf it.1).eraseDups.length ≠ 1 then 3
    else
      let xs := itemsWords a items
      tableResult a (withWords a xs) (xs.map (·.1))

end Sys2Proof.Machine
end

