-- ==== Sys2Proof/Machine/Apply.lean ====
section
/-! DEFINITION. How a validated change is applied, block by block (R372): the switch core's subtractive changes and drains (R161, R163),
regions (R238), Hall contexts (R283), groups (R308), and every other register with what its change sets off (R93, R474). -/

namespace Sys2Proof.Machine

/-! ## Windows (R374, R397) -/

/-- Set STATE of a window: 0 idle, 1 queued, 2 validating, 3 applying, 4 done. The module's own requests have no window. -/
def setWState (s : State) (w v : Nat) : State := if w < 5 then setFld s (SEC_W_STATUS w) 2 0 v else s

/-- A window is queued, validating or applying: every write to it is discarded (R372). -/
def windowBusy (s : State) (w : Nat) : Bool := let v := fldOf s (SEC_W_STATUS w) 2 0; v == 1 || v == 2 || v == 3

/-- A request ends: STATE done, RESULT and ITEM (R374). -/
def windowDone (s : State) (w result item : Nat) : State :=
  if w < 5 then setFld (setFld (setWState s w 4) (SEC_W_STATUS w) 7 3 result) (SEC_W_STATUS w) 15 8 item else s

/-- A refused request: REQ_REFUSED with the window, RESULT and ITEM in its details, at bytes 16 to 18 (log entry 14). -/
def refuseReq (s : State) (w result item : Nat) : State :=
  fault (ev (windowDone s w result item) 12 1) 0x0803 0 11 (myEpc s 0) (det [(16, 1, w), (17, 1, result), (18, 1, item)])

/-! ## Side effects of a word (R93, R138, R474) -/

/-- A slot changes hands: EVENT 0, SNAP_VALID cleared, the snapshot fields zeroed; a pending capture is dropped (R474). -/
def slotReassigned (s : State) (slot : Nat) : State :=
  let s := forEach [CNT_SLOT_CFG slot, CNT_SNAP_LO slot, CNT_SNAP_LO slot + 4, CNT_SNAP_HI slot, CNT_SNAP_STATUS slot,
    CNT_SNAP_STAMP slot, CNT_SNAP_STAMP slot + 4] s fun s o => wr s o 0
  { s with cnt := { s.cnt with snaps := s.cnt.snaps.filter (·.slot != slot), latches := s.cnt.latches.filter fun e => (e.2.1 - CNT_LIVE 0) / 64 != slot } }

/-- An offset is word `o` of a port's registers; the port. -/
def portWord (off o : Nat) : Option Nat :=
  if LNK_PORT_CFG 0 ≤ off && off < LNK_PORT_CFG 258 && (off - LNK_PORT_CFG 0) % 0x1000 == o then some ((off - LNK_PORT_CFG 0) / 0x1000) else none

/-- Write a word that changes in one cycle, with what the change sets off. -/
def directWrite (s : State) (off v : Nat) : State :=
  let old := rd s off
  let up (j : Nat) : Bool := hostUp s j
  let b := wr s off v
  if old = v then b
  else match portWord off 0, portWord off 4 with
    | some p, _ => if bit old 0 && !bit v 0 then disablePort b p else if !bit old 0 && bit v 0 then bringUpPort b p else b
    | _, some p => expectChanged b p
    | _, _ =>
      if CNT_SLOT_OWNER 0 ≤ off && off < CNT_SLOT_OWNER 64 then slotReassigned b ((off - CNT_SLOT_OWNER 0) / 4)
      else if off = HST_PORT_CFG 0 || off = HST_PORT_CFG 1 then
        forEach [0, 1] b fun s j => if up j && !hostUp s j then relink s (.host (Fin.ofNat 2 j)) else s
      else alertEdge s b

/-! ## The switch core (R161) -/

/-- A change of one word is subtractive: it clears a seat, down or mask entry or bits of a mask, takes ports off a list's ends, or sets
SWC_SHOST bits (log entry 34). -/
def subtractiveWord (s : State) (off v : Nat) : Bool :=
  let old := rd s off
  if SWC_SEAT 0 ≤ off && off < SWC_SEAT 256 then bits v 1 0 == 0
  else if SWC_DOWN 0 ≤ off && off < SWC_DOWN 256 then
    !bit v 15 || (bit old 15 && decide (bits old 7 0 ≤ bits v 7 0) && decide (bits v 7 0 + bits v 14 8 ≤ bits old 7 0 + bits old 14 8))
  else if SWC_MASK 0 0 ≤ off && off < SWC_MASK 4096 0 then Nat.land v old == v
  else if SWC_SHOST 0 ≤ off && off < SWC_SHOST 4 then Nat.land old v == old
  else old == v

/-- The words lie in the switch core's block and need a drain. -/
def needsDrain (s : State) (ws : List (Nat × Word)) : Bool := ws.any fun e => blockOf e.1 == 4 && !subtractiveWord s e.1 e.2.toNat

/-! ## Regions (R238) -/

/-- What a line of a new region holds until it is written is undefined (R238): free values (log entry 3) on every line written before. -/
def scrambleLine (s : State) (line : Nat) : State :=
  let bs := (List.range 16).flatMap fun k => leBytes 8 (Config.free (s.freeIdx + k)).toNat
  memWriteLine { s with freeIdx := s.freeIdx + 16 } line bs

/-- Every line of a range that was ever written. -/
def writtenLines (s : State) (lo hi : Nat) : List Nat :=
  (s.homes.dirBits.map (·.1)).filter fun l => decide (lo ≤ l * 128) && decide (l * 128 < hi)

/-- The offsets whose cached lines a change takes away or alters. -/
def recallRanges (a b : State) : List (Nat × Nat) :=
  (validRegions a).flatMap fun i =>
    let r := regionOf a i
    let q := regionOf b i
    if !(validRegions b).contains i then [(r.lo, r.hi)]
    else if (r.rRight && !q.rRight) || (r.wRight && !q.wRight) || r.key != q.key || r.bulk != q.bulk then [(r.lo, r.hi)]
    else if q.hi < r.hi then [(q.hi, r.hi)] else []

/-- A line lies in one of the ranges. -/
def inRanges (rs : List (Nat × Nat)) (line : Nat) : Bool := rs.any fun r => decide (r.1 ≤ line * 128) && decide (line * 128 < r.2)

/-- Change region words: live for requests placed from now on; what must be recalled is, new regions begin undefined, the digest goes to
the twin, and a region that becomes twinned with no link is reported (R189, R237, R238). -/
def applyRegions (s : State) (ws : List (Nat × Word)) : State × List (Nat × Nat) :=
  let b := withWords s ws
  let rs := recallRanges s b
  let new := (validRegions b).filter fun i => !(validRegions s).contains i
  let twinnedNew := (validRegions b).any fun i => let q := regionOf b i; q.twinned && !q.standby && !((regionOf s i).twinned && (validRegions s).contains i)
  let b := forEach new b fun b i => forEach (writtenLines b (regionOf b i).lo (regionOf b i).hi) b scrambleLine
  let b := recallWhere (sendDigest b) (inRanges rs)
  let b := if twinnedNew && !twinUp b then setBitOf (fault0 b 0x0305 3 5) FLT_STATUS 9 true else b
  (b, rs)

/-! ## Applying -/

/-- The words whose change stops a Hall context first (R283). -/
def stopsCtx (off : Nat) : Bool :=
  decide (HAL_CTX_CFG 0 ≤ off) && decide (off < HAL_CTX_CFG 16) &&
  (let o := (off - HAL_CTX_CFG 0) % 0x100; decide (o < 0x10) || o == 0x20 || o == 0x24)

/-- The context of a word. -/
def ctxOfWord (off : Nat) : Nat := (off - HAL_CTX_CFG 0) / 0x100

/-- The groups a word of the collectives' tables belongs to, before or after the change. -/
def groupsOfWord (a b : State) (off : Nat) : List Nat :=
  if COL_GROUP 0 0 ≤ off && off < COL_GROUP 1024 0 then [(off - COL_GROUP 0 0) / 128]
  else ((validGroups a).filter fun g => groupHasWord a g off) ++
    ((validGroups b).filter fun g => groupHasWord b g off && !groupHasWord a g off)

/-- Apply words of all blocks but the switch core (R372, R410 steps 3 to 6): regions, Hall contexts, groups, then the rest in one
cycle. What remains to be awaited is noted under the owner. -/
def applyTables (s : State) (owner : DrainOwner) (ws : List (Nat × Word)) : State :=
  let isReg (o : Nat) : Bool := decide (HOM_REGION 0 0 ≤ o) && decide (o < HOM_REGION 16384 0)
  let isGrp (o : Nat) : Bool := (decide (COL_GROUP 0 0 ≤ o) && decide (o < COL_GROUP 1024 0)) || isMemberWord o
  let regs := ws.filter fun e => isReg e.1
  let (s, ranges) := if regs = [] then (s, []) else applyRegions s regs
  let ctxWords := ws.filter fun e => decide (HAL_CTX_CFG 0 ≤ e.1) && decide (e.1 < HAL_CTX_CFG 16)
  let stopped := ((ctxWords.filter fun e => stopsCtx e.1).map fun e => ctxOfWord e.1).eraseDups
  let s := forEach stopped s fun s c => ctxCfgChange s c (ctxWords.filter fun e => ctxOfWord e.1 == c)
  let b := withWords s ws
  let grp := ws.filter fun e => isGrp e.1
  let gs := (grp.flatMap fun e => groupsOfWord s b e.1).eraseDups
  let s := forEach gs s fun s g => queueChange s g (grp.filter fun e => (groupsOfWord s b e.1).contains g) owner
  let s := forEach (ws.filter fun e => !isReg e.1 && !(isGrp e.1 && groupsOfWord s b e.1 != []) &&
    !(decide (HAL_CTX_CFG 0 ≤ e.1) && decide (e.1 < HAL_CTX_CFG 16) && stopped.contains (ctxOfWord e.1)) && blockOf e.1 != 4) s
    fun s (o, v) => directWrite s o v.toNat
  { s with sec := { s.sec with applying := s.sec.applying ++ [{ owner := owner, ctxs := stopped, ranges := ranges }] } }

/-- Apply the switch core's words: at once where all are subtractive, else by a drain, which must not be running already. -/
def applySwitch (s : State) (owner : DrainOwner) (ws : List (Nat × Word)) : State :=
  let sw := ws.filter fun e => blockOf e.1 == 4
  if sw = [] then s
  else if needsDrain s sw then startDrain s owner sw []
  else forEach sw s fun s (o, v) => wr s o v.toNat

/-- Nothing of an owner's change is left to be awaited (R308, R238, R283, R163). -/
def applyDone (s : State) (a : Applying) : Bool :=
  !(match s.sw.drain with | some d => d.owner == a.owner && fldOf s SWC_DRAIN_STATUS 1 0 != 3 | none => false) &&
  !(s.coll.changes.any fun c => c.owner == a.owner) && a.ctxs.all (fun c => (hctx s c).pendingCfg == []) &&
  noneCached s (inRanges a.ranges)

/-- A change that has been applied whole: the window is done, and the running tables are no longer the image's (R374, R412). -/
def requestApplied (s : State) (w : Nat) : State := setBitOf (ev (windowDone s w 1 0) 11 1) CFG_STATUS 3 true

/-- Carry the changes under way on: lines that could not be recalled yet are, and requests whose change is applied end. -/
def progressRequests (s : State) : State :=
  let s := forEach s.sec.applying s fun s a => if a.ranges = [] then s else recallWhere s (inRanges a.ranges)
  let done := s.sec.applying.filter fun a => (match a.owner with | .request _ => true | _ => false) && applyDone s a
  let s := { s with sec := { s.sec with applying := s.sec.applying.filter fun a => !(done.contains a) } }
  forEach done s fun s a => match a.owner with | .request w => requestApplied s w | _ => s

/-- An owner's change is abandoned (R163, R308): a window's request ends with RESULT ABANDONED. -/
def ownerAbandoned (s : State) (o : DrainOwner) : State :=
  match o with
  | .request w =>
    if s.sec.applying.any fun a => a.owner == o then
      windowDone { s with sec := { s.sec with applying := s.sec.applying.filter fun a => a.owner != o } } w 6 0
    else s
  | _ => s

/-- The tables as they will stand once every change under way has been applied (R372). -/
def tablesAhead (s : State) : State :=
  let s := match s.sw.drain with | some d => if fldOf s SWC_DRAIN_STATUS 1 0 = 3 then s else withWords s d.shadow | none => s
  let s := withWords s (s.coll.changes.flatMap fun c => c.words)
  withWords s (s.hall.ctxs.flatMap fun e => e.2.pendingCfg)

/-- Validate and apply the items of a request (R370-R374, R412). `w` is 5 for the module's own. -/
def takeRequest (s : State) (w : Nat) (items : List Item) : State :=
  let a := tablesAhead s
  let sw := items.any fun it => blockOf it.1 == 4
  if sw && s.sw.drain.isSome then refuseReq s w 4 0
  else
    let res := requestResult a w items
    if res ≠ 1 then
      let xs := itemsWords a items
      let b := withWords a xs
      let s := refuseReq s w res (firstBad a w res items)
      let s := if res = 3 && !regionTableOk b && items.any (fun it => decide (HOM_REGION 0 0 ≤ it.1) && decide (it.1 < HOM_REGION 16384 0))
        then fault0 s 0x0304 0 2 else s
      forEach ((touchedEntries (xs.map (·.1)) ++ touchedMembers b (xs.map (·.1))).eraseDups) s fun s g =>
        if res = 3 && gValid b g && !groupOk b g then groupFault s 0x0601 0 g 0 0xFFFFFFFF 255 255 255 else s
    else
      let ws := changedWords a (itemsWords a items)
      progressRequests (setWState (applyTables (applySwitch s (.request w) ws) (.request w) ws) w 3)

end Sys2Proof.Machine
end

