-- ==== Sys2Proof/Machine/Sec.lean ====
section
/-! DEFINITION. Clasp (chapter 13): signed objects (R376, R377), its queue (R372), Lockets (R381-R383), memory keys and their exchange
with the twin (R387-R389), key grants and deliveries (R390-R393), debug (R394, R395) and its start sequence (R378-R380). The
functions of the standards named there are uninterpreted (log entry 4). -/

namespace Sys2Proof.Machine

/-- Change Clasp's state. -/
def setSec (s : State) (c : Sec) : State := { s with sec := c }

/-! ## Signed objects (R376, R377) -/

/-- Bytes of a signature block. -/
def sigLen : Nat := 7936
/-- The signature block at the end of a signed object, and the body before it. -/
def sigBlk (bs : List Byte) : List Byte := slice bs (bs.length - sigLen) sigLen
def sigBody (bs : List Byte) : List Byte := bs.take (bs.length - sigLen)
/-- SHA-256 as 32 bytes. -/
def shaBytes (bs : List Byte) : List Byte := leBytes 32 (Config.sha256 bs).toNat
/-- SVN of a signed object. -/
def sigSvn (bs : List Byte) : Nat := leAt (sigBlk bs) 2 2
/-- The signer's public key. -/
def sigKey (bs : List Byte) : List Byte := slice (sigBlk bs) 40 32

/-- The block is well formed and its signature verifies, whoever signed it. -/
def sigForm (bs : List Byte) (kind : Nat) : Bool :=
  let b := sigBlk bs
  decide (sigLen ≤ bs.length) && leAt b 0 2 == kind && (decide (kind < 3) || leAt b 2 2 == 0) && leAt b 4 4 == bs.length - sigLen &&
  slice b 8 32 == shaBytes (sigBody bs) && Config.slhdsaVerify (BitVec.ofNat 256 (leNat (sigKey bs))) (slice b 0 80) (slice b 80 7856)

/-- The block is valid (R377). -/
def sigValid (bs : List Byte) (kind : Nat) (accepted : List (BitVec 256)) : Bool :=
  sigForm bs kind && accepted.contains (Config.sha256 (sigKey bs))

/-- Itpora's firmware key digests, less those revoked. -/
def fwAccepted (s : State) : List (BitVec 256) :=
  (s.part.fwKeys.zipIdx.filter fun e => !bit s.part.fuse.toNat (9 + e.2)).map (·.1)

/-- The operator key digests that are valid and not revoked, less those of a mask of slots. -/
def opAccepted (s : State) (less : Nat) : List (BitVec 256) :=
  (s.part.opKeys.zipIdx.filter fun e =>
    bit s.part.fuse.toNat (1 + e.2) && !bit s.part.fuse.toNat (5 + e.2) && !bit less e.2).map (·.1)

/-! ## Memory areas of Clasp's work -/

/-- Bytes of Unit 1's memory, as Clasp finds them (log entry 36). -/
def areaBytes (s : State) (off n : Nat) : List Byte := cellRead s.homes.mem off n

/-- An area lies in a region of partition 0. -/
def areaOk (s : State) (off n : Nat) : Bool :=
  match regionOfRange s off (off + n) with | some r => r.part == 0 | none => false

/-- Write a byte string to the module's Unit 1, line by line, as writes of Unit 0 (log entry 36). -/
def claspWrite (s : State) (off : Nat) (bs : List Byte) (w : Nat) : State :=
  forEach (List.range ((bs.length + 127) / 128)) s fun s k =>
    let chunk := (bs.drop (128 * k)).take 128
    let o := off + 128 * k
    let p := if chunk.length = 128 then mkPkt opWRITE 1 (myEpc s 1) (myEpc s 0) (opfM o 0 0 0 0) chunk
      else mkPkt opWRITE_MASK 1 (myEpc s 1) (myEpc s 0) (opfM o 0 0 0 0) (leBytes 16 (2 ^ chunk.length - 1) ++ slice chunk 0 128)
    issue s { p with regionKey := regionKeyAt s o } (.clasp w) none

/-- SEC_W_BUF of a window. -/
def windowBuf (s : State) (w : Nat) : Nat := rd64 s (SEC_W_BUF w)

/-! ## Random values and keys (R387) -/

/-- A 256-bit value of the random bit generator: a free value (log entry 3). -/
def draw256 (s : State) : BitVec 256 × State :=
  let v := (List.range 4).foldl (fun a k => a + (Config.free (s.freeIdx + k)).toNat * 2 ^ (64 * k)) 0
  (BitVec.ofNat 256 v, { s with freeIdx := s.freeIdx + 4 })

/-- The memory keys held for a partition. -/
def memKey (s : State) (p : Nat) : Option MemKey := s.sec.memKeys.find? fun k => k.id.toNat == p

/-- Hold keys for a partition. -/
def setMemKey (s : State) (k : MemKey) : State := setSec s { s.sec with memKeys := k :: s.sec.memKeys.filter fun x => x.id != k.id }

/-- Draw a partition's keys. -/
def makeMemKey (s : State) (p : Nat) : State :=
  let a := draw256 s
  let b := draw256 a.2
  setMemKey b.2 { id := BitVec.ofNat 8 p, enc := a.1, mac := b.1 }

/-- Partitions in use. -/
def partsUsed (s : State) : List Nat := bitsSet 256 fun w => rd s (SEC_PART_USE w)

/-- The module holds the lower seat of its twin pair (R29). -/
def lowerSeat (s : State) : Bool := mySeat s % 2 == 0

/-- Send a partition's keys to the twin, encapsulated under its KEM_EK, or say that none are held (R388). -/
def sendKeys (s : State) (p : Nat) : State :=
  match memKey s p with
  | none => emit s (.twin (.partitionKeys (BitVec.ofNat 8 p) 0 [] [] 0))
  | some k =>
    let x := Config.kemSeal s.res.twin.peerKem (Config.free s.freeIdx)
    let w := Config.gcmSeal x.2 0 [] (leBytes 32 k.enc.toNat ++ leBytes 32 k.mac.toNat)
    emit (takeFree s) (.twin (.partitionKeys k.id (Config.keyCheck k.enc) x.1 w.1 w.2))

/-- TWIN_KEY_FAIL: the partition's twinned regions are unmirrored from now on (R388). -/
def keyFail (s : State) (p : Nat) : State :=
  if s.sec.keyMismatch.contains p then s
  else fault (setSec s { s.sec with keyMismatch := p :: s.sec.keyMismatch }) 0x0806 3 11 (twinEpc s 0) (det [(16, 1, p)])

/-- The twin's keys for a partition arrive, or word that it holds none (R388, R389). -/
def takeTwinKeys (s : State) (p : Nat) (held : Bool) (check : BitVec 64) (ct wrapped : List Byte) (tag : BitVec 128) : State :=
  if !s.res.twin.locketOk then s
  else
    let done (s : State) : State := setSec s { s.sec with keyWait := s.sec.keyWait.filter fun k => k.1.toNat != p }
    match held, memKey s p with
    | true, some k => if Config.keyCheck k.enc = check then done s else keyFail (done s) p
    | true, none =>
      match Config.gcmOpen (Config.kemOpen s.sec.kemSeed ct) 0 [] wrapped tag with
      | some bs =>
        let k : MemKey := { id := BitVec.ofNat 8 p, enc := BitVec.ofNat 256 (leAt bs 0 32), mac := BitVec.ofNat 256 (leAt bs 32 32) }
        if Config.keyCheck k.enc = check then done (setMemKey s k) else keyFail s p
      | none => keyFail s p
    | false, some _ => s
    | false, none => if lowerSeat s then sendKeys (done (makeMemKey s p)) p else s

/-- A partition enters use (R389): its keys are those the twin sent before, or drawn here by the lower-seat twin or where no twin can
send them; the higher-seat twin waits. -/
def partitionEnters (s : State) (p : Nat) : State :=
  if (memKey s p).isSome then s
  else if !(twinUp s) || !s.res.twin.locketOk then makeMemKey s p
  else if lowerSeat s then sendKeys (makeMemKey s p) p
  else sendKeys (setSec s { s.sec with keyWait := s.sec.keyWait ++ [(BitVec.ofNat 8 p, s.now)] }) p

/-- 1 s without keys from the lower-seat twin (R389). -/
def keyWaitEnds (s : State) (p : Nat) : State :=
  match s.sec.keyWait.find? fun k => k.1.toNat == p with
  | some k =>
    if s.now < k.2 + 1000000000 then s
    else
      let s := makeMemKey (setSec s { s.sec with keyWait := s.sec.keyWait.erase k }) p
      keyFail (sendKeys s p) p
  | none => s

/-- A partition leaves use: its memory keys and job keys are destroyed (R386). -/
def partitionLeaves (s : State) (p : Nat) : State :=
  let jk := s.sec.jobKeys.filter fun k => k.partition.toNat != p
  wr (setSec s { s.sec with memKeys := s.sec.memKeys.filter (fun k => k.id.toNat != p), jobKeys := jk,
                            owners := cset 0 s.sec.owners p 0, keyMismatch := s.sec.keyMismatch.filter (· != p),
                            keyWait := s.sec.keyWait.filter fun k => k.1.toNat != p }) SEC_JOBKEYS jk.length

/-! ## The Locket (R382) -/

/-- Insertion into a list ordered by a key. -/
def insertBy {α : Type} (key : α → Nat) (x : α) : List α → List α
  | [] => [x]
  | y :: ys => if key x ≤ key y then x :: y :: ys else y :: insertBy key x ys
/-- A list ordered by a key. -/
def sortBy {α : Type} (key : α → Nat) : List α → List α
  | [] => []
  | x :: xs => insertBy key x (sortBy key xs)

/-- IDN_PART (R16). -/
def idnPart (s : State) : Nat := if s.part.hz7134 then 0x0A1E7134 else 0x0A1E7168

/-- The range entries of a partition, by BASE. -/
def partRanges (s : State) (p : Nat) : List Region := sortBy Region.base ((regions s).filter fun r => r.part == p)

/-- A range entry (R382). -/
def rangeEntry (r : Region) : List Byte :=
  leBytes 4 (r.base + r.tier * 2 ^ 20 + b2n r.twinned * 2 ^ 21 + b2n r.standby * 2 ^ 22 + b2n r.sealed * 2 ^ 23 + b2n r.bulk * 2 ^ 24 +
    b2n r.rRight * 2 ^ 25 + b2n r.wRight * 2 ^ 26) ++ leBytes 4 r.size ++ leBytes 1 r.part ++ leBytes 7 0

/-- MiB of a tier in a list of entries. -/
def tierSize (rs : List Region) (tier : Nat) : Nat := ((rs.filter fun r => r.tier == tier).map Region.size).sum

/-- The enabled virtual function of a host port bound to a partition; 0 for none. -/
def boundVf (s : State) (j p : Nat) : Nat := ((boundFns s j p).filter (· != 0)).headD 0

/-- A partition entry (R382): `first` is the index of its first range entry. -/
def partEntry (s : State) (p first : Nat) : List Byte :=
  let rs := partRanges s p
  let cs := (List.range 16).filter fun c => ctxEnabled s c && ctxPart s c == p
  leBytes 1 p ++ leBytes 1 (b2n (bitOf s (SEC_PART_MIRROR (p / 32)) (p % 32))) ++ leBytes 2 rs.length ++ leBytes 4 first ++
  leBytes 4 (tierSize rs 0) ++ leBytes 4 (tierSize rs 1) ++ leBytes 32 (cget 0 s.sec.owners p).toNat ++
  leBytes 2 (s.sec.jobKeys.filter fun k => k.partition.toNat == p).length ++ leBytes 2 ((cs.map fun c => 2 ^ c).sum) ++
  leBytes 2 ((cs.map fun c => fldOf s (HAL_CTX_SHARE c) 7 0).sum) ++ leBytes 1 (boundVf s 0 p) ++ leBytes 1 (boundVf s 1 p) ++
  leBytes 32 ((((List.range (nPorts s)).filter fun q => admits s q p).map fun q => 2 ^ q).sum) ++ leBytes 8 0

/-- The first range index of each partition of a list, beside it. -/
def withFirst (s : State) : Nat → List Nat → List (Nat × Nat)
  | _, [] => []
  | n, p :: ps => (p, n) :: withFirst s (n + (partRanges s p).length) ps

/-- The body of a Locket: everything before the signature block. -/
def locketBody (s : State) (partScope : Bool) (part : Nat) (nonce : BitVec 256) (count : Nat) : List Byte :=
  let ps := if partScope then (if partUsed s part then [part] else []) else partsUsed s
  let entries := (withFirst s 0 ps).flatMap fun (p, k) => partEntry s p k
  let ranges := (ps.flatMap (partRanges s)).flatMap rangeEntry
  let m := (ps.flatMap (partRanges s)).length
  let st := fldOf s SEC_STATUS 7 0
  leBytes 4 1 ++ leBytes 4 (1440 + entries.length + ranges.length + sigLen) ++ leBytes 8 s.part.serial.toNat ++ leBytes 4 (idnPart s) ++
  leBytes 4 s.part.step.toNat ++ shaBytes (leBytes 32 (Config.slhdsaPub s.sec.identity).toNat) ++ leBytes 32 s.part.romDigest.toNat ++
  leBytes 32 s.sec.claspDigest.toNat ++ leBytes 32 s.sec.annexDigest.toNat ++
  (List.range 8).flatMap (fun w => leBytes 4 (rd s (CFG_CUR_DIGEST + 4 * w))) ++
  leBytes 4 count ++ leBytes 4 (rd s SEC_BOOTS) ++ leBytes 32 nonce.toNat ++ leBytes 4 s.part.fuse.toNat ++ leBytes 4 s.part.svn.toNat ++
  leBytes 1 (b2n (bit st 3) + b2n partScope * 2 + bits st 5 4 * 4 + bits st 7 6 * 16) ++ leBytes 1 0 ++ leBytes 2 ps.length ++
  leBytes 4 m ++ leBytes 3 (myEpc s 0).toNat ++ leBytes 13 0 ++ slice (Config.kemEk s.sec.kemSeed) 0 1184 ++ entries ++ ranges

/-- A body with its signature block of KIND 5 under the identity key (R376). -/
def signLocket (s : State) (body : List Byte) : List Byte :=
  let head := leBytes 2 5 ++ leBytes 2 0 ++ leBytes 4 body.length ++ shaBytes body ++
    leBytes 32 (Config.slhdsaPub s.sec.identity).toNat ++ leBytes 8 0
  body ++ head ++ slice (Config.slhdsaSign s.sec.identity head) 0 7856

/-- A signing begins now: it is one of the four of its second (R383). -/
def noteSigning (s : State) : State :=
  setSec s { s.sec with signedAt := s.now :: s.sec.signedAt.filter fun t => decide (s.now ≤ t + 1000000000) }

/-- A signing may begin (R383). -/
def maySign (s : State) : Bool :=
  s.sec.signing.isNone && decide ((s.sec.signedAt.filter fun t => decide (s.now ≤ t + 1000000000)).length < 4)

/-- Make the Locket of a signing: COUNTER rises (R382, R383). -/
def makeLocket (s : State) (partScope : Bool) (part : Nat) (nonce : BitVec 256) : List Byte × State :=
  let n := s.sec.locketCtr + 1
  let s := ev (setSec s { s.sec with locketCtr := n }) 13 1
  (signLocket s (locketBody s partScope part nonce n), s)

/-- LOCKET_SIGNED: Clasp finishes the Locket it signs and writes it to the buffer. -/
def locketSigned (s : State) : State :=
  match s.sec.signing with
  | none => s
  | some (w, scope, p, nonce, _) =>
    let x := makeLocket (setSec s { s.sec with signing := none }) scope p.toNat nonce
    claspWrite (wr x.2 (SEC_W_LEN w) x.1.length) (windowBuf x.2 w) x.1 w

/-- The answer to a write of Clasp's: once none of a window's is left, its Locket is there. -/
def claspAnswered (s : State) (w : Nat) : State :=
  if w < 5 && !(s.e2e.outs.any fun r => r.agent == .clasp w) then windowDone s w 1 0 else s

/-! ## Grants (R391-R393) -/

/-- A refused grant (R392). -/
def grantRefused (s : State) (w result : Nat) : State :=
  fault (ev (windowDone s w result 0) 2037 1) 0x0805 0 11 (myEpc s 0) (det [(16, 1, w), (17, 1, result)])

/-- The end points a grant lists: EPC, mailbox and encapsulation key. -/
def grantEntries (bs : List Byte) : List (Epc × BitVec 40 × List Byte) :=
  (List.range (leAt bs 7 1)).map fun k =>
    let o := 1184 + 1192 * k
    (BitVec.ofNat 24 (leAt bs o 3), BitVec.ofNat 40 (leAt bs (o + 3) 5), slice bs (o + 8) 1184)

/-- An end point attaches to this module by a port that admits the partition. -/
def attachedFor (s : State) (e : Epc) (p : Nat) : Bool :=
  (match seatPort s e with | some q => admits s q p | none => false) ||
  [0, 1].any fun j => sameSeat e (hostEpc s j 0) && boundFns s j p != []

/-- The layout of a grant holds (R391). -/
def grantForm (bs : List Byte) : Bool :=
  leAt bs 0 2 == 1 && leAt bs 2 2 != 0 && (leAt bs 6 1 == 1 || leAt bs 6 1 == 2) && decide (leAt bs 7 1 ≤ 64) &&
  bs.length == 1184 + 1192 * leAt bs 7 1 + sigLen

/-- The first check of R392 that fails; 1 when none does. -/
def grantResult (s : State) (bs : List Byte) : Nat :=
  let part := leAt bs 5 1
  let install := leAt bs 6 1 == 1
  let job := BitVec.ofNat 16 (leAt bs 2 2)
  let held := s.sec.jobKeys.any fun k => k.job == job && k.epoch.toNat == leAt bs 4 1 % 16
  if !sigValid bs 4 [cget 0 s.sec.owners part] || !partUsed s part then 7
  else if !grantForm bs then 3
  else if leAt bs 8 3 ≠ (myEpc s 0).toNat ||
      (install && (leAt bs 12 4 ≠ rd s SEC_BOOTS || slice bs 16 32 ≠ shaBytes (Config.kemEk s.sec.kemSeed))) then 10
  else if !((grantEntries bs).all fun e => attachedFor s e.1 part) ||
      s.sec.jobKeys.any (fun k => k.job == job && k.partition.toNat != part) then 2
  else if held == install then 8
  else if install && decide (4096 ≤ s.sec.jobKeys.length) then 9
  else 1

/-- Set the job keys held, and their number. -/
def setJobKeys (s : State) (ks : List JobKey) : State := wr (setSec s { s.sec with jobKeys := ks }) SEC_JOBKEYS ks.length

/-- A grant at the head of the queue (R391, R392). A wrapped key that does not open is refused as NOT_FOR_ME (log entry 37). -/
def takeGrant (s : State) (w : Nat) : State :=
  let bs := areaBytes s (windowBuf s w) (fldOf s (SEC_W_LEN w) 19 0)
  if 2 < w then grantRefused s w 5
  else if !areaOk s (windowBuf s w) (2 ^ 19) then grantRefused s w 3
  else
    let r := grantResult s bs
    let job := BitVec.ofNat 16 (leAt bs 2 2)
    let epoch := BitVec.ofNat 4 (leAt bs 4 1)
    if r ≠ 1 then grantRefused s w r
    else if leAt bs 6 1 = 2 then
      windowDone (setJobKeys s (s.sec.jobKeys.filter fun k => !(k.job == job && k.epoch == epoch))) w 1 0
    else match Config.gcmOpen (Config.kemOpen s.sec.kemSeed (slice bs 48 1088)) 0 [] (slice bs 1136 32) (BitVec.ofNat 128 (leAt bs 1168 16)) with
      | none => grantRefused s w 10
      | some kb =>
        let k : JobKey := { job := job, epoch := epoch, partition := BitVec.ofNat 8 (leAt bs 5 1), key := BitVec.ofNat 256 (leNat kb) }
        let s := ev (setJobKeys s (k :: s.sec.jobKeys)) 2036 1
        if leAt bs 7 1 = 0 then windowDone s w 1 0
        else
          let d : Delivery := { w := w, key := k, entries := grantEntries bs, index := 0, sent := 0, failed := none }
          setWState (setSec s { s.sec with delivery := some d }) w 3

/-- KEY_DELIVERY: the installed key goes to the next listed end point as ten WRITEs and a flagged WRITE_MASK (R393). -/
def deliverKey (s : State) : State :=
  match s.sec.delivery with
  | none => s
  | some d =>
    match d.sent, d.entries[d.index]? with
    | 0, some (e, box, ek) =>
      let x := Config.kemSeal ek (Config.free s.freeIdx)
      let s := takeFree s
      let g := Config.gcmSeal x.2 0 [] (leBytes 32 d.key.key.toNat)
      let bytes := leBytes 2 1 ++ leBytes 2 d.key.job.toNat ++ leBytes 1 d.key.epoch.toNat ++ leBytes 1 d.key.partition.toNat ++ leBytes 2 0 ++
        leBytes 3 (myEpc s 0).toNat ++ leBytes 5 0 ++ slice x.1 0 1088 ++ slice g.1 0 32 ++ leBytes 16 g.2.toNat ++ List.replicate 128 0
      let s := setSec s { s.sec with delivery := some { d with sent := 11 } }
      let s := forEach (List.range 10) s fun s n =>
        issue s { mkPkt opWRITE 1 e (myEpc s 0) (opfM (box.toNat + 128 * n) 0 0 0 0) (slice bytes (128 * n) 128) with
          partition := d.key.partition } (.delivery d.index) none
      let flag := leBytes 4 (d.key.job.toNat + d.key.epoch.toNat * 2 ^ 16) ++ List.replicate 124 0
      ev (issue s { mkPkt opWRITE_MASK 1 e (myEpc s 0) (opfM (box.toNat + 1280) 0 0 0 0) (leBytes 16 255 ++ flag) with
        partition := d.key.partition, flag := true } (.delivery d.index) none) 2038 1
    | _, _ => s

/-- A write of a delivery is answered: the first that is not OK writes DELIVERY_FAIL; the last ends the entry, and the last entry the
grant (R393). -/
def deliveryAnswered (s : State) (status : Nat) : State :=
  match s.sec.delivery with
  | none => s
  | some d =>
    let bad := decide (status ≠ stOK)
    let first := bad && d.failed != some d.index
    let e := match d.entries[d.index]? with | some x => x.1 | none => 0
    let s := if first then fault s 0x0808 2 11 e (det [(16, 2, d.key.job.toNat), (18, 1, d.key.epoch.toNat), (19, 1, d.index)]) else s
    let d := { d with sent := d.sent - 1, failed := if bad && d.failed.isNone then some d.index else d.failed }
    let d := if d.sent = 0 then { d with index := d.index + 1 } else d
    if d.sent = 0 && d.entries.length ≤ d.index then
      let s := setSec s { s.sec with delivery := none }
      match d.failed with
      | some k => windowDone s d.w 11 k
      | none => windowDone s d.w 1 0
    else setSec s { s.sec with delivery := some d }

/-! ## The queue (R372, R383) -/

/-- The window at the head of the queue is being validated. -/
def noteHead (s : State) : State :=
  match s.sec.queue with
  | .request w _ _ :: _ => setWState s w 2
  | .locket w _ _ _ _ :: _ => setWState s w 2
  | .grant w _ :: _ => setWState s w 2
  | _ => s

/-- Append to the queue. -/
def enqueue (s : State) (j : ClaspJob) : State := noteHead (setSec s { s.sec with queue := s.sec.queue ++ [j] })

/-- Drop the head of the queue. -/
def popQueue (s : State) : State := noteHead (setSec s { s.sec with queue := s.sec.queue.drop 1 })

/-- The items in a window's registers (R371). -/
def windowItems (s : State) (w count : Nat) : List Item :=
  (List.range count).map fun k =>
    (fldOf s (SEC_W_ITEMS w (4 * k)) 25 0, fldOf s (SEC_W_ITEMS w (4 * k + 1)) 7 0,
     BitVec.ofNat 64 (rd s (SEC_W_ITEMS w (4 * k + 2)) + rd s (SEC_W_ITEMS w (4 * k + 3)) * 2 ^ 32))

/-- A write of SEC_W_CMD by the window's owner (R371, R381, R391). -/
def windowCmd (s : State) (w op count : Nat) (scope : Bool) (part : Nat) (requester : Nat) : State :=
  let go (j : ClaspJob) : State := enqueue (setFld (setFld (setWState s w 1) (SEC_W_STATUS w) 7 3 0) (SEC_W_STATUS w) 15 8 0) j
  if op = 1 then (if 1 ≤ count && count ≤ 128 then go (.request w (windowItems s w count) requester) else s)
  else if op = 2 then
    let nonce := (List.range 8).foldl (fun a k => a + rd s (SEC_W_NONCE w k) * 2 ^ (32 * k)) 0
    go (.locket w scope (BitVec.ofNat 8 part) (BitVec.ofNat 256 nonce) s.now)
  else if op = 3 then go (.grant w s.now)
  else s

/-- CLASP_REQUEST_VALIDATED: the head of the queue, unless it is a configuration job (COMMIT_APPLY), or a Locket or grant that must
wait: for boot step 4 (R378), for its turn to be signed (R383), for the delivery of an earlier key. -/
def validateHead (s : State) : State :=
  let ready := bitOf s SEC_STATUS 8
  match s.sec.queue with
  | .request w items _ :: _ => takeRequest (popQueue s) w items
  | .swap items _ :: _ => takeRequest (popQueue s) 5 items
  | .locket w scope p nonce start :: _ =>
    if w = 4 || (w = 3 && scope) then refuseReq (popQueue s) w 5 0
    else if !areaOk s (windowBuf s w) (2 ^ 19) then refuseReq (popQueue s) w 3 0
    else if !ready || !maySign s then s
    else noteSigning (setWState (popQueue (setSec s { s.sec with signing := some (w, scope, p, nonce, start) })) w 3)
  | .grant w _ :: _ => if !ready || s.sec.delivery.isSome then s else takeGrant (popQueue s) w
  | _ => s

/-- LOCKET_RATE_TIMEOUT: a Locket request of a window not started within 2 s of its write (R383). -/
def locketLate (s : State) (w : Nat) : State :=
  match s.sec.queue.find? fun j => match j with | .locket v _ _ _ t => v == w && decide (t + 2000000000 ≤ s.now) | _ => false with
  | some j => refuseReq (noteHead (setSec s { s.sec with queue := s.sec.queue.erase j })) w 12 0
  | none => s

/-! ## Debug (R394, R395) -/

/-- DEBUG_COUNT bits still unburned. -/
def debugLeft (s : State) : Option Nat := (List.range 16).find? fun k => !bit s.part.fuse.toNat (16 + k)

/-- A debug token over JTAG in Waking after a power-on reset. Its body holds IDN_SERIAL in bytes 0-7 and BOOTS in bytes 8-11 (the layout
is the model's: log entry 38). A refused token changes nothing. -/
def debugToken (s : State) (t : List Byte) : State :=
  let body := sigBody t
  match debugLeft s with
  | none => s
  | some k =>
    if phase s ≠ 0 || !bitOf s PWR_RESET_CAUSE 0 || bit s.part.fuse.toNat 0 || !sigValid t 6 (fwAccepted s) || body.length ≠ 12 ||
        leAt body 0 8 ≠ s.part.serial.toNat || leAt body 8 4 ≠ s.cfg.boots.toNat then s
    else
      let s := setJobKeys s []
      let s := setSec s { s.sec with memKeys := [], keyMismatch := [], kemSeed := 0, identity := Config.hkdfIdentity s.part.seed s.part.serial true }
      let s := { s with part := { s.part with fuse := BitVec.ofNat 32 (setBits s.part.fuse.toNat (16 + k) (16 + k) 1) } }
      fault0 (setBitOf s SEC_STATUS 3 true) 0x0807 3 11

/-! ## The twin's Locket (R388) -/

/-- TWIN_LOCKET_RECEIVE: the twin's boot Locket is verified (R377, R29, R3); then each partition's keys go to it. -/
def takeTwinLocket (s : State) (l : List Byte) : State :=
  let ok := sigForm l 5 && Config.twinCertOk (sigKey l) && leAt l 0 4 == 1 && leAt l 240 3 == (twinEpc s 0).toNat && leAt l 16 4 == idnPart s
  if !ok || !(twinUp s) then s
  else
    let s := setTwin s { s.res.twin with locketOk := true, peerKem := slice l 256 1184 }
    forEach (partsUsed s) s sendKeys

/-- The twin link has entered service: the boot Locket goes out (R388). -/
def twinLocketSend (s : State) : State := if s.sec.bootLocket = [] then s else emit s (.twin (.locket s.sec.bootLocket))

/-! ## Firmware slots (R379) and the start sequence (R378) -/

/-- Bytes of the NVM device. -/
def nvmByte (s : State) (a : Nat) : Byte := sget (fun _ => (0xFF : Byte)) s.cfg.nvm a
/-- A byte string of the NVM device. -/
def nvmRead (s : State) (a n : Nat) : List Byte := (List.range n).map fun k => nvmByte s (a + k)

/-- Where a firmware slot stands (R398): Clasp A and B, Annex A and B. -/
def fwSlotAt (slot : Nat) : Nat := if slot = 0 then 0x40000 else if slot = 1 then 0xC0000 else if slot = 2 then 0x1000000 else 0x3000000
/-- The image in a firmware slot. -/
def fwImage (s : State) (slot : Nat) : List Byte := nvmRead s (fwSlotAt slot) (cget 0 s.cfg.fwLen slot)
/-- The fused floor of a KIND of firmware. -/
def fwFloor (s : State) (kind : Nat) : Nat := if kind = 1 then bits s.part.svn.toNat 15 0 else bits s.part.svn.toNat 31 16
/-- Reason for which a firmware image is rejected: 0 none, 1 signature, 2 below the floor. -/
def fwBad (s : State) (kind : Nat) (img : List Byte) : Nat :=
  if !sigValid img kind (fwAccepted s) then 1 else if sigSvn img < fwFloor s kind then 2 else 0

/-- Choose between slots A and B of a KIND (R379): 0 neither, 1 A, 2 B. Each image rejected writes IMAGE_REJECTED with the KIND, the
slot and the reason in bytes 16 to 18 (log entry 14); neither writes FIRMWARE_FALLBACK. -/
def chooseFw (s : State) (kind : Nat) : Nat × State :=
  let a := fwImage s (2 * (kind - 1))
  let b := fwImage s (2 * (kind - 1) + 1)
  let rej (s : State) (n : Nat) (img : List Byte) : State :=
    if img ≠ [] && fwBad s kind img ≠ 0 then fault s 0x0801 2 11 (myEpc s 0) (det [(16, 1, kind), (17, 1, n), (18, 1, fwBad s kind img)]) else s
  let okA := a ≠ [] && fwBad s kind a == 0
  let okB := b ≠ [] && fwBad s kind b == 0
  let s := rej (rej s 0 a) 1 b
  if okA && (!okB || sigSvn b ≤ sigSvn a) then (1, s)
  else if okB then (2, s)
  else (0, fault s 0x0802 3 11 (myEpc s 0) (det [(16, 1, kind)]))

/-- Step 2: the Clasp patch is chosen and applied. -/
def chooseClasp (s : State) : State :=
  let (n, s) := chooseFw s 1
  let d := if n = 0 then 0 else Config.sha256 (fwImage s (n - 1))
  setFld (setSec s { s.sec with claspDigest := d }) SEC_STATUS 5 4 n

/-- Step 5: Annex is chosen and started. -/
def chooseAnnex (s : State) : State :=
  let (n, s) := chooseFw s 2
  let d := if n = 0 then 0 else Config.sha256 (fwImage s (n + 1))
  setBitOf (setFld (setSec s { s.sec with annexDigest := d }) SEC_STATUS 7 6 n) SEC_STATUS 2 (n != 0)

/-- CLASP_BOOT_STEP: step 4 (0), 5 (1) or 6 (2), in order, after Reading (R378). -/
def bootStep (s : State) (n : Nat) : State :=
  if phase s < 2 || s.sec.bootStep ≠ n || (n == 2 && !maySign s) then s
  else
    let s := setSec s { s.sec with bootStep := n + 1 }
    if n = 0 then
      let x := draw256 s
      let s := setSec x.2 { x.2.sec with kemSeed := x.1, identity := Config.hkdfIdentity s.part.seed s.part.serial (bitOf s SEC_STATUS 3) }
      setBitOf (setBitOf s SEC_STATUS 1 true) SEC_STATUS 8 true
    else if n = 1 then chooseAnnex s
    else
      let x := makeLocket (noteSigning s) false 0 0
      let s := setSec x.2 { x.2.sec with bootLocket := x.1 }
      if twinUp s then twinLocketSend s else s

end Sys2Proof.Machine
end

