-- ==== Sys2Proof/Machine/Image.lean ====
section
/-! DEFINITION. The Ozten image (R401-R405): its directory, sections and records, the tables it stands for, and the checks Clasp makes. -/

namespace Sys2Proof.Machine

/-! ## The directory (R401) -/

/-- Directory entries in use. -/
def imgCount (img : List Byte) : Nat := leAt img 2 2

/-- Directory entry k: TYPE, OFFSET, LENGTH, CRC. -/
def imgEntry (img : List Byte) (k : Nat) : Nat × Nat × Nat × Nat :=
  let o := 48 + 16 * k
  (leAt img o 2, leAt img (o + 4) 4, leAt img (o + 8) 4, leAt img (o + 12) 4)

/-- The directory. -/
def imgDir (img : List Byte) : List (Nat × Nat × Nat × Nat) := (List.range (min (imgCount img) 16)).map (imgEntry img)

/-- Bytes of the section of a TYPE; none when the image has none. -/
def imgSection (img : List Byte) (ty : Nat) : List Byte :=
  match (imgDir img).find? fun e => e.1 == ty with
  | some e => slice img e.2.1 e.2.2.1
  | none => []

/-- VERSION. -/
def imgVersion (img : List Byte) : Nat := leAt img 8 8

/-- Where the sections end, by the directory. -/
def imgEnd (img : List Byte) : Nat := (imgDir img).foldl (fun a e => max a (e.2.1 + e.2.2.1)) 512

/-- Sections follow the directory's order from byte 512 without gaps, each a multiple of 16 bytes, TYPEs ascending (R401). -/
def dirOk : Nat → Nat → List (Nat × Nat × Nat × Nat) → Bool
  | _, _, [] => true
  | at_, ty, e :: es => decide (ty < e.1) && decide (e.1 ≤ 14) && e.2.1 == at_ && e.2.2.1 % 16 == 0 && dirOk (at_ + e.2.2.1) e.1 es

/-- The layout of header and directory (R401). -/
def imgLayoutOk (img : List Byte) : Bool :=
  leAt img 0 2 == 1 && decide (1 ≤ imgCount img) && decide (imgCount img ≤ 16) && imgVersion img != 0 && decide (img.length ≤ 48 * 2 ^ 20) &&
  dirOk 512 0 (imgDir img) && img.length == imgEnd img + sigLen &&
  (slice img (48 + 16 * imgCount img) (512 - (48 + 16 * imgCount img))).all (· == 0)

/-- The first directory entry whose CRC fails (R401, R405). -/
def imgBadCrc (img : List Byte) : Option Nat :=
  (List.range (min (imgCount img) 16)).find? fun k =>
    let e := imgEntry img k
    decide ((crc32c (slice img e.2.1 e.2.2.1)).toNat ≠ e.2.2.2)

/-! ## Items and records (R402, R403) -/

/-- The items of a section. -/
def sectionItems (bs : List Byte) : List Item :=
  (List.range (bs.length / 16)).map fun k =>
    (leAt bs (16 * k) 4 % 2 ^ 26, leAt bs (16 * k + 4) 1, BitVec.ofNat 64 (leAt bs (16 * k + 8) 8))

/-- The item sections. -/
def itemTypes : List Nat := [1, 3, 4, 5, 6, 8, 9, 10, 11, 12, 13]

/-- A section's items must lie in the blocks shown for it (R402). -/
def typeHolds (ty off : Nat) : Bool :=
  let b := blockOf off
  let mask := decide (SWC_MASK 0 0 ≤ off) && decide (off < SWC_MASK 4096 0)
  match ty with
  | 1 => b == 3 && decide (LNK_LANE_STATUS 0 ≤ off)
  | 3 => b == 4 && !mask
  | 4 => mask
  | 5 => b == 5 || b == 6
  | 6 => b == 8
  | 8 => b == 2
  | 9 => b == 12
  | 10 => b == 7
  | 11 => b == 9
  | 12 => b == 11
  | 13 => off == CFG_PROBATION
  | _ => false

/-- Fields an image may set: RWC and RW. -/
def imgFields (s : State) (off : Nat) : List FieldRow :=
  match findReg s.part.hz7134 off with
  | some (r, _, w) => r.fields.filter fun f => f.word == w && (f.acc == .rwc || f.acc == .rw)
  | none => []

/-- An item of an image is well formed. -/
def imgItemOk (s : State) (ty : Nat) (it : Item) : Bool :=
  (it.2.1 == 4 || it.2.1 == 8) && it.1 % it.2.1 == 0 && (itemWords it).all fun (o, v) =>
    typeHolds ty o && !(imgFields s o).isEmpty && (imgFields s o).all fun f => legalEnc f (bits v f.hi f.lo)

/-- All items of an image. -/
def imgItems (img : List Byte) : List Item := itemTypes.flatMap fun ty => sectionItems (imgSection img ty)

/-- A port record (R403). -/
structure PortRec where
  port : Nat
  cfg : Nat
  expect : Nat
  credit : List Nat
  adm : List Byte

/-- The port records. -/
def portRecs (img : List Byte) : List PortRec :=
  let bs := imgSection img 2
  (List.range (bs.length / 64)).map fun k =>
    let o := 64 * k
    { port := leAt bs o 2, cfg := leAt bs (o + 4) 4, expect := leAt bs (o + 8) 4,
      credit := (List.range 6).map fun c => leAt bs (o + 12 + 2 * c) 2, adm := slice bs (o + 32) 32 }

/-- The partition records: ID, MIRROR, OWNER_DIGEST. -/
def partRecs (img : List Byte) : List (Nat × Bool × BitVec 256) :=
  let bs := imgSection img 7
  (List.range (bs.length / 64)).map fun k =>
    (leAt bs (64 * k) 1, bit (leAt bs (64 * k + 1) 1) 0, BitVec.ofNat 256 (leAt bs (64 * k + 32) 32))

/-- Initial credits by class: least and most (R108). -/
def creditRange : List (Nat × Nat) := [(64, 512), (64, 1024), (32, 512), (64, 1024), (68, 2047), (17, 1024)]

/-- A port's configuration word: legal encodings, and MIN_WIDTH within the width (R92). -/
def portCfgOk (s : State) (p v : Nat) : Bool :=
  (imgFields s (LNK_PORT_CFG p)).all (fun f => legalEnc f (bits v f.hi f.lo)) && decide (bits v 7 4 ≤ 2 ^ (bits v 3 1 - 1))

/-- A port record is well formed (R403, R108). A record of a disabled port may hold a zero CFG. -/
def portRecOk (s : State) (r : PortRec) : Bool :=
  (portExists s r.port || (decide (512 ≤ r.port) && decide (r.port ≤ 517))) &&
  ((r.credit.zip creditRange).all fun (v, lo, hi) => decide (lo ≤ v) && decide (v ≤ hi)) &&
  (if r.port < 512 then r.cfg == 0 || portCfgOk s r.port r.cfg else r.cfg == 0 && r.expect == 0 && r.adm.all (· == 0))

/-- Credits of the six internal ingress points a record does not give: the default of R160. -/
def defaultCredit : List Nat := [64, 256, 128, 512, 768, 256]

/-- The credits of a port or internal ingress point in an image. -/
def imgCredit (img : List Byte) (p : Nat) : List Nat :=
  match (portRecs img).find? fun r => r.port == p with
  | some r => r.credit
  | none => if 512 ≤ p then defaultCredit else [0, 0, 0, 0, 0, 0]

/-! ## The tables of an image (R404) -/

/-- Every RWC field at zero: what an image does not name (log entry 1). -/
def clearedTables (s : State) : State :=
  { s with regs := s.regs.foldl (fun r e => sset regReset r e.1 (BitVec.ofNat 32 (rwcMerge s e.1 e.2.toNat 0))) s.regs }

/-- A word as an item of an image leaves it. -/
def imgMerge (s : State) (off old v : Nat) : Nat := (imgFields s off).foldl (fun a f => setBits a f.hi f.lo (bits v f.hi f.lo)) old

/-- Write a word of an image. -/
def imgWrite (s : State) (off v : Nat) : State := wr s off (imgMerge s off (rd s off) v)

/-- The running tables an image stands for, without the partition set; `none` stands for the unconfigured module (R406). -/
def imageTables (s : State) (img : Option (List Byte)) : State :=
  let s := clearedTables s
  match img with
  | none => s
  | some img =>
    let s := forEach (imgItems img) s fun s it => forEach (itemWords it) s fun s (o, v) => imgWrite s o v
    let s := forEach (portRecs img) s fun s r =>
      if r.port < 258 then
        let s := imgWrite (imgWrite s (LNK_PORT_CFG r.port) r.cfg) (LNK_PORT_EXPECT r.port) r.expect
        if r.port < 256 then forEach (List.range 8) s fun s w => wr s (SEC_ADMIT r.port w) (leAt r.adm (4 * w) 4) else s
      else s
    forEach (partRecs img) s fun s (p, m, _) => setBitOf s (SEC_PART_MIRROR (p / 32)) (p % 32) m

/-- The partition set of an image; partition 0 alone without one. -/
def imgParts (img : Option (List Byte)) : List Nat := match img with | some i => (partRecs i).map (·.1) | none => [0]

/-- The tables with an image's partition set in use as well. -/
def withParts (s : State) (ps : List Nat) : State :=
  let s := forEach (List.range 8) s fun s w => wr s (SEC_PART_USE w) 0
  let s := forEach ps s fun s p => setBitOf s (SEC_PART_USE (p / 32)) (p % 32) true
  setFld s SEC_STATUS 17 9 (partsUsed s).length

/-- The registers R404 wants named, given the image's tables. -/
def requiredWords (t : State) : List Nat :=
  let ports := (List.range (nPorts t)).filter (portEnabled t)
  let ctxs := (List.range 16).filter (ctxEnabled t)
  [CFG_PROBATION, PWR_CFG, PWR_IDLE_CFG, SWC_ROLE, SWC_HASH_SEED, SWC_BUF_CFG, SWC_DRAIN_CFG] ++ (List.range 4).map SWC_SHOST ++
  ports.flatMap (fun p => [0, 4, 8, 0xC, 0x10, 0x14, 0x18, 0x1C, 0x20].map (SWC_C0_POLICE p + ·)) ++
  [HOM_HOT_CFG, HOM_TIMEOUT, HOM_CONVOY, MEM_TRAIN_CFG, MEM_SCRUB_CFG, HAL_SLICE_FRAME] ++
  ctxs.flatMap (fun c => [0, 4, 8, 0xC, 0x10, 0x14, 0x18, 0x20, 0x24].map (HAL_CTX_CFG c + ·)) ++
  [COL_TIMEOUT, FLT_RING_CFG, FLT_RING_BASE, FLT_RING_BASE + 4, FLT_SUSPECT_CFG, FLT_WINDOW, FLT_TWIN_CFG, FLT_ALIAS_CFG,
   FLT_ALIAS_OFFSET, FLT_ALIAS_OFFSET + 4, FLT_STANDBY_BASE, FLT_STANDBY_BASE + 4, HST_PORT_CFG 0, HST_PORT_CFG 1, HST_ALERT_MASK] ++
  [0, 1].flatMap (fun j => (List.range 128).map (HST_FN_CFG j)) ++ (List.range 64).map CNT_SLOT_OWNER

/-- R404: every such register is named, partition 0 has a record, and no ID appears twice. -/
def imgComplete (img : List Byte) (t : State) : Bool :=
  let named := (imgItems img).flatMap fun it => (itemWords it).map (·.1)
  (requiredWords t).all named.contains && (imgParts (some img)).contains 0 && (imgParts (some img)).Nodup && ((portRecs img).map PortRec.port).Nodup

/-- R23, R26, R28: the partner each enabled fabric port must expect in the image's role; none where the role does not use the port. -/
def wiredTo (t : State) (p : Nat) : Option Epc :=
  let down := if t.part.hz7134 then 32 else 64
  let b := podB t
  if !isTier2 t then
    if p < down then some (mkEpc (myPlane t) (myRack t) (myHalf t * down + p) 0)
    else if p < down + podT t * b then some (mkEpc (myPlane t) 255 ((p - down) / b) 0)
    else none
  else if p < (tier2Ports t).ports.length then
    some (mkEpc (myPlane t) (p / b / nHalves t) (128 + p / b % nHalves t) 0)
  else none

/-- R28 over the image's tables. -/
def imgWired (t : State) : Bool :=
  (List.range (nPorts t)).all fun p => !portEnabled t p ||
    (match wiredTo t p with | some e => fldOf t (LNK_PORT_EXPECT p) 23 0 == e.toNat | none => false)

/-- R160: credits, COMB_OUT, mirror cells and RESERVE within the shared buffer. -/
def imgCreditsOk (img : List Byte) (t : State) : Bool :=
  let ps := (List.range (nPorts t)) ++ [256, 257, 512, 513, 514, 515, 516, 517]
  decide ((ps.map fun p => (imgCredit img p).sum).sum + fldOf t SWC_BUF_CFG 19 0 + 1024 + fldOf t SWC_BUF_CFG 27 20 * 1024 ≤ 786432)

/-- The format checks of R405 beside those of the tables. -/
def imgFormOk (s : State) (img : List Byte) (t : State) : Bool :=
  imgLayoutOk img && (itemTypes.all fun ty => (imgSection img ty).length % 16 == 0 && (sectionItems (imgSection img ty)).all (imgItemOk s ty)) &&
  (imgSection img 2).length % 64 == 0 && (imgSection img 7).length % 64 == 0 && (portRecs img).all (portRecOk s) && imgComplete img t &&
  imgWired t && imgCreditsOk img t && (List.range 256).all (fun p => decide (fldOf t (SWC_TCM_RATE p) 15 0 ≤ fldOf t (SWC_TCM_RATE p) 31 16))

/-- R386: a partition that is to leave use still owns an admission or job key. Regions, contexts, groups and functions are held to the
new partition set by R373 and R447. -/
def partsFree (s t : State) : Bool :=
  (s.sec.jobKeys.all fun k => partUsed t k.partition.toNat) && (admitPorts t).all fun p => (admitted t p).all (partUsed t)

/-- The checks of R405, in order: RESULT (1 when all pass) and SECTION. `a` holds the tables whose entries may not change in ways
R238 and R373 forbid: the running tables for a commit, the image's own otherwise. -/
def imageCheck (s : State) (img : List Byte) (live : Bool) : Nat × Nat :=
  let t := withParts (imageTables s (some img)) (imgParts (some img))
  let a := if live then s else t
  let offs := t.regs.map (·.1)
  let less := leAt img 32 1 % 16
  if !sigValid img 3 (opAccepted s 0) then (2, 0)
  else match imgBadCrc img with
    | some k => (3, k)
    | none =>
      if leAt img 16 4 ≠ idnPart s || (leAt img 20 8 ≠ 0 && leAt img 20 8 ≠ s.part.serial.toNat) then (4, 0)
      else if !imgFormOk s img t || !formatOk a t offs then (6, 0)
      else if !sigValid img 3 (opAccepted s less) then (8, 0)
      else if !isolated a t || !partsFree s t then (7, 0)
      else (1, 0)

end Sys2Proof.Machine
end

