-- ==== Sys2Proof/Machine/Cfg.lean ====
section
/-! DEFINITION. Configuration (chapter 14): the NVM and its roles (R398-R400), reading at start (R406), staging (R408, R409), commit
(R410-R412), probation (R413, R414), return (R415-R417) and the persistent fault summary (R365, R418). -/

namespace Sys2Proof.Machine

/-- Change the configuration state. -/
def setCfg (s : State) (c : Cfg) : State := { s with cfg := c }
/-- STATE of CFG_STATUS: 0 idle, 1 staging, 2 checking, 3 committing, 4 returning, 5 summary. -/
def cfgState (s : State) : Nat := fldOf s CFG_STATUS 6 4
def setCfgState (s : State) (v : Nat) : State := setFld s CFG_STATUS 6 4 v
/-- RESULT and SECTION of CFG_RESULT. -/
def setResult (s : State) (r sec : Nat) : State := setFld (setFld s CFG_RESULT 4 0 r) CFG_RESULT 11 8 sec

/-! ## The NVM (R398-R400) -/

/-- Where a configuration slot stands. -/
def cfgSlotAt (k : Nat) : Nat := 0x5000000 + 0x3000000 * k
/-- Where a summary block stands. -/
def sumBlockAt (k : Nat) : Nat := 0x30000 + 4096 * k

/-- Program a byte string. -/
def nvmWrite (s : State) (a : Nat) (bs : List Byte) : State :=
  setCfg s { s.cfg with nvm := (bs.zipIdx).foldl (fun m e => sset (fun _ => (0xFF : Byte)) m (a + e.2) e.1) s.cfg.nvm }

/-- Erase a range. -/
def nvmErase (s : State) (lo hi : Nat) : State :=
  setCfg s { s.cfg with nvm := s.cfg.nvm.filter fun e => !(decide (lo ≤ e.1) && decide (e.1 < hi)) }

/-- An NVM access failed: NVM_FAULT and NVM_ERROR (R400). -/
def nvmError (s : State) : State := fault0 (setBitOf s CFG_STATUS 7 true) 0x090A 3 11

/-- The image in a configuration slot, its length by its directory; none for no slot. -/
def slotImage (s : State) (k : Nat) : Option (List Byte) :=
  if k < 3 then
    let head := nvmRead s (cfgSlotAt k) 512
    some (nvmRead s (cfgSlotAt k) (min (imgEnd head + sigLen) (48 * 2 ^ 20)))
  else none

/-- The roles, written with SEQ one higher (R399). -/
def setRoles (s : State) (r : Roles) : State := setCfg s { s.cfg with roles := { r with seq := s.cfg.roles.seq + 1 } }

/-- Eight words of a digest register. -/
def setDigest (s : State) (off : Nat) (d : BitVec 256) : State :=
  forEach (List.range 8) s fun s w => wr s (off + 4 * w) (d.toNat / 2 ^ (32 * w) % 2 ^ 32)

/-- The registers that show the roles (R420). -/
def showRoles (s : State) : State :=
  let r := s.cfg.roles
  let ver (o : Option (List Byte)) : Nat := match o with | some i => imgVersion i | none => 0
  let s := wr64 s CFG_CUR_VERSION (ver (slotImage s r.current))
  let s := wr64 s CFG_PREV_VERSION (ver (slotImage s r.previous))
  let full := r.stgState != 0 && r.stgState != 1
  let s := wr64 s CFG_STG_VERSION (if full then ver (slotImage s r.staged) else 0)
  let s := setDigest s CFG_STG_DIGEST (match slotImage s r.staged, full with | some i, true => Config.sha256 i | _, _ => 0)
  setBitOf (setFld s CFG_STG_STATE 2 0 r.stgState.toNat) CFG_STATUS 2 r.probation

/-- The image the module runs. -/
def runningImage (s : State) : Option (List Byte) :=
  match fldOf s CFG_STATUS 1 0 with
  | 0 => slotImage s s.cfg.roles.current
  | 1 => slotImage s s.cfg.roles.previous
  | _ => none

/-- CFG_CUR_DIGEST: the image now running, zero when unconfigured. -/
def showRunning (s : State) : State :=
  setDigest s CFG_CUR_DIGEST (match runningImage s with | some i => Config.sha256 i | none => 0)

/-! ## Partition set, owners and credits of an image -/

/-- Put an image's owner keys and initial credits in place (R107, R377, R403). -/
def imageOwners (s : State) (img : Option (List Byte)) : State :=
  let own := match img with
    | some i => (partRecs i).foldl (fun m (p, _, d) => cset (0 : BitVec 256) m p d) []
    | none => []
  setSec s { s.sec with owners := own }

/-- Initial credits of the ports and of the six internal ingress points (keys 512-517). -/
def imageCredits (s : State) (img : Option (List Byte)) : State :=
  match img with
  | none => s
  | some i => forEach (List.range (nPorts s) ++ [256, 257, 512, 513, 514, 515, 516, 517]) s fun s p =>
      let c := imgCredit i p
      setLink s p { link s p with init := Vector.ofFn fun k => c.getD k.val 0 }

/-- The image's CREDITs differ from those in force. -/
def creditsDiffer (s : State) (img : List Byte) : Bool :=
  (List.range (nPorts s) ++ [256, 257, 512, 513, 514, 515, 516, 517]).any fun p => (link s p).init.toList != imgCredit img p

/-! ## Reading at start (R406) -/

/-- Load an image's tables, or the unconfigured ones. -/
def loadImage (s : State) (img : Option (List Byte)) (source : Nat) : State :=
  let s := withParts (imageTables s img) (imgParts img)
  showRunning (setFld (imageCredits (imageOwners s img) img) CFG_STATUS 1 0 source)

/-- An image passes the checks of R405 at start. -/
def passes (s : State) (img : Option (List Byte)) : Bool :=
  match img with | some i => (imageCheck s i false).1 == 1 | none => false

/-- The roles as step 2 of R415 writes them: as before the commit, the returned image Staged and returned. -/
def returnedRoles (s : State) : Roles :=
  let b := s.cfg.before
  let gone := s.cfg.roles.current
  { b with staged := gone, stgState := 4, probation := false, resetCommit := false, previous := if b.previous = gone then 3 else b.previous }

/-- CONFIG_RETURNED with the failing event in byte 16 (log entry 14). -/
def configReturned (s : State) (cause : Nat) : State := fault s 0x0908 3 11 (myEpc s 0) (det [(16, 1, cause)])

/-- BOOTS rises (R382). -/
def countBoot (s : State) : State :=
  let s := setCfg s { s.cfg with boots := s.cfg.boots + 1 }
  wr s SEC_BOOTS s.cfg.boots.toNat

/-- Choose and load the image (R406, R411, R416). -/
def readConfig (s : State) : State :=
  let r := s.cfg.roles
  let s := if r.probation && !r.resetCommit then configReturned (setRoles s (returnedRoles s)) 255
    else if r.probation then
      let s := setRoles s { r with resetCommit := false }
      if passes s (slotImage s r.current) then s else configReturned (setRoles s (returnedRoles s)) 255
    else s
  let cur := slotImage s s.cfg.roles.current
  let prev := slotImage s s.cfg.roles.previous
  let s := if passes s cur then loadImage s cur 0
    else
      let s := fault0 s 0x0901 3 11
      if passes s prev then loadImage s prev 1 else fault0 (loadImage s none 2) 0x0902 4 11
  showRoles (countBoot s)

/-! ## Staging (R408, R409) -/

/-- CFG_BUF. -/
def cfgBuf (s : State) : Nat := rd64 s CFG_BUF

/-- A command that finds STATE not idle is discarded with RESULT BUSY (R420). -/
def ifIdle (s : State) (f : State → State) : State := if cfgState s = 0 then f s else setResult s 10 0

/-- The slot that STAGE erases: the Staged one, else the first that holds no role. -/
def stageSlot (s : State) : Nat :=
  let r := s.cfg.roles
  if r.staged < 3 then r.staged else ((List.range 3).find? fun k => k != r.current && k != r.previous).getD 3

/-- OP STAGE. -/
def stageCmd (s : State) : State :=
  ifIdle s fun s =>
    if s.cfg.roles.probation then setResult s 10 0
    else if !areaOk s (cfgBuf s) (fldOf s CFG_LEN 25 0) then fault0 (setResult s 6 0) 0x0904 0 11
    else
      let k := stageSlot s
      let s := setRoles s { s.cfg.roles with staged := k, stgState := 1 }
      let s := nvmErase s (cfgSlotAt k) (cfgSlotAt k + 0x3000000)
      showRoles (setCfgState (setResult (setCfg s { s.cfg with stageLen := fldOf s CFG_LEN 25 0 }) 0 0) 1)

/-- STAGING_COMPLETE: written, read back and checked. -/
def stagingEnds (s : State) (nvmErr : Bool) : State :=
  if cfgState s ≠ 1 || s.cfg.roles.stgState ≠ 1 then s
  else
    let k := s.cfg.roles.staged
    let img := areaBytes s (cfgBuf s) s.cfg.stageLen
    let s := nvmWrite s (cfgSlotAt k) img
    let cur := match slotImage s s.cfg.roles.current with | some i => imgVersion i | none => 0
    let chk := if nvmErr then (15, 0) else imageCheck s img false
    let chk := if chk.1 = 1 && decide (imgVersion img ≤ cur) then (5, 0) else chk
    let s := if nvmErr then nvmError s else s
    let s := setCfgState (setResult (setRoles s { s.cfg.roles with stgState := if chk.1 = 1 then 2 else 3 }) chk.1 chk.2) 0
    let s := if chk.1 = 1 then fault0 s 0x0903 0 11 else fault s 0x0904 0 11 (myEpc s 0) (det [(16, 1, chk.1)])
    showRoles s

/-- OP STAGE_FW. -/
def stageFwCmd (s : State) (annex : Bool) : State :=
  ifIdle s fun s =>
    if s.cfg.roles.probation then setResult s 10 0
    else setCfgState (setResult (setCfg s { s.cfg with fwAnnex := annex, stageLen := fldOf s CFG_LEN 25 0 }) 0 0) 1

/-- STAGE_FW_DONE: the image is checked and written to the slot that is not running (R409). -/
def stageFwEnds (s : State) (nvmErr : Bool) : State :=
  if cfgState s ≠ 1 || s.cfg.roles.stgState = 1 then s
  else
    let kind := if s.cfg.fwAnnex then 2 else 1
    let running := if s.cfg.fwAnnex then fldOf s SEC_STATUS 7 6 else fldOf s SEC_STATUS 5 4
    let slot := 2 * (kind - 1) + (if running = 1 then 1 else 0)
    let img := areaBytes s (cfgBuf s) s.cfg.stageLen
    let s := setCfgState s 0
    if nvmErr then setResult (nvmError s) 15 0
    else if !areaOk s (cfgBuf s) img.length || (if kind = 1 then 0x80000 else 0x2000000) < img.length then setResult s 6 0
    else match fwBad s kind img with
      | 0 =>
        let s := nvmErase s (fwSlotAt slot) (fwSlotAt slot + (if kind = 1 then 0x80000 else 0x2000000))
        let s := nvmWrite s (fwSlotAt slot) img
        setResult (setCfg s { s.cfg with fwLen := cset 0 s.cfg.fwLen slot img.length }) 1 0
      | 1 => setResult s 2 0
      | _ => setResult s 5 0

/-! ## Applying an image (R410) -/

/-- The drain and change owner of a job. -/
def jobOwner : CfgJob → DrainOwner
  | .back _ => .returnJob
  | _ => .commitJob

/-- The image a job applies. -/
def jobImage (s : State) (j : CfgJob) : Option (List Byte) :=
  match j with
  | .commit => slotImage s s.cfg.roles.staged
  | .previous => slotImage s s.cfg.roles.previous
  | .back _ => slotImage s s.cfg.before.current

/-- The words by which an image's tables differ from the running ones, the partition set aside. -/
def imageDiff (s : State) (img : Option (List Byte)) : List (Nat × Word) :=
  let t := imageTables s img
  ((s.regs.map (·.1) ++ t.regs.map (·.1)).eraseDups.filter fun o => rd s o != rd t o).map fun o => (o, sget regReset t.regs o)

/-- Partitions that enter use: their bits, owners and keys (step 1). -/
def enterParts (s : State) (img : Option (List Byte)) : State :=
  let old := partsUsed s
  let new := (imgParts img).filter fun p => !old.contains p
  let own := match img with
    | some i => (partRecs i).foldl (fun m (p, _, d) => cset (0 : BitVec 256) m p d) s.sec.owners
    | none => s.sec.owners
  forEach new (withParts (setSec s { s.sec with owners := own }) (old ++ new)) partitionEnters

/-- Partitions that leave use (step 7). -/
def leaveParts (s : State) (img : Option (List Byte)) : State :=
  let keep := imgParts img
  let gone := (partsUsed s).filter fun p => !keep.contains p
  forEach gone (withParts (imageOwners s img) keep) partitionLeaves

/-- A commit ends without effect. -/
def commitFails (s : State) (result sec : Nat) : State :=
  let s := setCfgState (setResult (setCfg s { s.cfg with job := none, stage := 0 }) result sec) 0
  fault s 0x0906 0 11 (myEpc s 0) (det [(16, 1, result)])

/-- Probation starts (R413). -/
def startProbation (s : State) : State :=
  let base := rd64 s SWC_DISC_UNROUTE + rd64 s SWC_DISC_DEADPORT
  setCfg s { s.cfg with probEnd := s.now + 30000000000, probBase := base, failed := 0,
                        probPorts := (allPorts s).filter fun p => inService s p && portEnabled s p }

/-- The roles after a commit (step 8, R417). -/
def committedRoles (r : Roles) (j : CfgJob) (reset : Bool) : Roles :=
  match j with
  | .previous => { r with current := r.previous, previous := r.current, probation := true, resetCommit := reset }
  | _ => { r with current := r.staged, previous := r.current, staged := r.previous, stgState := 0, probation := true, resetCommit := reset }

/-- Steps 7 and 8, or those of a return (R415). -/
def jobEnds (s : State) (j : CfgJob) : State :=
  let img := jobImage s j
  let s := leaveParts s img
  let s := setCfg s { s.cfg with job := none, stage := 0 }
  let s := { s with sec := { s.sec with applying := s.sec.applying.filter fun a => a.owner != jobOwner j } }
  match j with
  | .back cause =>
    let s := setRoles s (returnedRoles s)
    let s := setFld (setCfg s { s.cfg with failed := 0 }) CFG_STATUS 1 0 (if s.cfg.roles.current < 3 then 0 else 2)
    configReturned (setCfgState (setResult (showRunning (showRoles s)) 1 0) 0) cause
  | _ =>
    let s := setRoles (setCfg s { s.cfg with before := s.cfg.roles }) (committedRoles s.cfg.roles j false)
    let s := setBitOf (setFld s CFG_STATUS 1 0 0) CFG_STATUS 3 false
    startProbation (fault0 (setCfgState (setResult (showRunning (showRoles s)) 1 0) 0) 0x0905 0 11)

/-- Stage 4: the tables are awaited. -/
def jobStage4 (s : State) (j : CfgJob) : State :=
  match s.sec.applying.find? fun a => a.owner == jobOwner j with
  | some a => if applyDone s a then jobEnds s j else s
  | none => s

/-- Stage 3: steps 3 to 6. -/
def jobStage3 (s : State) (j : CfgJob) : State :=
  let ws := (imageDiff s (jobImage s j)).filter fun e => blockOf e.1 != 4
  jobStage4 (applyTables (setCfg s { s.cfg with stage := 4 }) (jobOwner j) ws) j

/-- Stage 1: step 2, once no other drain runs. -/
def jobStage1 (s : State) (j : CfgJob) : State :=
  let sw := (imageDiff s (jobImage s j)).filter fun e => blockOf e.1 == 4
  if sw = [] then jobStage3 (setCfg s { s.cfg with stage := 3 }) j
  else if s.sw.drain.isSome then s
  else startDrain (setCfg s { s.cfg with stage := 2 }) (jobOwner j) sw []

/-- Carry the job on as far as it goes. -/
def progressJob (s : State) : State :=
  match s.cfg.job with
  | none => s
  | some j =>
    match s.cfg.stage with
    | 1 => jobStage1 s j
    | 2 => if s.sw.drain.any fun d => d.owner == jobOwner j && fldOf s SWC_DRAIN_STATUS 1 0 != 3 then s else jobStage3 s j
    | 3 => jobStage3 s j
    | _ => jobStage4 s j

/-- Carry on every change under way: Clasp's and the configuration's. -/
def progress (s : State) : State := progressJob (progressRequests s)

/-- A job starts: the partitions that enter use first (step 1). -/
def startJob (s : State) (j : CfgJob) : State :=
  let s := enterParts s (jobImage s j)
  progressJob (setCfg s { s.cfg with job := some j, stage := 1 })

/-- The drain of a job is abandoned (R410, R415): a commit ends with ABANDONED and the partitions it added leave use again; a return is
tried again. -/
def jobAbandoned (s : State) (o : DrainOwner) : State :=
  match s.cfg.job with
  | some (.back c) => if o = .returnJob then progressJob (setCfg s { s.cfg with job := some (.back c), stage := 1 }) else s
  | some _ =>
    if o = .commitJob then
      let s := leaveParts s (runningImage s)
      commitFails s 14 0
    else s
  | none => s

/-! ## COMMIT, CONFIRM, RETURN -/

/-- OP COMMIT (R410, R412). -/
def commitCmd (s : State) (reset : Bool) : State :=
  if cfgState s ≠ 0 then setResult s 10 0
  else
    let st := s.cfg.roles.stgState.toNat
    if st ≠ 2 then commitFails s (if st = 4 then 12 else 11) 0
    else if s.cfg.roles.probation then commitFails s 10 0
    else enqueue (setCfgState (setResult s 0 0) 3) (.commitImage reset)

/-- The offsets that cannot change live (R411). -/
def needsReset (ws : List (Nat × Word)) : Bool :=
  ws.any fun e => e.1 == SWC_ROLE || e.1 == SWC_HASH_SEED || e.1 == SWC_BUF_CFG || e.1 == FLT_RING_BASE || e.1 == FLT_RING_BASE + 4

/-- COMMIT_APPLY, but for the module reset: the state, and whether one is to follow (R410, R411, R417). -/
def commitApply (s : State) : State × Bool :=
  let go (j : CfgJob) (reset : Bool) : State × Bool :=
    if s.sw.drain.isSome || s.cfg.job.isSome then (s, false)
    else
      let s := popQueue s
      match jobImage s j with
      | none => (commitFails s 13 0, false)
      | some img =>
        let chk := imageCheck s img (!reset)
        if chk.1 ≠ 1 then (commitFails s chk.1 chk.2, false)
        else if reset then
          let s := setRoles (setCfg s { s.cfg with before := s.cfg.roles }) (committedRoles s.cfg.roles j true)
          (setCfgState (setResult (showRoles s) 1 0) 0, true)
        else if needsReset (imageDiff s (some img)) || creditsDiffer s img then (commitFails s 9 0, false)
        else (startJob s j, false)
  match s.sec.queue with
  | .commitImage reset :: _ => go .commit reset
  | .returnImage :: _ => go .previous false
  | _ => (s, false)

/-- OP RETURN (R415, R417). -/
def returnCmd (s : State) : State :=
  if s.cfg.roles.probation then
    if s.cfg.job.isSome then setResult s 10 0 else startJob (setCfgState (setResult s 0 0) 4) (.back 0)
  else ifIdle s fun s =>
    if 3 ≤ s.cfg.roles.previous then setResult s 13 0
    else enqueue (setCfgState (setResult s 0 0) 4) .returnImage

/-- FLOOR_RAISED (R414); the layout of its details is the model's (log entry 14): which fuse, and its value. -/
def floorRaised (s : State) (which v : Nat) : State := fault s 0x0909 0 11 (myEpc s 0) (det [(16, 1, which), (18, 2, v)])

/-- Raise a floor to the lower of the request and the SVN now running (R379, R414). -/
def raiseFloor (s : State) (kind req : Nat) : State :=
  let slot := if kind = 1 then fldOf s SEC_STATUS 5 4 else fldOf s SEC_STATUS 7 6
  let run := if slot = 0 then 0 else sigSvn (fwImage s (2 * (kind - 1) + slot - 1))
  let v := min req run
  if v ≤ fwFloor s kind then s
  else
    let w := if kind = 1 then setBits s.part.svn.toNat 15 0 v else setBits s.part.svn.toNat 31 16 v
    floorRaised { s with part := { s.part with svn := BitVec.ofNat 32 w } } (kind - 1) v

/-- Probation ends with success (R414). -/
def probationEnds (s : State) : State :=
  match s.cfg.roles.probation, slotImage s s.cfg.roles.current with
  | true, some img =>
    let s := showRoles (setRoles s { s.cfg.roles with probation := false })
    let s := setCfg s { s.cfg with probEnd := 0, failed := 0, probPorts := [] }
    let s := fault0 s 0x0907 0 11
    let s := raiseFloor (raiseFloor s 1 (leAt img 28 2)) 2 (leAt img 30 2)
    let rev := leAt img 32 1 % 16
    let old := bits s.part.fuse.toNat 8 5
    let new := Nat.lor old rev
    if new = old then s
    else floorRaised { s with part := { s.part with fuse := BitVec.ofNat 32 (setBits s.part.fuse.toNat 8 5 new) } } 2 new
  | _, _ => s

/-- Probation fails: the return begins (R415). -/
def probationFails (s : State) (cause : Nat) : State :=
  if s.cfg.roles.probation && s.cfg.job.isNone && s.cfg.probEnd ≠ 0 then startJob (setCfgState (setResult s 0 0) 4) (.back cause) else s

/-- Has an event failed probation (R413)? 5 stands for DISCARDS. -/
def probationVerdict (s : State) : Nat :=
  if s.cfg.failed ≠ 0 then s.cfg.failed
  else if bitOf s CFG_PROBATION 4 && decide (fldOf s CFG_PROBATION 31 16 + s.cfg.probBase < rd64 s SWC_DISC_UNROUTE + rd64 s SWC_DISC_DEADPORT) then 5
  else 0

/-- Look whether probation has failed; done at every tick and when it would end (log entry 39). -/
def watchProbation (s : State) : State :=
  if s.cfg.roles.probation && s.cfg.probEnd ≠ 0 && probationVerdict s ≠ 0 then probationFails s (probationVerdict s) else s

/-- OP CONFIRM. -/
def confirmCmd (s : State) : State :=
  if s.cfg.roles.probation && s.cfg.job.isNone && s.cfg.probEnd ≠ 0 then
    if probationVerdict s ≠ 0 then watchProbation s else setResult (probationEnds s) 1 0
  else setResult s 10 0

/-- PROBATION_PASS: 30 s have passed. -/
def probationPass (s : State) : State :=
  if s.cfg.roles.probation && s.cfg.job.isNone && s.cfg.probEnd ≠ 0 && s.cfg.probEnd ≤ s.now then
    if probationVerdict s ≠ 0 then watchProbation s else probationEnds s
  else s

/-- PROBATION_PORT_TIMEOUT: a port in service at the commit has been out of service for 1 s. -/
def probationPort (s : State) (p : Nat) : State :=
  if bitOf s CFG_PROBATION 0 && s.cfg.probPorts.contains p && portEnabled s p && !inService s p && (link s p).outAt + 1000000000 ≤ s.now
  then probationFails s 1 else s

/-! ## The persistent fault summary (R365, R418) -/

/-- A summary block (R418). -/
def summaryBlock (seq boots : Nat) (rs : List FaultRec) : List Byte :=
  let head := leBytes 2 1 ++ leBytes 2 rs.length ++ leBytes 4 seq ++ leBytes 4 boots ++ leBytes 4 0
  let body := rs.flatMap recBytes
  let body := body ++ List.replicate (2048 - body.length) 0
  head ++ leBytes 4 (crc32c (head ++ body)).toNat ++ List.replicate 44 0 ++ body

/-- Write a summary to the next block in rotation. -/
def writeSummary (s : State) (rs : List FaultRec) : State :=
  let seq := s.res.summarySeq + 1
  let a := sumBlockAt (seq % 16)
  let s := nvmWrite (nvmErase s a (a + 4096)) a (summaryBlock seq s.cfg.boots.toNat rs)
  { s with res := { s.res with summary := rs, summarySeq := seq } }

/-- FAULT_SUMMARY_WRITE (R365): at most once per 10 s; the most recent 64 records. -/
def summaryWrite (s : State) : State :=
  let due := match s.res.summaryAt with | some t => decide (t + 10000000000 ≤ s.now) | none => true
  if s.res.summaryPend = [] || !due then s
  else
    let all := s.res.summary ++ s.res.summaryPend
    let s := writeSummary s (all.drop (all.length - 64))
    { s with res := { s.res with summaryPend := [], summaryAt := some s.now } }

/-- OP READ_SUMMARY and OP CLEAR_SUMMARY. -/
def summaryCmd (s : State) (clear : Bool) : State :=
  ifIdle s fun s => setCfgState (setResult (setCfg s { s.cfg with summaryClear := clear }) 0 0) 5

/-- SUMMARY_OP_DONE: the copy or the empty block is written (R418). -/
def summaryEnds (s : State) (nvmErr : Bool) : State :=
  if cfgState s ≠ 5 then s
  else
    let s := setCfgState s 0
    if nvmErr then setResult (nvmError s) 15 0
    else if s.cfg.summaryClear then setResult (fault0 (writeSummary s []) 0x090B 0 11) 1 0
    else if !areaOk s (cfgBuf s) 4096 then setResult s 6 0
    else setResult (claspWrite s (cfgBuf s) (nvmRead s (sumBlockAt (s.res.summarySeq % 16)) 4096) 6) 1 0

end Sys2Proof.Machine
end

