-- ==== Sys2Proof/Machine/HostPort.lean ====
section
/-! DEFINITION. The host ports (chapter 16): apertures and BAR2 accesses (R449-R452), the port's coherent cache of 64 lines (R450), function
fences (R453), requests to the host (R454), MSI-X (R457), and the link's coming and going (R446, R458). -/

namespace Sys2Proof.Machine

/-- Change the host ports. -/
def setHosts (s : State) (h : Hosts) : State := { s with hosts := h }
/-- LINK_UP of a host port. -/
def linkUp (s : State) (j : Nat) : Bool := bitOf s (HST_PORT_STATUS j) 0
/-- Host-port activity (R444): a TLP arrived. -/
def hostBusy (s : State) : State := setHosts s { s.hosts with busyAt := s.now }
/-- A function that accesses can reach: PF0, or a virtual function while VF Enable is set (R446). -/
def fnThere (s : State) (j f : Nat) : Bool :=
  f == 0 || (bitOf s (HST_PORT_STATUS j) 17 && decide (f ≤ fldOf s (HST_PORT_STATUS j) 16 10))
/-- The host has a path through this port (R458). -/
def activePath (s : State) (j : Nat) : Bool := bitOf s (HST_PORT_STATUS j) 9
/-- The partition of a function. -/
def fnPart (s : State) (j f : Nat) : Byte := if f = 0 then 0 else BitVec.ofNat 8 (fldOf s (HST_FN_CFG j f) 7 0)

/-! ## Identity (R445, R462) -/

/-- What a function presents in PCI Express configuration space. -/
structure PcieIdentity where
  vendor : BitVec 16
  subsystemVendor : BitVec 16
  device : BitVec 16
  classCode : BitVec 24
  totalVFs : Nat
  firstVFOffset : Nat
  vfStride : Nat
  bar0 : Nat
  bar2 : Nat
  msixVectors : Nat
  msixTable : Nat
  msixPba : Nat
  functionLevelReset : Bool
  deriving DecidableEq, Repr

/-- Function `f` of port `j` (R445): the SR-IOV capability is PF0's, and the MSI-X table and pending bits lie in the function's block. -/
def pcieIdentity (s : State) (j f : Nat) : PcieIdentity :=
  let member := if s.part.hz7134 then 0x7134 else 0x7168
  { vendor := 0x0A1E, subsystemVendor := 0x0A1E, device := BitVec.ofNat 16 (if f = 0 then member else member + 1), classCode := 0x058000,
    totalVFs := if f = 0 then 127 else 0, firstVFOffset := if f = 0 then 1 else 0, vfStride := if f = 0 then 1 else 0,
    bar0 := 2 ^ 26, bar2 := 2 ^ 38, msixVectors := 4, msixTable := HST_FN j f + 0x80, msixPba := HST_FN j f + 0xC0,
    functionLevelReset := false }

/-- The IDCODE over JTAG (R462), whose bits [11:1], the manufacturer's, the manual leaves to the standard. -/
def jtagIdcode (s : State) (manufacturer : BitVec 11) : Word :=
  BitVec.ofNat 32 (1 + manufacturer.toNat * 2 + (if s.part.hz7134 then 0x7134 else 0x7168) * 2 ^ 12 + bits s.part.step.toNat 3 0 * 2 ^ 28)

/-! ## Apertures (R449) -/

/-- Aperture of a BAR2 offset. -/
def apOf (x : Nat) : Nat := bits x 37 36
/-- Home EPC of a BAR2 offset. -/
def apEpc (s : State) (j f x : Nat) : Epc := BitVec.ofNat 24 (fldOf s (HST_AP_BASE j f (apOf x) + 4) 31 8)
/-- Fabric offset of a BAR2 offset. -/
def apOff (s : State) (j f x : Nat) : Nat := fldOf s (HST_AP_BASE j f (apOf x) + 4) 7 4 * 2 ^ 36 + bits x 35 0
/-- Fabric address of a BAR2 offset. -/
def apAddr (s : State) (j f x : Nat) : Nat := (apEpc s j f x).toNat * 2 ^ 40 + apOff s j f x

/-- Why an access makes no request: NOREGION for an aperture whose VALID is 0, UNREACHABLE without an active path (R449, R458), PARTITION
for a virtual function that is bound to none (R447; log entry 41); 0 for none. -/
def apFails (s : State) (j f x : Nat) : Nat :=
  if f ≠ 0 && !bitOf s (HST_FN_CFG j f) 13 then stPARTITION
  else if !bitOf s (HST_AP_CTRL j f (apOf x)) 0 then stNOREGION
  else if !activePath s j then stUNREACHABLE else 0

/-- SRC of a request of a function (R451). -/
def fnSrc (s : State) (j f : Nat) (dest : Epc) : Epc :=
  if isMine s dest && epcUnit dest == 1 then myEpc s (10 + j) else hostEpc s j (fldOf s (HST_FN_CFG j f) 12 8)

/-! ## Reads and writes (R450) -/

/-- The pieces of an access, cut at 128-byte boundaries: start and length, ascending. -/
def cutLines : Nat → Nat → Nat → List (Nat × Nat)
  | 0, _, _ => []
  | fuel + 1, x, len =>
    if len = 0 then []
    else
      let n := min len (128 - x % 128)
      (x, n) :: cutLines fuel (x + n) (len - n)

/-- The request of one piece. -/
def bar2Pkt (s : State) (j f x n : Nat) (data : Option (List Byte)) : Packet :=
  let ctrl := HST_AP_CTRL j f (apOf x)
  let urgent := bitOf s ctrl 3
  let dest := apEpc s j f x
  let off := apOff s j f x / 128 * 128
  let cls := if urgent then 0 else 1
  let p := match data with
    | none => mkPkt (if urgent || bitOf s ctrl 1 then opREAD_VOL else opREAD) cls dest (fnSrc s j f dest) (opfM off 0 0 0 0) []
    | some d =>
      if n = 128 then mkPkt opWRITE cls dest (fnSrc s j f dest) (opfM off 0 0 0 0) d
      else
        let i := x % 128
        mkPkt opWRITE_MASK cls dest (fnSrc s j f dest) (opfM off 0 0 0 0)
          (leBytes 16 ((2 ^ n - 1) * 2 ^ i) ++ splice (List.replicate 128 0) i d)
  { p with partition := fnPart s j f, regionKey := BitVec.ofNat 32 (rd s (HST_AP_KEY j f (apOf x))), flag := data.isSome && bitOf s ctrl 2 }

/-- All ones for the bytes of a failed read (R452). -/
def readFails (s : State) (j f x n status : Nat) : State :=
  fnFail (emit s (.pcieData j f x (List.replicate n 0xFF))) j f 0 status (apAddr s j f x)

/-- A BAR2 access of either kind: `data` for a write, `len` bytes for a read. -/
def bar2 (s : State) (j f x len : Nat) (data : Option (List Byte)) : State :=
  if !linkUp s j || !fnThere s j f then s
  else
    let s := hostBusy s
    let st := apFails s j f x
    forEach (cutLines (len / 128 + 2) x len) s fun s (y, n) =>
      let part := data.map fun d => slice d (y - x) n
      if st ≠ 0 then
        if data.isSome then fnFail s j f 1 st (apAddr s j f y) else readFails s j f y n st
      else ev (issue s (bar2Pkt s j f y n part) (.bar j f y n data.isNone) (some (j, f))) (2040 + 4 * j) 1

/-- A BAR2 request's completion (R452). A discarded completion has no function left. -/
def barAnswered (s : State) (j f x n : Nat) (rd_ : Bool) (status : Nat) (p : Packet) : State :=
  if 128 ≤ f then s
  else if rd_ then
    if status = stOK then emit s (.pcieData j f x (slice p.payload (x % 128) n)) else readFails s j f x n status
  else if status = stOK then s else fnFail s j f 1 status (apAddr s j f x)

/-! ## The port's cache (R450, R132, R221-R225) -/

/-- Lines of a port's cache. -/
def hostLines (s : State) (j : Nat) : List CacheLine := cget [] s.hosts.caches j
/-- Change the lines of a port's cache. -/
def setHostLines (s : State) (j : Nat) (ls : List CacheLine) : State := setHosts s { s.hosts with caches := cset [] s.hosts.caches j ls }
/-- The same line under the same EPC. -/
def CacheLine.same (a b : CacheLine) : Bool := a.self == b.self && a.home == b.home && a.off == b.off
/-- Replace a line; one that is in I with nothing outstanding leaves. -/
def putHostLine (s : State) (j : Nat) (x : CacheLine) : State :=
  let keep := x.state != 0 || x.evicting || x.requested
  let ls := hostLines s j
  setHostLines s j (if ls.any x.same then (if keep then ls.map fun y => if x.same y then x else y else ls.filter fun y => !x.same y)
    else if keep then ls ++ [x] else ls)

/-- Give a line up (R206). -/
def evictHost (s : State) (j : Nat) (x : CacheLine) : State :=
  issue (putHostLine s j { x with evicting := true }) (givePkt x.self x) (.cacheGive j) none

/-- Make room for one line more: where 64 are held, the first that is idle goes (DESIGN CHOICE: log entry 42). -/
def hostRoom (s : State) (j : Nat) : State :=
  let ls := (hostLines s j).filter fun x => !x.evicting
  if ls.length < 64 then s
  else match ls.find? fun x => !x.requested && x.state != 0 with
    | some x => evictHost s j x
    | none => s

/-- The old value goes to the host. -/
def atomicDone (s : State) (a : HostAtomic) (old : Nat) : State :=
  if 128 ≤ a.fn then s else emit s (.pcieAtomic a.j a.fn a.x (BitVec.ofNat 128 old))

/-- An atomic on the port's line: applied there in E or M, else requested; one that finds its line's request or eviction outstanding
waits (R206, R222). -/
def hostAtomic (s : State) (a : HostAtomic) : State :=
  let line := a.off / 128 * 128
  let key : CacheLine := { self := a.src, home := a.dest, off := BitVec.ofNat 40 line, part := a.part, key := a.key }
  let ask (s : State) (x : CacheLine) : State :=
    let p := { mkPkt opATOMIC 1 a.dest a.src (opfM a.off (if a.size = 4 then 2 else if a.size = 8 then 3 else 4) a.aop 0 0) [] with
      partition := a.part, regionKey := a.key }
    ev (issue (putHostLine s a.j { x with requested := true }) p (.barAtomic a.j a.fn a.x a.size a.aop a.operand a.compare)
      (some (a.j, a.fn))) (2040 + 4 * a.j) 1
  let wait (s : State) : State := setHosts s { s.hosts with atomWait := s.hosts.atomWait ++ [a] }
  match (hostLines s a.j).find? key.same with
  | none => ask (hostRoom s a.j) key
  | some x =>
    if x.requested || x.evicting then wait s
    else if x.part != a.part || x.key != a.key then wait (evictHost s a.j x)
    else if x.state = 2 || x.state = 3 then
      let (d, old) := lineAtomic x.data (a.off % 128) a.aop a.size a.operand.toNat a.compare.toNat
      atomicDone (putHostLine s a.j { x with state := 3, data := d }) a old
    else ask s x

/-- Atomics that waited for a line go on, in order. -/
def retryAtomics (s : State) (j : Nat) (src dest : Epc) (off : Nat) : State :=
  let mine (a : HostAtomic) : Bool := a.j == j && a.src == src && a.dest == dest && a.off / 128 == off / 128
  let ws := s.hosts.atomWait.filter mine
  forEach ws (setHosts s { s.hosts with atomWait := s.hosts.atomWait.filter fun a => !mine a }) hostAtomic

/-- A PCIe atomic on BAR2 (R450). One whose size or alignment PCI Express does not allow is a malformed TLP (R458). -/
def bar2Atomic (s : State) (j f x size aop : Nat) (operand compare : BitVec 128) (malformed : State → State) : State :=
  if !linkUp s j || !fnThere s j f then s
  else
    let s := hostBusy s
    let sizes := if aop = 8 then [4, 8, 16] else [4, 8]
    if !(sizes.contains size) || x % size ≠ 0 then malformed s
    else
      let st := apFails s j f x
      if st ≠ 0 then fnFail s j f 1 st (apAddr s j f x)
      else
        let dest := apEpc s j f x
        hostAtomic s { j := j, fn := f, x := x, size := size, aop := aop, operand := operand, compare := compare, src := fnSrc s j f dest,
                       dest := dest, off := apOff s j f x, part := fnPart s j f, key := BitVec.ofNat 32 (rd s (HST_AP_KEY j f (apOf x))) }

/-- The answer to an ATOMIC of a port (R205, R207, R224): a grant is installed and the operation applied to it. A refused one leaves the
line in I; the host is answered with a value the manual does not state (R452, log entry 43). -/
def atomicAnswered (s : State) (r : OutReq) (j f x size aop : Nat) (operand compare : BitVec 128) (p : Packet) : State :=
  let off := r.pkt.offset
  let line := off / 128 * 128
  let key : CacheLine := { self := r.pkt.src, home := r.pkt.dest, off := BitVec.ofNat 40 line }
  let a : HostAtomic := { j := j, fn := f, x := x, size := size, aop := aop, operand := operand, compare := compare, src := r.pkt.src,
                          dest := r.pkt.dest, off := off, part := r.pkt.partition, key := r.pkt.regionKey }
  let y := match (hostLines s j).find? key.same with | some y => y | none => { key with part := a.part, key := a.key }
  let y := { y with requested := false }
  let s := if statusOf p = stOK && p.lstate != 0 then
      let (d, old) := lineAtomic (bytesLine (slice p.payload 0 128)) (off % 128) aop size operand.toNat compare.toNat
      let s := sendCompAck s y.self r p
      let (s, y) := answerHeld s y.self { y with state := 3, data := d }
      atomicDone (putHostLine s j y) a old
    else
      let (s, y) := answerHeld s y.self { y with state := 0 }
      let s := putHostLine s j { y with state := 0 }
      if 128 ≤ f then s
      else fnFail (atomicDone (takeFree s) a (freeVal s)) j f 1 (statusOf p) (apAddr s j f x)
  retryAtomics s j r.pkt.src r.pkt.dest off

/-- A GIVE or EVICT_NOTICE of a port was answered; one that completes UNREACHABLE goes once to the twin of the line's home (R347). -/
def hostGiven (s : State) (r : OutReq) (j status : Nat) : State :=
  let line := r.pkt.offset / 128 * 128
  match (hostLines s j).find? fun y => y.self == r.pkt.src && y.off.toNat == line && y.evicting with
  | none => s
  | some y =>
    if status = stUNREACHABLE && sameSeat r.pkt.dest y.home then
      issue s { r.pkt with dest := twinOf r.pkt.dest, retx := false, opn := false } (.cacheGive j) none
    else retryAtomics (putHostLine s j { y with state := 0, evicting := false }) j y.self y.home line

/-- A C2 packet at a port's cache (R202, R221). -/
def hostSnoop (s : State) (j : Nat) (p : Packet) : State :=
  match (hostLines s j).find? fun y => y.self == p.dest && y.isFor p.src p.offset with
  | some y =>
    let (s, z) := takeC2 s p.dest y p
    if z.state = 0 && !z.evicting && !z.requested then setHostLines s j ((hostLines s j).filter fun w => !y.same w) else putHostLine s j z
  | none => (takeC2 s p.dest {} p).1

/-! ## Fences (R453) -/

/-- A write of 1 to HST_FN_FENCE; discarded while BUSY. -/
def fnFence (s : State) (j : Fin 2) (f : Fin 128) : State :=
  if bitOf s (HST_FN_FENCE_STATUS j f) 0 then s
  else startFence (wr64 s (HST_FN_FENCE_STATUS j f) 1) (.host j f) (fnSrcs s j f) (some (j, f))

/-- A function's fence ends with its report (R183), and vector 3 is signalled. -/
def fnFenceEnds (s : State) (r : FenceRun) (j f : Nat) : State :=
  let (s, st, e, n) := endFence s r
  msix (wr64 s (HST_FN_FENCE_STATUS j f) (st % 16 * 2 ^ 4 + e * 2 ^ 8 + n % 2 ^ 32 * 2 ^ 32)) j f 3

/-! ## Requests to the host (R454) -/

/-- The port a request's destination names. -/
def hostOf (s : State) (e : Epc) : Option Nat := if sameSeat e (hostEpc s 0 0) then some 0 else if sameSeat e (hostEpc s 1 0) then some 1 else none

/-- A packet that reaches a host port cannot be served. -/
def inboundRefused (s : State) (j : Nat) (p : Packet) (status : Nat) : State :=
  if p.isRequest then respond s p status 0 0 0 [] else bump64 s (HST_IN_DISCARD j) 1

/-- Runs of set bits of a byte mask: start and length. -/
def maskRuns : Nat → Nat → Nat → List (Nat × Nat)
  | 0, _, _ => []
  | fuel + 1, i, m =>
    if 128 ≤ i then []
    else if bit m i then
      let n := ((List.range (128 - i)).find? fun k => !bit m (i + k)).getD (128 - i)
      (i, n) :: maskRuns fuel (i + n) m
    else maskRuns fuel (i + 1) m

/-- Write to host memory as a function. -/
def hostStore (s : State) (j f at_ : Nat) (p : Packet) : State :=
  if p.opcode = opWRITE_MASK then
    forEach (maskRuns 129 0 (leAt p.payload 0 16)) s fun s (i, n) => emit s (.dmaWrite j f (at_ + i) (slice p.payload (16 + i) n))
  else emit s (.dmaWrite j f at_ p.payload)

/-- HOST_INBOUND_REQUEST: checks in the order of R454, then PCIe DMA. Writes are posted, so they are answered at once; a duplicate of one
already performed is only answered (R119). -/
def inboundRequest (s : State) (d : Delivered) : State :=
  let p := d.pkt
  match hostOf s p.dest with
  | none => s
  | some j =>
    if p.opcode = opTELEMETRY then bump64 s (HST_IN_DISCARD j) 1
    else if !linkUp s j then inboundRefused s j p stUNREACHABLE
    else match boundFns s j p.partition.toNat with
      | [] => inboundRefused s j p stPARTITION
      | f :: _ =>
        let k := rd s (HST_FN_INKEY j f)
        let at_ := (rd64 s (HST_IN_BASE j) + p.offset) % 2 ^ 64
        if k ≠ 0 && k ≠ p.regionKey.toNat then inboundRefused s j p stKEYFAIL
        else
          let served (s : State) : State := ev (bump64 (hostBusy s) (HST_IN_COUNT j) 1) (2040 + 4 * j + 1) 1
          if p.opcode = opREAD || p.opcode = opREAD_VOL then
            let n := s.hosts.nextN
            let s := setHosts (served s) { (served s).hosts with nextN := n + 1, inbound := s.hosts.inbound ++ [{ j := j, n := n, d := d, at_ := s.now }] }
            emit s (.dmaRead j f n at_ 128)
          else if p.opcode = opWRITE || p.opcode = opWRITE_MASK then
            let s := if d.dup then served s else hostStore (served s) j f at_ p
            respond s p stOK 0 0 0 []
          else if p.opcode = opSTREAM_WRITE then hostStore (served s) j f at_ p
          else inboundRefused s j p stNOREGION

/-- The inbound read of a number. -/
def findInbound (s : State) (j n : Nat) : Option Inbound := s.hosts.inbound.find? fun i => i.j == j && i.n == n
/-- Take it out. -/
def dropInbound (s : State) (i : Inbound) : State := setHosts s { s.hosts with inbound := s.hosts.inbound.erase i }

/-- HOST_DMA_COMPLETE: the data goes back to the requester. -/
def dmaComplete (s : State) (j n : Nat) (data : List Byte) : State :=
  match findInbound s j n with
  | some i => respond (hostBusy (dropInbound s i)) i.d.pkt stOK 0 0 0 (slice data 0 128)
  | none => s

/-- HOST_DMA_TIMEOUT: 10 ms without the host's completion. -/
def dmaTimeout (s : State) (j n : Nat) : State :=
  match findInbound s j n with
  | some i =>
    if s.now < i.at_ + 10000000 then s
    else
      let s := hostErr (dropInbound s i) j 3
      respond (fault s 0x0B02 2 10 i.d.pkt.src (det [(16, 1, j), (17, 5, i.d.pkt.offset)])) i.d.pkt stUNREACHABLE 0 0 0 []
  | none => s

/-! ## MSI-X (R457) -/

/-- The time of a vector has passed: its pending events go out as one message, unless it is masked. -/
def msixHoldoff (s : State) (j f v : Nat) : State :=
  let key := (j * 128 + f) * 4 + v
  let last := cget 0 s.hosts.msixAt key
  if !bitOf s (HST_PBA j f) v || bitOf s (HST_MSIX j f (4 * v + 3)) 0 || (last ≠ 0 && s.now + 1 < last + 1000) then s
  else msix (setBitOf s (HST_PBA j f) v false) j f v

/-! ## The link (R446, R458) -/

/-- VF Enable and NumVFs as configuration space has them. -/
def vfEnable (s : State) (j : Nat) (on : Bool) (n : Nat) : State :=
  if !linkUp s j then s else setFld (setBitOf s (HST_PORT_STATUS j) 17 on) (HST_PORT_STATUS j) 16 10 n

/-- The completions of a port's functions are discarded from now on. -/
def dropHostReqs (s : State) (j : Nat) : State :=
  let quiet (r : OutReq) : OutReq := match r.agent with
    | .bar k _ x n w => if k = j then { r with agent := .bar k 128 x n w } else r
    | .barAtomic k _ x z a o c => if k = j then { r with agent := .barAtomic k 128 x z a o c } else r
    | _ => r
  let s := { s with e2e := { s.e2e with outs := s.e2e.outs.map quiet } }
  setHosts s { s.hosts with atomWait := s.hosts.atomWait.map fun a => if a.j = j then { a with fn := 128 } else a }

/-- Running fences of a port's functions end without a report: BUSY clears. -/
def dropFences (s : State) (j : Nat) : State :=
  let mine (f : FenceRun) : Bool := match f.id with | .host k _ => k.val == j | _ => false
  let s' := forEach (s.e2e.fences.filter mine) s fun s r => match r.id with
    | .host k f => setBitOf s (HST_FN_FENCE_STATUS k f) 0 false
    | _ => s
  { s' with e2e := { s'.e2e with fences := s'.e2e.fences.filter fun r => !mine r } }

/-- The link goes down (R458): BAR2 completions and fences are discarded, inbound reads complete UNREACHABLE, packets queued for the host
are looked up again. -/
def hostLinkGone (s : State) (j : Nat) : State :=
  if !linkUp s j then s
  else
    let s := setFld s (HST_PORT_STATUS j) 9 0 0
    let s := dropFences (dropHostReqs s j) j
    let gone := s.hosts.inbound.filter fun i => i.j == j
    let s := setHosts s { s.hosts with inbound := s.hosts.inbound.filter fun i => i.j != j }
    let s := forEach gone s fun s i => respond s i.d.pkt stUNREACHABLE 0 0 0 []
    relink s (.host (Fin.ofNat 2 j))

/-- A word of port j's RW, W1C and WO fields, or of its MSI-X tables. -/
def perstWord (j off : Nat) : Bool :=
  off == HST_IN_BASE j || off == HST_IN_BASE j + 4 || off == HST_PORT_ERR j ||
  (decide (HST_FN j 0 ≤ off) && decide (off < HST_FN j 128) &&
    (let o := (off - HST_FN j 0) % 0x100
     o == 0x04 || o == 0x28 || o == 0x2C || o == 0x34 || (decide (0x40 ≤ o) && decide (o < 0xC4))))

/-- HST_FN_ERR of port j's functions. -/
def fnErrWord (j off : Nat) : Bool := decide (HST_FN j 0 ≤ off) && decide (off < HST_FN j 128) && (off - HST_FN j 0) % 0x100 == 0x08

/-- PERST_N is asserted (R458): the link goes down, configuration space and the port's fields take their Reset values; RWC and RO fields
keep theirs. -/
def hostPerst (s : State) (j : Nat) : State :=
  let s := hostLinkGone s j
  let s := forEach ((s.regs.map (·.1)).filter (perstWord j)) s fun s o => wr s o (regReset o).toNat
  let s := forEach ((s.regs.map (·.1)).filter (fnErrWord j)) s fun s o => setFld s o 3 0 0
  let s := setFld (setBitOf s (HST_PORT_STATUS j) 17 false) (HST_PORT_STATUS j) 16 10 0
  setHosts s { s.hosts with msixAt := s.hosts.msixAt.filter fun e => e.1 / 512 != j }

/-- The link goes down without PERST_N. -/
def hostLinkDown (s : State) (j : Nat) : State :=
  if !linkUp s j then s else fault (hostErr (hostLinkGone s j) j 0) 0x0B01 2 10 (myEpc s 0) (det [(16, 1, j)])

/-- The link has trained (R444): not while PERST_N is asserted, and only of a port that is enabled and whose die is there. -/
def hostLinkUp (s : State) (j rate width : Nat) : State :=
  if bitOf s PWR_INPUTS (1 + j) || !bitOf s (HST_PORT_CFG j) 0 || dieDead s (.port 0) || rate = 0 || rate = 7 then s
  else
    let s := setFld s (HST_PORT_STATUS j) 8 0 (1 + rate * 2 + width % 16 * 16 + b2n (rate == 6) * 256)
    noteActivePath (hostBusy s)

/-- A malformed or poisoned TLP is discarded (R458). -/
def hostTlpErr (s : State) (j : Nat) (poisoned : Bool) : State :=
  if !linkUp s j then s
  else
    let s := hostErr (hostBusy s) j (if poisoned then 2 else 1)
    let key := 0x0B0400 + j
    if onceSince s key 1000000 then fault (noteSince s key) 0x0B04 2 10 (myEpc s 0) (det [(16, 1, j), (17, 1, b2n poisoned)]) else s

/-- Host-advanced ring index of notices (R466). -/
def noteTail (s : State) (j f v : Nat) : State :=
  if (rd s (HST_FN_NOTE_HEAD j f) + 2 ^ 32 - v % 2 ^ 32) % 2 ^ 32 ≤ 256 then wr s (HST_FN_NOTE_TAIL j f) v else s

/-- HST_AP_BASE (R449): refused where its EPC names another plane. -/
def apBaseWrite (s : State) (j f a v : Nat) : State :=
  if epcPlane (BitVec.ofNat 24 (v / 2 ^ 40)) ≠ myPlane s then fnErr s j f 2 else wr64 s (HST_AP_BASE j f a) (v / 2 ^ 36 % 2 ^ 28 * 2 ^ 36)

/-- HST_AP_CTRL (R449): refused where it sets URGENT without C0_ALLOWED. -/
def apCtrlWrite (s : State) (j f a v : Nat) : State :=
  if bit v 3 && !bitOf s (HST_FN_CFG j f) 14 then fnErr s j f 2 else wr s (HST_AP_CTRL j f a) (v % 16)

end Sys2Proof.Machine
end

