-- ==== Sys2Proof/Machine/Transmit.lean ====
section
/-! DEFINITION. The transmit side of an egress point (R53, R147, R476): the choice of a class, flits and their trailers, replays,
control-only flits, and the freeing of sent cells (R144). -/

namespace Sys2Proof.Machine

/-! ## Trailers (R95, R98, R106) -/

/-- A class's cumulative grant (R106). -/
def grantOf (l : PortLink) (c : Nat) : Nat := (vget 0 l.init c + vget 0 l.freed c) % 4096

/-- The class whose grant the next trailer carries: 1 to 5 in rotation. -/
def grantTurn (l : PortLink) : Nat := l.rot % 5 + 1

/-- A flit with the newest control values (R98). -/
def withTrailer (l : PortLink) (seq : BitVec 12) (fvc : Nat) (payload : List Byte) : Flit :=
  Flit.seal { seq := seq, fvc := BitVec.ofNat 3 fvc, stop := l.stopTx, ackSeq := l.rxNext - 1,
              ackKind := if l.rxFailed then 2 else 1, c0Grant := BitVec.ofNat 12 (grantOf l 0),
              crVc := BitVec.ofNat 3 (grantTurn l), crGrant := BitVec.ofNat 12 (grantOf l (grantTurn l)),
              payload := payload, crc := 0 }

/-- A trailer has gone out: the next class's turn, and one trailer fewer owed. -/
def trailerSent (l : PortLink) : PortLink := { l with rot := (l.rot + 1) % 5, owed := l.owed - 1 }

/-- Send a control-only flit on a port (R98). -/
def sendControl (s : State) (p : Nat) : State :=
  let l := link s p
  let f := withTrailer l l.txSeq 7 (List.replicate 240 0)
  lnkEv (emit (setLink s p { trailerSent l with busyAt := s.now }) (.flit p f)) 12 1

/-! ## Queues at an egress point -/

/-- Place in the queue list of the head packet of a class at an egress point. -/
def headIdx (s : State) (eg : Egress) (c : Nat) : Option Nat := s.sw.queue.findIdx? fun e => inQueue e eg c

/-- The head entry of a class at an egress point. -/
def headOf (s : State) (eg : Egress) (c : Nat) : Option QEntry := s.sw.queue.find? fun e => inQueue e eg c

/-- Bytes of an entry that an egress point has sent. -/
def sentTo (e : QEntry) (eg : Egress) : Nat :=
  match e.targets.find? fun t => t.1 == eg with
  | some t => t.2
  | none => 0

/-- Credit for all cells of a packet is held (R105); the crossings to other dies are never short of it (R435: their queues are the
model's, log entry 44). -/
def hasCredit (s : State) (eg : Egress) (p : Packet) : Bool :=
  match eg with
  | .port q => decide (p.cells ≤ credit s q.val p.vc)
  | _ => true

/-- The head packet of a class may send: it has begun, or credit for it is held. -/
def classReady (s : State) (eg : Egress) (c : Nat) : Bool :=
  match headOf s eg c with
  | some e => sentTo e eg != 0 || hasCredit s eg e.pkt
  | none => false

/-- The quantum of a class in bytes (SWC_DWRR, in units of 256 bytes). The twin ports, the internal egress points and a field that holds
the reserved 0 use the default 0x2010_0408 (log entry 44). -/
def quantum (s : State) (eg : Egress) (c : Nat) : Nat :=
  let set := match eg with
    | .port p => if p.val < 256 then rd s (SWC_DWRR p.val) else 0
    | _ => 0
  let q := bits set (8 * c - 1) (8 * c - 8)
  256 * (if q = 0 then bits 0x20100408 (8 * c - 1) (8 * c - 8) else q)

/-- A class's deficit covers its head packet, or the packet has begun. -/
def covered (s : State) (eg : Egress) (x : PortSw) (c : Nat) : Bool :=
  match headOf s eg c with
  | some e => sentTo e eg != 0 || decide (e.pkt.wire ≤ vget 0 x.deficit c)
  | none => false

/-- Deficit-weighted round robin over C1-C4 (R147), up to `n` turns: the class at turn sends while it is ready and covered, and the
turn passes on otherwise, the next class's deficit rising when it has a packet and ending at zero when it has none. -/
def dwrr (s : State) (eg : Egress) : Nat → PortSw → PortSw × Option Nat
  | 0, x => (x, none)
  | n + 1, x =>
    if classReady s eg x.rr && covered s eg x x.rr then (x, some x.rr)
    else
      let c := x.rr % 4 + 1
      let d := if (headOf s eg c).isSome then vget 0 x.deficit c + quantum s eg c else 0
      dwrr s eg n { x with rr := c, deficit := vset x.deficit c d }

/-- C5 may use a slot: no throttle holds it (R429), and its share under C5_RATE has gathered a whole slot (R428). -/
def c5Allowed (s : State) (x : PortSw) : Bool :=
  !bitOf s PWR_STATUS 6 && (fldOf s PWR_MEASURES 17 10 == 0 || decide (256 ≤ x.c5Share))

/-- The class a slot serves (R147): C0, then C1-C4 with one whose packet has begun first, then C5. -/
def chooseClass (s : State) (eg : Egress) : State × Option Nat :=
  let k := egKey eg
  if classReady s eg 0 then (s, some 0)
  else if [1, 2, 3, 4].any (classReady s eg) then
    match [1, 2, 3, 4].find? fun c => match headOf s eg c with | some e => sentTo e eg != 0 | none => false with
    | some c => (s, some c)
    | none =>
      let r := dwrr s eg 100 (pswOf s k)
      (setPsw s k r.1, r.2)
  else if classReady s eg 5 && c5Allowed s (pswOf s k) then
    let x := pswOf s k
    (setPsw s k { x with c5Share := if fldOf s PWR_MEASURES 17 10 = 0 then 0 else x.c5Share - 256 }, some 5)
  else (s, none)

/-! ## Sending bytes -/

/-- A packet begins at an egress point: its credits are spent (R105), and its wire length from its class's deficit. -/
def beginPacket (s : State) (eg : Egress) (p : Packet) : State :=
  let c := p.vc
  let s := match eg with
    | .port q =>
      let l := link s q.val
      setLink s q.val { l with spent := vset l.spent c ((vget 0 l.spent c + p.cells) % 4096) }
    | _ => s
  let x := pswOf s (egKey eg)
  setPsw s (egKey eg) { x with deficit := vset x.deficit c (vget 0 x.deficit c - p.wire) }

/-- A packet has passed an egress point whole: it is counted, and an internal point hands it to its agent. -/
def packetPassed (s : State) (eg : Egress) (e : QEntry) : State :=
  let s := ev s (1208 + e.pkt.vc) 1
  match eg with
  | .port _ => s
  | _ => { s with inbox := s.inbox ++ [{ pkt := e.pkt, ing := e.ing, dup := e.dup }] }

/-- Send up to `room` bytes of the entry at place `i`; the cells every target has sent return to the free list (R143, R144). -/
def sendBytes (s : State) (eg : Egress) (i : Nat) (e : QEntry) (room : Nat) : State × List Byte :=
  let b := sentTo e eg
  let bs := (e.pkt.toBytes.drop b).take room
  let n := b + bs.length
  let done := decide (e.pkt.wire ≤ n)
  let ts := if done then e.targets.filter fun t => t.1 != eg
    else e.targets.map fun t => if t.1 == eg then (eg, n) else t
  let gone := if ts = [] then e.pkt.cells else max e.freed ((ts.map fun t => t.2 / 256).foldl min e.pkt.cells)
  let q := if ts = [] then s.sw.queue.eraseIdx i else s.sw.queue.set i { e with targets := ts, freed := gone }
  let s := freeCells { s with sw := { s.sw with queue := q } } e.ing e.period e.pkt.vc (gone - e.freed)
  (if done then packetPassed s eg e else s, bs)

/-- Fill a payload area with the packets of one class (R97): the head goes on or begins, and further packets follow while credit, and
for C1-C4 the deficit, covers them. -/
def fillFlit (eg : Egress) (c : Nat) : Nat → State → Nat → List Byte → List Packet → State × List Byte × List Packet
  | 0, s, _, bs, ps => (s, bs, ps)
  | n + 1, s, room, bs, ps =>
    match headIdx s eg c, headOf s eg c with
    | some i, some e =>
      let ok := sentTo e eg != 0 || (hasCredit s eg e.pkt && (c == 0 || c == 5 || covered s eg (pswOf s (egKey eg)) c))
      if room = 0 || !ok then (s, bs, ps)
      else
        let s := if sentTo e eg = 0 then beginPacket s eg e.pkt else s
        let r := sendBytes s eg i e room
        fillFlit eg c n r.1 (room - r.2.length) (bs ++ r.2) (ps ++ [e.pkt])
    | _, _ => (s, bs, ps)

/-- Each slot adds C5_RATE to C5's share, at most one slot's worth beyond a whole one (R428). -/
def gatherC5 (s : State) (eg : Egress) : State :=
  let r := fldOf s PWR_MEASURES 17 10
  if r = 0 then s
  else
    let x := pswOf s (egKey eg)
    setPsw s (egKey eg) { x with c5Share := min 511 (x.c5Share + r) }

/-! ## A port's slot (R72, R98, R101, R476) -/

/-- Count a slot's category: 0 Sent, 1 Wasted, 2 Front-starved, 3 Back-starved. -/
def slotIs (s : State) (p k : Nat) : State := ev s (32 + 4 * p + k) 1

/-- Something is queued for a port. -/
def portQueued (s : State) (p : Nat) : Bool := (List.range 6).any fun c => (headOf s (egPort p) c).isSome

/-- Count a sequenced flit that a port sends. -/
def countFlit (s : State) (p c : Nat) : State :=
  let d := 1080 + 8 * dieOfPort s p
  let s := ev s (d + 1) 1
  let s := if c = 0 then ev s (d + 2) 1 else if c = 4 then ev s (d + 3) 1 else if c = 5 then ev s (d + 4) 1 else s
  if p ≥ 256 then ev s 1112 1 else s

/-- A slot that carries no sequenced flit: a control-only flit when a trailer is owed, IDLE otherwise. -/
def unusedSlot (s : State) (p : Nat) : State :=
  let s := slotIs s p (if portQueued s p then 3 else 2)
  if (link s p).owed = 0 then emit s (.idle p) else sendControl s p

/-- Replay a flit of the buffer with the trailer values of this moment (R98, R101). -/
def sendReplay (s : State) (p i : Nat) (e : ReplayEntry) : State :=
  let l := link s p
  let f := withTrailer l e.flit.seq e.flit.fvc.toNat e.flit.payload
  let l := trailerSent { l with
    replay := l.replay.set i { e with flit := f, sentAt := s.now },
    resend := if i + 1 < l.replay.length then some (i + 1) else none, busyAt := s.now }
  let s := slotIs (emit (setLink s p l) (.flit p f)) p 1
  let s := countFlit (ev (lnkEv s 5 1) (1080 + 8 * dieOfPort s p + 6) 1) p f.fvc.toNat
  if p ≥ 256 then ev s 1115 1 else s

/-- Send a new sequenced flit of a class: into the replay buffer, and the first after entry to service measures RTT (R102). -/
def sendNew (s : State) (p c : Nat) : State :=
  let r := fillFlit (egPort p) c 15 s 240 [] []
  let s := r.1
  let l := link s p
  let f := withTrailer l l.txSeq c (slice r.2.1 0 240)
  let l := trailerSent { l with
    txSeq := l.txSeq + 1, replay := l.replay ++ [{ flit := f, carries := r.2.2, sentAt := s.now }],
    probe := if l.rtt.isNone && l.probe.isNone then some (f.seq, s.now) else l.probe, busyAt := s.now }
  countFlit (slotIs (emit (setLink s p l) (.flit p f)) p 0) p c

/-- A flit slot of a port in service whose transmitter is not idle. -/
def portSlot (s : State) (p : Nat) : State :=
  let s := gatherC5 s (egPort p)
  let l := link s p
  if l.stopRx then unusedSlot (if l.resend.isSome || portQueued s p then lnkEv s 13 1 else s) p
  else match l.resend with
    | some i => match l.replay[i]? with
      | some e => sendReplay s p i e
      | none => unusedSlot (setLink s p { l with resend := none }) p
    | none =>
      if 512 ≤ l.replay.length then unusedSlot s p
      else match chooseClass s (egPort p) with
        | (s, some c) => sendNew s p c
        | (s, none) => unusedSlot s p

/-- The transmitter of a port is in electrical idle. -/
def txIdle (s : State) (p : Nat) : Bool := bitOf s (LNK_PORT_STATUS p) 9

/-! ## An internal egress point's slot (R53, R147) -/

/-- The crossing of an egress point is closed by a domain in reset (R437). -/
def crossingClosed (s : State) (eg : Egress) : Bool :=
  s.pwr.inReset.any fun d => match d, eg with
    | .hearthCore, _ => true
    | .hub, .port _ => false
    | .hub, _ => true
    | .storeHome, .store _ => true
    | .hallEngines, .hall => true
    | .pcie j, .host k => j == k
    | .annex, .mgmt => true
    | _, _ => false

/-- A slot of an internal egress point: up to 240 bytes of one class pass to the agent's die. The management channel carries nothing that
waits in this model (log entry 44). -/
def internalSlot (s : State) (eg : Egress) : State :=
  if !egressAlive s eg then s
  else
    let s := gatherC5 s eg
    match chooseClass s eg with
    | (s, some c) => (fillFlit eg c 15 s 240 [] []).1
    | (s, none) => s

/-- A flit slot of an egress point (R147). In electrical idle the slot counts as Front-starved (R476); nothing is sent on a port out of
service. -/
def transmitSlot (s : State) (eg : Egress) : State :=
  if crossingClosed s eg then s
  else match eg with
  | .port p =>
    if !inService s p.val then s
    else if txIdle s p.val then slotIs s p.val (if portQueued s p.val then 3 else 2)
    else portSlot s p.val
  | _ => internalSlot s eg

end Sys2Proof.Machine
end

