-- ==== Sys2Proof/Machine/Pwr.lean ====
section
/-! DEFINITION. Power states, resets and start-up (chapter 15), with what they do to the memory tiers (R239-R243) and the loss of a die
(R61). -/

namespace Sys2Proof.Machine

/-- Change the power state. -/
def setPwr (s : State) (p : Pwr) : State := { s with pwr := p }
/-- STATE of PWR_STATUS: 0 Run, 1 Poise, 2 Hush, 3 Still, 4 Vigil. -/
def setPwrState (s : State) (v : Nat) : State := setFld s PWR_STATUS 2 0 v
/-- The module does something: it is not Off, held in power-on reset or switched off by a thermal trip (R421, R439, R488). -/
def live (s : State) : Bool := !s.pwr.off && !s.pwr.dark
/-- A change that leaves the queue of waiting commands as it is: only a step takes from the queue. -/
def aside (s : State) (f : State → State) : State := { f s with pending := s.pending }
/-- A change made only while the module is live. -/
def act (s : State) (f : State → State) : State := if live s then aside s f else s
/-- A change of PWR_STATUS's or another level, with the interrupt of R460. -/
def setPwrBit (s : State) (b : Nat) (v : Bool) : State := alertEdge s (setBitOf s PWR_STATUS b v)
/-- Microseconds since the start of start-up (R443). -/
def sinceStart (s : State) : Nat := (s.now - s.pwr.startAt) / 1000

/-! ## Resets (R438) -/

/-- Registers that a module reset keeps: the RWS words with the cause of this reset, the levels of the discrete inputs, the throttle that
an asserted CAP_LOW_N keeps up, and SEC_STATUS.DEBUG (R394). -/
def keptRegs (s : State) (cause : Nat) (r : State) : State :=
  let r := wr r SWC_AUDIT_RECLAIMED (rd s SWC_AUDIT_RECLAIMED)
  let r := setBitOf (wr r PWR_RESET_CAUSE (rd s PWR_RESET_CAUSE)) PWR_RESET_CAUSE cause true
  let r := wr r PWR_INPUTS (fldOf s PWR_INPUTS 4 0)
  let r := setBitOf r PWR_STATUS 6 (bitOf s PWR_INPUTS 3)
  wr r SEC_STATUS (fldOf s SEC_STATUS 3 3 * 8)

/-- What the island, the NVM and the fuses keep of Clasp's and the configuration's state (R378, R387, R399). -/
def keptCfg (s : State) : Cfg :=
  { nvm := s.cfg.nvm, fwLen := s.cfg.fwLen, roles := s.cfg.roles, boots := s.cfg.boots, before := s.cfg.before }

/-- Every counter line marked as failed, so that a full-line WRITE rebuilds it (R240, R244). -/
def badSeals (m : SMap SealLine) (keep : Nat → Bool) : SMap SealLine := m.map fun e => (e.1, if keep e.1 then e.2 else { e.2 with bad := true })

/-- Module reset (R438), or with phase 1 the exit from Vigil (R427): every domain but the always-on island takes its Reset values. Kept
are the local counter, memory keys, stored training, root counters, BOOTS, the NVM, and what log entry 49 names. Memory contents are
treated by R240: every line not retained is poisoned. -/
def resetState (s : State) (ph cause : Nat) (retained : Nat → Bool) : State :=
  let h : Homes := { mem := s.homes.mem, dirBits := s.homes.dirBits.filter fun e => retained e.1, roots := s.homes.roots,
                     seals := if ph = 1 then s.homes.seals else badSeals s.homes.seals fun _ => false,
                     spared := s.homes.spared, storedMem := s.homes.storedMem,
                     evacCopy := if ph = 1 then s.homes.evacCopy else [], evacSaved := if ph = 1 then s.homes.evacSaved else [] }
  let r : State := { State.reset with
    part := s.part, now := s.now, freeIdx := s.freeIdx, out := s.out, pending := s.pending,
    lanes := s.lanes.filterMap fun e => if e.2.stored then some (e.1, { stored := true }) else none,
    homes := h, cfg := keptCfg s,
    res := { summary := s.res.summary, summarySeq := s.res.summarySeq, summaryPend := s.res.summaryPend, summaryAt := s.res.summaryAt },
    sec := { memKeys := s.sec.memKeys, keyMismatch := s.sec.keyMismatch, signedAt := s.sec.signedAt, locketCtr := s.sec.locketCtr },
    pwr := { inputs := s.pwr.inputs, heldWakes := s.pwr.heldWakes, handedOver := s.pwr.handedOver, startAt := s.now,
             tripped := s.pwr.tripped, moduleResetNote := ph == 0 },
    hosts := { i3cAddr := s.hosts.i3cAddr } }
  setFld (keptRegs s cause r) PWR_STATUS 5 3 ph

/-- A module reset now: no line is retained. -/
def resetNow (s : State) (cause : Nat) : State := resetState s 0 cause fun _ => false

/-- Power-on reset (R438): everything takes its Reset value; the NVM, the fuses, the Locket counter (R383) and the outputs so far remain. -/
def powerOn (s : State) : State :=
  { State.reset with
    part := s.part, freeIdx := s.freeIdx, out := s.out, pending := s.pending, cfg := keptCfg s,
    res := { summary := s.res.summary, summarySeq := s.res.summarySeq }, sec := { locketCtr := s.sec.locketCtr } }

/-- Off, or held in power-on reset (R421, R488). -/
def switchOff (s : State) : State := let r := powerOn s; setPwr r { r.pwr with off := true }

/-! ## Entry to Still and Vigil (R425) -/

/-- The entry to a lower state, or a handoff before a reset, is under way. -/
def entering (s : State) : Bool := s.pwr.target == 3 || s.pwr.target == 4

/-- Groups in which the module is leaf, owner or steward become degraded (R425). -/
def degradeAll (s : State) : State :=
  forEach ((List.range 1024).filter (gValid s)) s fun s g => if gLeaf s g || gOwner s g || gSteward s g then markDegraded s g else s

/-- Groups whose shards the module owns become degraded (R61). -/
def degradeOwned (s : State) : State :=
  forEach ((List.range 1024).filter (gValid s)) s fun s g => if gOwner s g then markDegraded s g else s

/-- Every lane is switched off. -/
def lanesOff (s : State) : State := forEach ((List.range (nLanes s)) ++ (List.range 16).map (512 + ·)) s laneOff

/-- Step 3: every port leaves service; its lanes go dark. The twin is not watched while the module is away. -/
def portsLeave (s : State) : State :=
  let s := lanesOff (forEach (allPorts s) s leaveService)
  degradeAll (setTwin s { s.res.twin with downAt := none })

/-- Carry an entry, or the handoff before a reset, on as far as it goes (R425, R438). -/
def pwrProgress (s : State) : State :=
  let p := s.pwr
  let handing := s.res.twin.handingOff && twinUp s
  if handing then s
  else if p.target = 5 then resetNow s 1
  else if p.target = 6 then resetNow s 2
  else if !entering s then s
  else
    let s := if p.entryStep = 1 then
        forEach (List.range 16) (setPwr s { p with entryStep := 2 }) ctxStop
      else s
    let s := if s.pwr.entryStep = 2 && (List.range 16).all (fun c => ctxState s c == 0) then
        portsLeave (setPwr s { s.pwr with entryStep := 4 })
      else s
    if s.pwr.entryStep = 4 then recallWhere s fun _ => true else s

/-- A write of REQ 3 or 4 to PWR_CMD (R425): accepted in Run with no other entry or reset under way. -/
def startEntry (s : State) (tgt : Nat) : State :=
  if pwrState s ≠ 0 || s.pwr.target ≠ 0 then s
  else pwrProgress (startHandoff (setPwr (setBitOf s PWR_STATUS 10 true) { s.pwr with target := tgt, entryStep := 1 }))

/-- A module reset is asked for (R438): first the handoff where a twin port is in service (R348). It supersedes an entry. -/
def requestReset (s : State) (tgt : Nat) : State :=
  if s.pwr.target = 5 || s.pwr.target = 6 then s
  else pwrProgress (startHandoff (setPwr (setBitOf s PWR_STATUS 10 false) { s.pwr with target := tgt, entryStep := 0 }))

/-- A region is evacuated: in the Loft with EVAC set, and for Vigil with its area in the Keepsake window (R241). -/
def evacuated (s : State) (tgt : Nat) (r : Region) : Bool :=
  r.tier == 0 && r.evac && (tgt == 3 || inKeepsake s (r.evacBase * 2 ^ 20))

/-- Lines that an evacuation saves: those of its regions that are not poisoned (log entry 48). -/
def evacLines (s : State) (tgt : Nat) : List Nat :=
  let rs := ((validRegions s).map (regionOf s)).filter (evacuated s tgt)
  (s.homes.dirBits.filter fun e => e.2.toNat < 2 && rs.any fun r => r.holds (e.1 * 128)).map (·.1)

/-- A line is retained in Still or Vigil (R239). -/
def lineKept (s : State) (tgt line : Nat) : Bool := if tgt = 3 then inCellar s (line * 128) else inKeepsake s (line * 128)

/-- A counter line is retained: its region lies in what is retained, or is evacuated. -/
def sealKept (s : State) (tgt k : Nat) : Bool :=
  ((validRegions s).map (regionOf s)).any fun r => r.sealed && (lineKept s tgt (r.base * 8192) || evacuated s tgt r) &&
    decide (r.tier = k / 2 ^ 24 % 2) && decide (r.sealBase ≤ k % 2 ^ 24) && decide (k % 2 ^ 24 < r.sealBase + sealLines r.size)

/-- The Pantry is powered off: what stood there is open (R421). -/
def pantryLost (s : State) : State :=
  let n := s.hall.pantry.length
  let i := s.freeIdx
  let m := (s.hall.pantry.zipIdx).foldl (fun m e => cellSet m e.1.1 (BitVec.ofNat 8 (Config.free (i + e.2)).toNat)) []
  { setHall s { s.hall with pantry := m, cup := [], tlb := [], walks := [] } with freeIdx := i + n }

/-- Steps 5 and 6 (R425): the evacuation, and the target state. -/
def enterDeep (s : State) : State :=
  let t := s.pwr.target
  let ls := evacLines s t
  let copy := ls.foldl (fun m l => cellWrite m (l * 128) (cellRead s.homes.mem (l * 128) 128)) []
  let seals := badSeals s.homes.seals (sealKept s t)
  let bits := s.homes.dirBits.filter fun e => lineKept s t e.1
  let s := ev { s with homes := { s.homes with evacCopy := copy, evacSaved := ls, seals := seals, dirBits := bits } } 1675 ls.length
  let s := pantryLost (hostLinkGone (hostLinkGone s 0) 1)
  let s := setFld s MEM_STATUS 3 0 0
  setPwrState (setPwr (setBitOf s PWR_STATUS 10 false) { s.pwr with target := 0, entryStep := 0 }) t

/-- POWER_STATE_ENTERED: once every cached line has been recalled. -/
def stateEntered (s : State) : State :=
  let s := pwrProgress s
  if entering s && s.pwr.entryStep = 4 && noneCached s (fun _ => true) then enterDeep s else s

/-- Bring every enabled port up (R93); the twin's absence is timed from here. -/
def portsUp (s : State) : State :=
  let s := forEach (allPorts s) s bringUpPort
  setTwin s { s.res.twin with downAt := if twinUp s then none else some s.now }

/-- A wake event ends the entry (R426): ports go to bring-up, contexts to STATE 0, POWER_ENTRY_ABANDONED. -/
def abandonEntry (s : State) : State :=
  if !entering s then s
  else
    let was := s.pwr.entryStep
    let s := setPwr (setBitOf s PWR_STATUS 10 false) { s.pwr with target := 0, entryStep := 0 }
    fault0 (if was = 4 then portsUp s else s) 0x0A09 0 13

/-! ## Wake events (R422-R424) -/

/-- Wake events of Still and Vigil. -/
def deepWake : WakeEvent → Bool
  | .i3cRun | .perstDeassert _ | .pwrgoodRise => true
  | _ => false

/-- From Poise or Hush to Run: the STOP of Hush clears in the first trailers (R424), the Hall goes on. -/
def wakeRun (s : State) : State :=
  if pwrState s ≠ 1 && pwrState s ≠ 2 then s
  else
    let s := forEach (allPorts s) s fun s p =>
      let l := link s p
      if l.stopHush then setLink s p { l with stopHush := false, stopTx := s.sw.stopReserve, owed := max l.owed 1 } else s
    let s := setPwrState s 0
    hallKick (setPwr s { s.pwr with idleSince := s.now })

/-- The Loft's contents are gone after Still (R240): MEM_CONTENT_LOST, once per tier; byte 16 names the tier (log entry 14). -/
def contentLost (s : State) (tier : Nat) : State := fault s 0x0407 0 (2 + tier) (myEpc s 1) (det [(16, 1, tier)])

/-- Exit from Still (R426). -/
def stillExit (s : State) : State :=
  if pwrState s ≠ 3 then s
  else
    let s := setPwr (setPwrState s 0) { s.pwr with idleSince := s.now, heldWakes := [] }
    let t := Vector.ofFn fun (i : Fin 12) => decide (4 ≤ i.val) && vget false s.homes.trained i.val
    let s := setBitOf { s with homes := { s.homes with trained := t } } MEM_STATUS 12 true
    let s := setBitOf s MEM_STATUS 14 (s.homes.evacSaved != [])
    portsUp (contentLost s 0)

/-- Exit from Vigil (R427): start-up resumed at Reading, without a MODULE_RESET record. -/
def vigilExit (s : State) : State :=
  if pwrState s ≠ 4 then s
  else
    let kept := s.homes.dirBits.map (·.1)
    let s := resetState s 1 4 kept.contains
    let s := setBitOf (setPwr s { s.pwr with heldWakes := [] }) MEM_STATUS 14 (s.homes.evacSaved != [])
    contentLost (contentLost s 0) 1

/-- A wake event (R422): accepted where the state lists it; otherwise held until Poise is next entered. In Run it ends an entry where
Still or Vigil would accept it, and is otherwise held during one. -/
def wakeEvent (s : State) (e : WakeEvent) : State :=
  match pwrState s with
  | 1 | 2 => wakeRun s
  | 3 => if deepWake e then stillExit s else setPwr s { s.pwr with heldWakes := s.pwr.heldWakes ++ [e] }
  | 4 => if deepWake e then vigilExit s else setPwr s { s.pwr with heldWakes := s.pwr.heldWakes ++ [e] }
  | _ =>
    if !entering s then s
    else if deepWake e then abandonEntry s
    else setPwr s { s.pwr with heldWakes := s.pwr.heldWakes ++ [e] }

/-- A write of REQ 1 to PWR_CMD (R422): a wake request in any state; through I3C alone in Still and Vigil. -/
def cmdRun (s : State) (i3c : Bool) : State :=
  match pwrState s with
  | 3 | 4 => if i3c then wakeEvent s .i3cRun else s
  | _ => wakeEvent s .i3cRun

/-- A port has both directions in electrical idle, or sends and hears nothing at all (R423). -/
def portIdle (s : State) (p : Nat) : Bool :=
  if inService s p then bitOf s (LNK_PORT_STATUS p) 9 && bitOf s (LNK_PORT_STATUS p) 10
  else (lanesOf s p).all fun n => laneState s n == 0 || laneState s n == 5 || laneState s n == 6

/-- The conditions of R423, the dwell apart. -/
def poiseReady (s : State) : Bool :=
  (allPorts s).all (portIdle s) &&
  (List.range 16).all (fun c => ctxState s c == 0 || ctxState s c == 2) &&
  !(s.e2e.outs.any fun r => (match r.agent with | .dma _ _ _ => true | _ => false) || r.fn.isSome) && s.hosts.inbound == []

/-- Since when the conditions have held: the last host activity counts too. -/
def idleFrom (s : State) : Nat := max s.pwr.idleSince s.hosts.busyAt

/-- POISE_DWELL and HUSH_DWELL in ns; the reserved 0 gives the default (R443). -/
def poiseDwell (s : State) : Nat := let v := fldOf s PWR_IDLE_CFG 15 0; 100 * (if v = 0 then 10 else v)
def hushDwell (s : State) : Nat := let v := fldOf s PWR_IDLE_CFG 31 16; 1000 * (if v = 0 then 100 else v)
/-- AUTO of PWR_CFG. -/
def autoIdle (s : State) : Nat := fldOf s PWR_CFG 12 11

/-- POISE_ENTRY (R423). A held wake event is acted on at once. -/
def poiseEntry (s : State) : State :=
  if pwrState s ≠ 0 || s.pwr.target ≠ 0 || (autoIdle s ≠ 1 && autoIdle s ≠ 2) || !poiseReady s || s.now < idleFrom s + poiseDwell s then s
  else
    let s := ev (setPwr (setPwrState s 1) { s.pwr with idleSince := s.now }) 8 1
    if s.pwr.heldWakes = [] then s else wakeRun (setPwr s { s.pwr with heldWakes := [] })

/-- The further conditions of Hush. -/
def hushReady (s : State) : Bool :=
  poiseReady s && s.sw.queue == [] && s.sw.drain.isNone && s.homes.tokens == [] &&
  !(s.homes.lines.any fun e => e.2.active.isSome || e.2.hot || e.2.queue != [])

/-- HUSH_ENTRY (R423, R424): STOP goes out in a trailer on every in-service port, which then stays idle. -/
def hushEntry (s : State) : State :=
  if pwrState s ≠ 1 || autoIdle s ≠ 2 || !hushReady s || s.now < idleFrom s + hushDwell s then s
  else
    let s := forEach ((allPorts s).filter (inService s)) s fun s p =>
      sendControl (setLink s p { link s p with stopTx := true, stopHush := true }) p
    ev (setPwrState s 2) 9 1

/-! ## The power cap (R428-R431) -/

/-- A share of 256, 0 standing for all of it (log entry 46). -/
def share256 (v : Nat) : Nat := if v = 0 then 256 else v

/-- Narrow a port to its MIN_WIDTH good lanes, or widen it to all (R83, R428). -/
def planWidth (s : State) (p : Nat) (narrow : Bool) : State :=
  let good := goodLanes s p
  let all := (lanesOf s p).filter fun n => (lane s n).phase == .inPort
  let ls := if narrow then good.take (minWidth s p) else all
  let s := setLink (announceWidth s p (maskOfLanes s p ls)) p { link (announceWidth s p (maskOfLanes s p ls)) p with narrowed := narrow }
  let k := fldOf s PWR_MEASURES 25 18
  setFld s PWR_MEASURES 25 18 (if narrow then min 255 (k + 1) else k - 1)

/-- Sent slots of a port since the last look (R476). -/
def sentSince (s : State) (p : Nat) : Nat := evGet s (32 + 4 * p) - (link s p).sentBase

/-- The port to narrow next: of those in service above MIN_WIDTH, the one that sent least. -/
def portToNarrow (s : State) : Option Nat :=
  leastBy (sentSince s) ((allPorts s).filter fun p => inService s p && !(link s p).narrowed && decide (minWidth s p < popMask (laneMask s p)))

/-- One further measure (R428, R431). CAP_UNATTAINABLE is set with the last of them (DEDUCED from R431's order: log entry 46). -/
def tighten (s : State) (watts : Nat) : State :=
  let m := PWR_MEASURES
  if fldOf s m 1 0 < 3 then setFld s m 1 0 (fldOf s m 1 0 + 1)
  else if 16 < share256 (fldOf s m 9 2) then setFld s m 9 2 (share256 (fldOf s m 9 2) - 16)
  else if 16 < share256 (fldOf s m 17 10) then setFld s m 17 10 (share256 (fldOf s m 17 10) - 16)
  else match portToNarrow s with
    | some p => planWidth s p true
    | none =>
      if !bitOf s PWR_STATUS 7 then setPwrBit (countGap s) 7 true
      else if !bitOf s PWR_STATUS 8 then
        let s := setPwrBit (setPwrBit s 8 true) 9 true
        fault s 0x0A01 3 13 (myEpc s 0) (det [(16, 2, fldOf s PWR_CAP 15 0), (18, 2, watts)])
      else s

/-- Release one measure, in reverse order. -/
def release1 (s : State) : State :=
  let m := PWR_MEASURES
  if bitOf s PWR_STATUS 8 || bitOf s PWR_STATUS 9 then setPwrBit (setPwrBit s 8 false) 9 false
  else if bitOf s PWR_STATUS 7 then hallKick (setPwrBit s 7 false)
  else match (allPorts s).find? fun p => (link s p).narrowed with
    | some p => if inService s p then planWidth s p false
      else setFld (setLink s p { link s p with narrowed := false }) m 25 18 (fldOf s m 25 18 - 1)
    | none =>
      if fldOf s m 17 10 ≠ 0 then setFld s m 17 10 (if fldOf s m 17 10 + 16 ≥ 256 then 0 else fldOf s m 17 10 + 16)
      else if fldOf s m 9 2 ≠ 0 then arrayKick (setFld s m 9 2 (if fldOf s m 9 2 + 16 ≥ 256 then 0 else fldOf s m 9 2 + 16))
      else if fldOf s m 1 0 ≠ 0 then setFld (countGap s) m 1 0 (fldOf s m 1 0 - 1)
      else setPwr s { s.pwr with capRaised := false }

/-- CAP_CONTROL: the firmware looks at the measured power and applies or releases one measure. The current it shows is open (log entry
46). -/
def capControl (s : State) (watts : Nat) : State :=
  let cap := fldOf s PWR_CAP 15 0
  let s := takeFree (wr s PWR_MEASURE (watts % 2 ^ 16 + freeVal s % 2 ^ 16 * 2 ^ 16))
  let s := if pwrState s ≠ 0 then s
    else if cap ≠ 0 && decide (cap < watts) then tighten s watts
    else if s.pwr.capRaised then release1 s else s
  forEach (allPorts s) s fun s p => if inService s p then setLink s p { link s p with sentBase := evGet s (32 + 4 * p) } else s

/-- PWR_CAP is written: a raised or removed cap lets measures go (R428). -/
def capWritten (s : State) (v : Nat) : State :=
  let old := fldOf s PWR_CAP 15 0
  let new := v % 2 ^ 16
  setPwr (wr s PWR_CAP new) { s.pwr with capRaised := new == 0 || (old != 0 && decide (old < new)) }

/-- The throttle acts (R429). -/
def throttleOn (s : State) : State :=
  if bitOf s PWR_STATUS 6 then s else fault0 (setPwrBit (countGap s) 6 true) 0x0A02 0 13

/-- The throttle ends, once CAP_LOW_N is released and the measures of PWR_CAP are applied (R430). -/
def throttleOff (s : State) : State :=
  if !bitOf s PWR_STATUS 6 || bitOf s PWR_INPUTS 3 then s else hallKick (setPwrBit (countGap s) 6 false)

/-! ## Thermal trip, lockouts (R439, R488) -/

/-- A die's number in details: in the order of R51 (log entry 14). -/
def dieNum : Die → Nat
  | .hearth => 0 | .hall => 1 | .store d => 2 + d.val | .port d => 4 + d.val

/-- THERMAL_TRIP: THERMTRIP_N, the record, and the power stages off; a sensor at 95 °C in the Waking of a restart does the same without a
new record. -/
def thermalTrip (s : State) (d : Die) : State :=
  if s.pwr.dark then s
  else if s.pwr.tripped then setPwr s { s.pwr with dark := true }
  else
    let s := fault s 0x0A08 4 13 (myEpc s 0) (det [(16, 1, dieNum d)])
    setPwr s { s.pwr with tripped := true, dark := true }

/-- THERMAL_RESTART: a module reset, while PWRGOOD is high. -/
def thermalRestart (s : State) : State := if s.pwr.dark && bitOf s PWR_INPUTS 0 then resetNow s 3 else s

/-! ## Discrete inputs (R432-R434) -/

/-- Bit of an input in PWR_INPUTS. -/
def inputBit : Sys2Proof.Input → Nat
  | .pwrgood => 0 | .perst0 => 1 | .perst1 => 2 | .capLow => 3 | .twinPrsnt => 4

/-- The record of an input. -/
def inputOf (s : State) (i : Sys2Proof.Input) : InputState := cget {} s.pwr.inputs (inputBit i)
/-- Store the record of an input. -/
def setInput (s : State) (i : Sys2Proof.Input) (x : InputState) : State :=
  setPwr s { s.pwr with inputs := cset {} s.pwr.inputs (inputBit i) x }

/-- The accepted level is noted, and damping begins at the third change within 1 ms (R434). -/
def noteChange (s : State) (i : Sys2Proof.Input) (active : Bool) : State :=
  let x := inputOf s i
  let recent := (x.changes.filter fun t => decide (s.now < t + 1000000)) ++ [s.now]
  let triple := decide (3 ≤ recent.length)
  let s := setInput s i { x with
    changes := recent, lastChange := s.now, activeSince := if active then s.now else x.activeSince,
    stuckSent := x.stuckSent && active, tripleAt := if triple then s.now else x.tripleAt, damped := x.damped || triple }
  let s := setBitOf s PWR_INPUTS (inputBit i) active
  if triple && !x.damped then
    fault (alertEdge s (setBitOf s PWR_INPUTS (16 + inputBit i) true)) 0x0A04 0 13 (myEpc s 0) (det [(16, 1, inputBit i)])
  else s

/-- What an accepted level does. -/
def inputActs (s : State) (i : Sys2Proof.Input) (active : Bool) : State :=
  match i with
  | .pwrgood => if active then s else switchOff s
  | .perst0 | .perst1 =>
    let j := inputBit i - 1
    if active then hostPerst s j
    else if 3 ≤ pwrState s || entering s then wakeEvent s (.perstDeassert (Fin.ofNat 2 j)) else s
  | .capLow => if active then throttleOn s else s
  | .twinPrsnt => if !active && confirmRun s then declareLost s else s

/-- INPUT_ACCEPT (R432): a level held for 1 µs is accepted, unless the input is damped and changed within 10 ms; an assertion of CAP_LOW_N is
always accepted. In Off only a rise of PWRGOOD is seen, and is a power-on reset. -/
def inputAccept (s : State) (i : Sys2Proof.Input) (active : Bool) : State :=
  let x := inputOf s i
  if s.pwr.off then
    (match i with
      | .pwrgood => if active then setBitOf (powerOn s) PWR_INPUTS 0 true else s
      | _ => s)
  else if bitOf s PWR_INPUTS (inputBit i) == active then s
  else if x.damped && decide (s.now < x.lastChange + 10000000) && !(i == .capLow && active) then s
  else
    let s := noteChange s i active
    inputActs (wakeRun s) i active

/-- INPUT_STUCK (R433): PERST_N or CAP_LOW_N active for 10 s. -/
def inputStuck (s : State) (i : Sys2Proof.Input) : State :=
  let x := inputOf s i
  if i == .pwrgood || i == .twinPrsnt || !bitOf s PWR_INPUTS (inputBit i) || x.stuckSent || s.now < x.activeSince + 10000000000 then s
  else
    let s := setInput s i { x with stuckSent := true }
    fault (alertEdge s (setBitOf s PWR_INPUTS (8 + inputBit i) true)) 0x0A03 0 13 (myEpc s 0) (det [(16, 1, inputBit i)])

/-- DAMPING_END (R434): 1 s without three changes within 1 ms. -/
def dampingEnd (s : State) (i : Sys2Proof.Input) : State :=
  let x := inputOf s i
  if !x.damped || s.now < x.tripleAt + 1000000000 then s else setInput s i { x with damped := false }

/-! ## Memory at start-up and on exits (R240-R243) -/

/-- The device exists on this member. -/
def deviceExists (s : State) (n : Nat) : Bool := if n < 4 then decide (n < nStacks s) else decide (n - 4 < nGroups s)

/-- Devices of a tier are all trained or failed. -/
def tierTrained (s : State) (cellar : Bool) : Bool :=
  (List.range 12).all fun n => (decide (4 ≤ n) != cellar) || !deviceExists s n || vget false s.homes.trained n

/-- A device is lost (R243): requests to its lines complete UNREACHABLE, and the twin takes over. -/
def deviceLost (s : State) (n code : Nat) : State :=
  let s := fault (setBitOf s MEM_STATUS n false) code 3 (2 + (if n < 4 then n / 2 else (n - 4) / 4)) (myEpc s 1) (det [(22, 1, n)])
  startHandoff s

/-- MEM_TRAINING_DONE (R242): full training or the verification of stored values ends; one that fails its verification falls back to full
training. -/
def trainingDone (s : State) (n : Nat) (ok stored : Bool) : State :=
  if phase s < 2 || !deviceExists s n || vget false s.homes.trained n || 1 ≤ pwrState s then s
  else if stored && (!vget false s.homes.storedMem n || bitOf s MEM_TRAIN_CFG 0 || !ok) then s
  else
    let s := { s with homes := { s.homes with trained := vset s.homes.trained n true } }
    if ok then
      let s := { s with homes := { s.homes with storedMem := vset s.homes.storedMem n true } }
      setBitOf (setBitOf s MEM_STATUS n true) MEM_TRAIN_STATUS n stored
    else deviceLost (setBitOf s MEM_TRAIN_STATUS (12 + n) true) n 0x0408

/-- MEM_DEVICE_LOST in Run. -/
def memLost (s : State) (n : Nat) : State := if deviceUp s n then deviceLost s n 0x0409 else s

/-- POISON_MARKING_DONE (R240): the tier's bits are set, and waiting requests go on. -/
def markingDone (s : State) (cellar : Bool) : State :=
  let b := if cellar then 13 else 12
  if !bitOf s MEM_STATUS b || !tierTrained s cellar then s
  else
    let s := setBitOf s MEM_STATUS b false
    forEach (waitingLines s) s settle

/-- EVAC_RESTORE_DONE (R241): a region's saved lines are back, in ascending order. -/
def evacRestored (s : State) (i : Nat) : State :=
  if !bitOf s MEM_STATUS 14 || bitOf s MEM_STATUS 12 || !tierTrained s false then s
  else
    let r := regionOf s i
    let s := if (validRegions s).contains i then forEach (s.homes.evacSaved.filter fun l => r.holds (l * 128)) s restoreLine else s
    if s.homes.evacSaved = [] then setBitOf s MEM_STATUS 14 false else s

/-! ## The loss of a die (R61) -/

/-- Packets queued for an egress point are discarded. -/
def flushEgress (s : State) (eg : Egress) : State :=
  let mine (e : QEntry) : Bool := (match e.kind with | .hold | .hearth => false | _ => true) && e.targets.any fun t => t.1 == eg
  let gone := s.sw.queue.filter mine
  let rest := s.sw.queue.filterMap fun e =>
    if !mine e then some e
    else
      let ts := e.targets.filter fun t => t.1 != eg
      if ts = [] then none else some { e with targets := ts }
  forEach gone { s with sw := { s.sw with queue := rest } } fun s e =>
    if (e.targets.filter fun t => t.1 != eg) = [] then freeCells s e.ing e.period e.pkt.vc e.left else s

/-- Ports with a lane on a die. -/
def portsOnDie (s : State) (d : Nat) : List Nat := (allPorts s).filter fun p => (lanesOf s p).any fun n => dieOfLane s n == d

/-- What each die takes with it. -/
def dieEffects (s : State) (d : Die) : State :=
  match d with
  | .hearth => wr (lanesOff (forEach (allPorts s) s leaveService)) COL_STATUS 0
  | .store _ =>
    let s := degradeOwned (forEach (List.range 16) s ctxStop)
    startHandoff s
  | .hall =>
    let s := flushEgress s .hall
    let s := forEach ((List.range 16)) { s with hall := {} } fun s c => wr s (HAL_CTX_STATUS c) 0
    let s := { s with e2e := { s.e2e with outs := s.e2e.outs.filter fun r => epcUnit r.pkt.src != 9 } }
    degradeOwned (wr s HAL_STATUS 0)
  | .port k =>
    let s := forEach (portsOnDie s k.val) s fun s p => forEach (lanesOf s p) (portDown s p) laneOff
    let s := if k.val = 0 then hostLinkGone (hostLinkGone s 0) 1 else s
    if k.val = 3 then setBitOf (flushEgress s .mgmt) SEC_STATUS 2 false else s

/-- DIE_LOST: Fatal for the Hearth, Service-affecting otherwise. -/
def dieLost (s : State) (d : Die) : State :=
  if dieDead s d then s
  else
    let s := { s with res := { s.res with deadDies := s.res.deadDies ++ [d] } }
    let s := fault s 0x0701 (if d = .hearth then 4 else 3) 13 (myEpc s 0) (det [(16, 1, dieNum d)])
    updateService (dieEffects s d)

/-! ## Internal domain resets (R437, R438) -/

/-- Number of a domain in details (log entry 14), and its key among the domains in reset. -/
def domainNum : Domain → Nat
  | .lane m => m.val | .txPll n => 66 + n.val | .hbm n => 74 + n.val | .lpddr n => 78 + n.val | .pcie j => 86 + j.val
  | .hearthCore => 88 | .storeHome => 89 | .hallEngines => 90 | .hallArray => 91 | .hub => 92
  | .crypto => 93 | .clasp => 94 | .annex => 95 | .nvmIf => 97 | .sensors => 98 | .debug => 99

/-- The domain exists on this member (R59). -/
def domainExists (s : State) : Domain → Bool
  | .lane m => if s.part.hz7134 then decide (m.val < 32) || decide (64 ≤ m.val) else true
  | .hbm n => decide (n.val < nStacks s)
  | .lpddr n => decide (n.val < nGroups s)
  | _ => true

/-- Lanes of a receive macro. -/
def macroLanes (m : Nat) : List Nat := (List.range 8).map fun i => if m < 64 then 8 * m + i else 512 + 8 * (m - 64) + i

/-- Fabric ports on a transmit PLL: half the lanes of a port die each. -/
def pllPorts (s : State) (n : Nat) : List Nat :=
  (List.range (nPorts s)).filter fun p => match portLanes s p with
    | some (f, _) => dieOfLane s f == n / 2 && f % lanesPerDie s / (lanesPerDie s / 2) == n % 2
    | none => false

/-- The reset of one domain, with what its neighbours flush. -/
def domainEffects (s : State) (d : Domain) : State :=
  match d with
  | .lane m => forEach (macroLanes m.val) s fun s n => if (lane s n).phase == .off || (lane s n).phase == .failed then s else lossOfLock s n
  | .txPll n => forEach (pllPorts s n.val) s retrain
  | .pcie j => hostLinkGone s j.val
  | .hearthCore =>
    let gone := s.sw.queue
    let s := forEach gone { s with sw := { s.sw with queue := [] }, inbox := [] } fun s e => freeCells s e.ing e.period e.pkt.vc e.left
    noteHeld s
  | .storeHome =>
    let s := flushEgress (flushEgress s (.store 0)) (.store 1)
    let s := { s with homes := { s.homes with lines := [], tokens := [], unitDefers := [] },
                      inbox := s.inbox.filter fun d => !(decide (1 ≤ epcUnit d.pkt.dest) && decide (epcUnit d.pkt.dest ≤ 8)) }
    noteHome (noteHome s 0) 1
  | .hallEngines =>
    let s := flushEgress s .hall
    let s := forEach (List.range 16) s fun s c => setFld (setHctx s c {}) (HAL_CTX_STATUS c) 2 0 0
    let s := setHall s { s.hall with tlb := [], walks := [], run := none, paused := [], spilled := [], spilling := none, restoring := none,
                                     epilogue := none, stopped := false }
    noteArray { s with e2e := { s.e2e with outs := s.e2e.outs.filter fun r => epcUnit r.pkt.src != 9 } }
  | .hallArray =>
    noteArray (setHall s { s.hall with run := none, paused := [], spilled := [], spilling := none, restoring := none, epilogue := none,
                                       stopped := false })
  | .hub => flushEgress (flushEgress (flushEgress (flushEgress (flushEgress (flushEgress s (.store 0)) (.store 1)) .hall) (.host 0)) (.host 1)) .mgmt
  | .clasp =>
    let s := { s with sec := { s.sec with queue := [], signing := none, delivery := none } }
    forEach (List.range 5) s fun s w => if windowBusy s w && !(s.sec.applying.any fun a => a.owner == .request w) then setWState s w 0 else s
  | .annex => flushEgress s .mgmt
  | .hbm _ | .lpddr _ | .crypto | .nvmIf | .sensors | .debug => s

/-- INTERNAL_DOMAIN_RESET: DOMAIN_RESET is written, and the crossings stay closed until they resume. -/
def domainReset (s : State) (d : Domain) : State :=
  if !domainExists s d then s
  else
    let s := setPwr s { s.pwr with inReset := d :: s.pwr.inReset.filter (· ≠ d) }
    fault (domainEffects s d) 0x0A05 1 13 (myEpc s 0) (det [(16, 1, domainNum d)])

/-- CROSSING_RESUME: both sides are out of reset and flushed; the crossings are empty, so their credits are whole. -/
def crossingResume (s : State) (d : Domain) : State :=
  let s := setPwr s { s.pwr with inReset := s.pwr.inReset.filter (· ≠ d) }
  if d = .hallEngines || d = .hallArray then hallKick s else s

/-! ## Start-up (R440, R441) -/

/-- A phase has ended. -/
def notePhase (s : State) (n : Nat) : State := setFld (wr s (PWR_PHASE_END n) (sinceStart s % 2 ^ 32)) PWR_STATUS 5 3 (n + 1)

/-- The alias check of R349: regions handed over before the reset are served by the twin; otherwise what the twin answers is open. -/
def aliasCheck (s : State) : State :=
  let rs := ((validRegions s).map (regionOf s)).filter fun r => r.twinned && !r.standby
  if !twinUp s || rs = [] then s
  else
    let away := s.pwr.handedOver || freeVal s % 2 == 1
    let s := if s.pwr.handedOver then s else takeFree s
    let s := if away then forEach rs s fun s r => setBitOf s (HOM_REGION r.i 0) 23 true else s
    setPwr s { s.pwr with handedOver := false }

/-- Joining ends: partition keys, the alias check, Serving with PWR_PHASE_END 5, the MODULE_RESET record, and the probation that a commit
with RESET began (R413). -/
def startServing (s : State) : State :=
  let s := forEach ((partsUsed s).filter fun p => (memKey s p).isNone && !s.sec.keyWait.any fun k => k.1.toNat == p) s partitionEnters
  let b := aliasCheck s
  let s := alertEdge b (notePhase b 4)
  let s := wr s (PWR_PHASE_END 5) (sinceStart s % 2 ^ 32)
  let s := if twinUp s then s else setTwin s { s.res.twin with downAt := some s.now }
  let s := updateService (setPwr s { s.pwr with idleSince := s.now })
  let s := if s.cfg.roles.probation && s.cfg.probEnd = 0 then startProbation s else s
  if s.pwr.moduleResetNote then fault0 (setPwr s { s.pwr with moduleResetNote := false }) 0x0A06 0 13 else s

/-- PHASE_END: the work of the present phase is done. -/
def phaseEnd (s : State) : State :=
  if 1 ≤ pwrState s then s
  else match phase s with
    | 0 =>
      let s := setBitOf (setBitOf s SEC_STATUS 0 true) HAL_STATUS 0 (!dieDead s .hall)
      let s := wr s COL_STATUS (if dieDead s .hearth then 0 else 7)
      notePhase (setPwr s { s.pwr with tripped := false }) 0
    | 1 =>
      let s := readConfig (chooseClasp s)
      let s := setBitOf (setBitOf s MEM_STATUS 12 true) MEM_STATUS 13 true
      notePhase (forEach (allPorts s) s bringUpPort) 1
    | 2 => if tierTrained s false && tierTrained s true then notePhase s 2 else s
    | 3 => notePhase (if twinUp s then sendDigest s else s) 3
    | 4 => if !bitOf s MEM_STATUS 12 && !bitOf s MEM_STATUS 13 && floorUp s then startServing s else s
    | _ => s

/-- STARTUP_LATE: Serving not reached 1.2 s after the start for want of the floor (R441). -/
def startupLate (s : State) : State :=
  if phase s ≠ 4 || floorUp s || s.pwr.lateSent || s.now < s.pwr.startAt + 1200000000 then s
  else fault0 (setPwr s { s.pwr with lateSent := true }) 0x0A07 3 13

end Sys2Proof.Machine
end

