-- ==== Sys2Proof/Machine/LinkOps.lean ====
section
/-! DEFINITION. The events of lanes and ports (chapter 3): decoding and locks, training, entry to service, manual alignment, electrical
idle, width changes, and the margin monitors. An event whose condition does not hold changes nothing (log entry 20). -/

namespace Sys2Proof.Machine

/-! ## Decoding and locks (R68, R70) -/

/-- A lane's receiver decodes: it has FEC lock. -/
def decoding (s : State) (n : Nat) : Bool := bitOf s (LNK_LANE_STATUS n) 5

/-- One codeword with a number of symbol errors: corrected up to 7, or flagged. -/
def codeword (s : State) (n errs : Nat) (corrects : Bool) : State :=
  if errs = 0 then s
  else if corrects then lnkEv (bump64 s (LNK_LANE_FEC_CORR n) errs) 0 errs
  else lnkEv (bump64 s (LNK_LANE_FEC_UNCORR n) 1) 1 1

/-- CODEWORD_DECODE: a pair with so many symbol errors in codewords A and B; a burst of up to 14 consecutive symbols is corrected too. The
flits of a flagged codeword arrive flagged (FLIT_RECEIVE). -/
def decodePair (s : State) (n errA errB : Nat) (burst : Bool) : State :=
  if !decoding s n then s
  else
    let all := burst && decide (errA + errB ≤ 14)
    codeword (codeword s n errA (all || decide (errA ≤ 7))) n errB (all || decide (errB ≤ 7))

/-- Set a lock bit of a lane. -/
def setLock (s : State) (n b : Nat) : State := setBitOf s (LNK_LANE_STATUS n) b true

/-- FEC_LOCK: in the Lock phase, or regained after electrical idle (R82). -/
def fecLocked (s : State) (n : Nat) : State :=
  let l := lane s n
  if l.phase == .lock then setLock s n 5
  else if l.phase == .inPort && l.idleDeadline != 0 then setLock (setLane s n { l with idleDeadline := 0 }) n 5
  else s

/-- BLOCK_LOCK: after FEC lock. -/
def blockLocked (s : State) (n : Nat) : State := if (lane s n).phase == .lock && bitOf s (LNK_LANE_STATUS n) 5 then setLock s n 6 else s

/-- SUPERFRAME_LOCK: the third lock, which ends the Lock phase; Exchange has 1 ms (R73). -/
def sfLocked (s : State) (n : Nat) : State :=
  if (lane s n).phase == .lock && bitOf s (LNK_LANE_STATUS n) 6 then enterPhase (setLock s n 7) n .exchange 1000000 else s

/-- LOSS_OF_LOCK: of a lane that has FEC lock or serves its port, and whose silence was not announced (R71). -/
def losesLock (s : State) (n : Nat) : State :=
  let l := lane s n
  if (decoding s n || l.phase == .inPort) && !l.eiRx then lossOfLock s n else s

/-! ## Quarantine (R86, R87) -/

/-- QUAR_RECEIVE: the lane is left untrained for the stated period, or its own where that ends later; no loss of lock. -/
def quarReceived (s : State) (n secs : Nat) : State :=
  let l := lane s n
  if laneState s n ≠ 5 && !decoding s n then s
  else
    let s := setLaneState (clearLocks (enterPhase s n .off 0) n) n 5
    let s := setLane s n { lane s n with quarUntil := max l.quarUntil (s.now + secs * 1000000000), eiRx := false, idleDeadline := 0 }
    laneLeaves s n

/-- The port of a lane in the module's role, where it is enabled. -/
def trainPort (s : State) (n : Nat) : Option Nat :=
  match portOfLane s n with
  | some (p, _) => if portEnabled s p && (lanesOf s p).contains n then some p else none
  | none => none

/-- QUARANTINE_END: the lane starts from Detect; a lane whose port is disabled is off. -/
def quarantineEnds (s : State) (n : Nat) : State :=
  if laneState s n ≠ 5 || s.now < (lane s n).quarUntil then s
  else if (trainPort s n).isSome then startDetect s n else setLaneState s n 0

/-- QUARANTINE_LEVEL_RESET: 10 min in service without a loss of lock. -/
def levelReset (s : State) (n : Nat) : State :=
  if (lane s n).phase == .inPort && decide ((lane s n).cleanSince + 600000000000 ≤ s.now) then setFld s (LNK_LANE_QUAR n) 13 10 0 else s

/-! ## Training (R73-R78) -/

/-- LANE_DETECT: a signal is seen; step 0 begins, with its own retry. -/
def laneDetected (s : State) (n : Nat) : State :=
  let l := lane s n
  if l.phase == .detect then startStep (setLane s n { l with retried := false }) n 0 else s

/-- CAP_BLOCK_ACCEPT: two complete sets have been received. -/
def capSets (s : State) (n : Nat) (a b : BitVec 384) : State :=
  match (lane s n).phase with
  | .exchange | .equalise | .verify | .readyWait => if capAccepted a b then acceptCap s n b else s
  | _ => s

/-- EQUALISE_DONE. -/
def equalised (s : State) (n : Nat) : State := if (lane s n).phase == .equalise then stepCompleted s n else s

/-- VERIFY_DONE: one that fails runs Equalise in its place for this step, under the full timeout. -/
def verified (s : State) (n : Nat) (ok : Bool) : State :=
  if (lane s n).phase != .verify then s
  else if ok then stepCompleted s n else enterPhase s n .equalise (equaliseTime (laneStep s n))

/-- Where the suspension of a Lock timeout began (R80): MANUAL was set, or the phase began under it. -/
def manualFrom (s : State) (n : Nat) : Nat := max (lane s n).manualSince ((lane s n).deadline - 2000000)

/-- TRAINING_PHASE_TIMEOUT: the deadline has passed; the Lock phase's is suspended under manual alignment. -/
def phaseTimeout (s : State) (n : Nat) : State :=
  let l := lane s n
  let manual := bitOf s (LNK_LANE_ALIGN n) 0
  match l.phase with
  | .detect | .exchange | .equalise | .verify => if l.deadline ≤ s.now then phaseTimesOut s n else s
  | .lock => if l.deadline ≤ s.now && !manual then phaseTimesOut s n else s
  | _ => s

/-- STEP_ADVANCE: READY seen both ways; the next step begins, with its own retry. -/
def stepAdvances (s : State) (n : Nat) : State :=
  let l := lane s n
  if l.phase == .readyWait && l.readyTx && l.readyRx then startStep (setLane s n { l with retried := false }) n (laneStep s n + 1) else s

/-- LANE_RESTART: 1 s after it failed or was left out, for as long as its port is enabled. -/
def laneRestarts (s : State) (n : Nat) : State :=
  if (lane s n).phase == .failed && decide ((lane s n).restartAt ≤ s.now) && (trainPort s n).isSome then startDetect s n else s

/-! ## Entry to service (R79, R99, R138) -/

/-- The most lane-to-lane skew a port removes, in UI. -/
def maxSkew (p : Nat) : Nat := if p ≥ 256 then 4096 else 1024

/-- The link state afresh (R99, R106, R148); a narrowing for power ends with the old period of service. -/
def freshLink (s : State) (p : Nat) : PortLink :=
  let l := link s p
  { period := l.period + 1, init := l.init, tokens := vget 0 l.init 0 * tokenUnit, tokenAt := s.now, stopTx := s.sw.stopReserve,
    owed := 5, sfAt := s.now, busyAt := s.now, outAt := l.outAt, sentBase := evGet s (32 + 4 * p) }

/-- A lane takes up its port's traffic. -/
def laneServes (s : State) (n : Nat) : State :=
  setLaneState (setLane s n { lane s n with phase := .inPort, cleanSince := s.now, eiRx := false, idleDeadline := 0 }) n 3

/-- The twin link is there again, or for the first time (R88, R341, R350, R388). -/
def twinArrives (s : State) (was : Bool) : State :=
  let s := chooseTwinPort s
  if was then s
  else
    let s := noteActivePath (setTwin s { s.res.twin with downAt := none, probeAt := none, lost := false })
    twinLocketSend (startResync s)

/-- SWC_ROUTE_EN of a port entering service (R138): set at once before Serving, else asked for by a change of the module's own. -/
def routePort (s : State) (p : Nat) : State :=
  if p ≥ 256 then s
  else if !serving s then setBitOf s (SWC_ROUTE_EN (p / 32)) (p % 32) true
  else { s with sw := { s.sw with routeAdd := cset 0 s.sw.routeAdd p (s.now + 1) } }

/-- A port enters service on a set of lanes. -/
def enterService (s : State) (p : Nat) (ls : List Nat) : State :=
  let was := twinUp s
  let s := if (link s p).narrowed then setFld s PWR_MEASURES 25 18 (fldOf s PWR_MEASURES 25 18 - 1) else s
  let s := forEach ls (setLink s p (freshLink s p)) laneServes
  let st := 3 + ls.length * 2 ^ 3 + portStep s p * 2 ^ 7 + maskOfLanes s p ls * 2 ^ 11
  let s := routePort (wr s (LNK_PORT_STATUS p) st) p
  let s := if p ≥ 256 then twinArrives s was else s
  updateService s

/-- PORT_ENTER_SERVICE: Checking ends (R79). A partner that does not match keeps the port out; larger skew is retried; with too few
lanes left the port trains on. -/
def checked (s : State) (p skew : Nat) : State :=
  if portState s p ≠ 2 || !portEnabled s p || !portExists s p then s
  else match partnerFault s p with
    | some k => miswire s p k
    | none =>
      let ls := (lanesOf s p).filter fun n => laneTrained s n && laneStep s n == portStep s p
      if ls.length < minWidth s p then setFld s (LNK_PORT_STATUS p) 2 0 1
      else if maxSkew p < skew then setLink s p { link s p with skewFail := true, checkAt := s.now }
      else enterService s p ls

/-- CHECKING_RETRY: 1 s after the skew failure. -/
def checkingAgain (s : State) (p : Nat) : State :=
  let l := link s p
  if portState s p ≠ 2 || !l.skewFail || s.now < l.checkAt + 1000000000 then s
  else
    let s := setFld (setLink s p { l with skewFail := false }) (LNK_PORT_STATUS p) 2 0 1
    forEach (lanesOf s p) s fun s n => if laneState s n = 5 then s else startDetect s n

/-! ## Manual alignment (R80) -/

/-- LNK_LANE_ALIGN.MANUAL is written: setting it clears SLIP_COUNT and suspends the Lock timeout, clearing it lets the timeout run on. -/
def manualWritten (s : State) (n : Nat) (on : Bool) : State :=
  let l := lane s n
  let was := bitOf s (LNK_LANE_ALIGN n) 0
  let a := setBitOf s (LNK_LANE_ALIGN n) 0 on
  if on then (if was then a else setFld (setLane a n { l with manualSince := s.now }) (LNK_LANE_ALIGN n) 31 16 0)
  else if was && l.phase == .lock then setLane a n { l with deadline := l.deadline + (s.now - manualFrom s n) }
  else a

/-- SLIP is written as 1 while MANUAL is 1: one UI on, counted; refused outside the Lock phase. With MANUAL at 0 the hunt is automatic and
the write has no effect but the refusal outside Lock (DEDUCED: R80's sentences stand under "While MANUAL is 1": log entry 66). -/
def slipWritten (s : State) (n : Nat) : State :=
  if (lane s n).phase != .lock then setBitOf s (LNK_LANE_ALIGN n) 2 true
  else if bitOf s (LNK_LANE_ALIGN n) 0 then
    setFld (setFld s (LNK_LANE_STATUS n) 7 5 0) (LNK_LANE_ALIGN n) 31 16 ((fldOf s (LNK_LANE_ALIGN n) 31 16 + 1) % 2 ^ 16)
  else s

/-- MANUAL_ALIGN_TIMEOUT: 100 ms of suspension. -/
def manualTimeout (s : State) (n : Nat) : State :=
  if bitOf s (LNK_LANE_ALIGN n) 0 && (lane s n).phase == .lock && decide (manualFrom s n + 100000000 ≤ s.now) then phaseTimesOut s n else s

/-! ## Electrical idle (R81, R82, R88, R424) -/

/-- A port has a flit to send, or a credit or acknowledgement to return. -/
def hasToSend (s : State) (p : Nat) : Bool := portQueued s p || (link s p).resend.isSome || (link s p).owed != 0

/-- Twin port 1 is held in idle while twin port 0 carries the link. -/
def heldIdle (s : State) (p : Nat) : Bool := p == 257 && twinActive s == 0

/-- A port is to be idle: after IDLE_ENTRY, in Hush, or as the twin port that waits. -/
def idleDue (s : State) (p : Nat) : Bool :=
  let c := LNK_PORT_CFG p
  (bitOf s c 10 && decide ((link s p).busyAt + 10 * fldOf s c 31 16 ≤ s.now)) || (link s p).stopHush || heldIdle s p

/-- Set TX_IDLE. -/
def setTxIdle (s : State) (p : Nat) (b : Bool) : State := setBitOf s (LNK_PORT_STATUS p) 9 b

/-- IDLE_ENTRY: EI_ENTER on every lane, then silence. -/
def idleEnters (s : State) (p : Nat) : State :=
  if !inService s p || txIdle s p || (hasToSend s p && !(link s p).stopHush) || !idleDue s p then s
  else
    let s := forEach (maskLanes s p) s fun s n => emit (sendBlock s n 0x4B 0) (.silent n)
    lnkEv (setLink (setTxIdle s p true) p { link s p with idleAt := s.now }) 10 1

/-- Every lane of a port's mask hears silence. -/
def allSilent (s : State) (p : Nat) : Bool := (maskLanes s p).all fun n => (lane s n).eiRx

/-- RX_IDLE follows the lanes. -/
def noteRxIdle (s : State) (p : Nat) : State := setBitOf s (LNK_PORT_STATUS p) 10 (allSilent s p)

/-- EI_ENTER_RECEIVE: the lane is idle, and its silence no loss of lock. -/
def idleHeard (s : State) (n : Nat) : State :=
  match portOfLane s n with
  | none => s
  | some (p, _) =>
    if !inService s p || (lane s n).phase != .inPort || !(maskLanes s p).contains n then s
    else
      let s := setLane s n { lane s n with eiRx := true, idleDeadline := 0 }
      noteRxIdle (setLaneState (setBitOf s (LNK_LANE_STATUS n) 5 false) n 4) p

/-- IDLE_EXIT: something is to be sent, and 80 ns have passed since EI_ENTER: the burst, then ALIGN blocks. -/
def idleExits (s : State) (p : Nat) : State :=
  let l := link s p
  if !inService s p || !txIdle s p || !hasToSend s p || l.stopHush || heldIdle s p || s.now < l.idleAt + 80 then s
  else
    let first := ((portLanes s p).getD (0, 0)).1
    let s := forEach (maskLanes s p) s fun s n => sendBlock (emit s (.burst n)) n 0x2D (n - first + portStep s p * 2 ^ 8)
    setLink (setTxIdle s p false) p { l with busyAt := s.now }

/-- From the start of a burst to the lane's being back in service, at most (R82). -/
def burstTime (step : Nat) : Nat := if step = 3 then 100 else if step = 2 then 132 else if step = 1 then 196 else 324

/-- TRAINING_BURST_RECEIVE: an idle lane comes back, and must regain FEC lock in time. From Poise or Hush the module goes to Run (R422). -/
def burstHeard (s : State) (n : Nat) : State :=
  match portOfLane s n with
  | none => s
  | some (p, _) =>
    if !inService s p || !(lane s n).eiRx then s
    else
      let s := wakeRun s
      let s := setLane s n { lane s n with eiRx := false, idleDeadline := s.now + burstTime (portStep s p) }
      noteRxIdle (setLaneState s n 3) p

/-- IDLE_EXIT_FAIL: no FEC lock by the in-service time. -/
def idleExitFails (s : State) (n : Nat) : State :=
  let l := lane s n
  match portOfLane s n with
  | none => s
  | some (p, _) =>
    if l.idleDeadline = 0 || s.now < l.idleDeadline || decoding s n then s
    else lossOfLock (lnkEv (portEvent (setLane s n { l with idleDeadline := 0 }) p 6) 11 1) n

/-! ## Width changes (R83-R85) -/

/-- Lanes this side would serve a port on: those of its mask, and, unless it is narrowed for power (R428), trained ones that reached its
step. -/
def offeredLanes (s : State) (p : Nat) : List Nat :=
  if (link s p).narrowed then goodLanes s p
  else (lanesOf s p).filter fun n => laneTrained s n && decide (portStep s p ≤ laneStep s n)

/-- WIDTH_RECEIVE: the partner's mask and boundary, where its sequence number is higher than one that has not yet applied. This side answers
with its own, unless one of its own is under way. -/
def widthHeard (s : State) (p : Nat) (sq mask : Byte) (boundary : BitVec 24) : State :=
  let l := link s p
  let newer := match l.widthPeer with
    | some w => sq != w.seq && decide ((sq.toNat + 256 - w.seq.toNat) % 256 < 128)
    | none => true
  if !inService s p || !newer then s
  else
    let s := setLink s p { l with widthPeer := some { seq := sq, mask := mask, boundary := boundary } }
    if l.widthMine.isSome then s else announceWidth s p (maskOfLanes s p (offeredLanes s p))

/-- The new lane set of a port is in force: removed lanes that are still good go idle, added ones serve. -/
def applyMask (s : State) (p mask : Nat) : State :=
  let old := maskLanes s p
  let s := setFld (setFld s (LNK_PORT_STATUS p) 18 11 mask) (LNK_PORT_STATUS p) 6 3 (popMask mask)
  let new := maskLanes s p
  let gone := old.filter fun n => !new.contains n
  let added := new.filter fun n => !old.contains n
  let s := forEach gone s fun s n => if (lane s n).phase == .inPort then setLaneState s n 4 else s
  let s := forEach added s laneServes
  let w := popMask mask
  let s := if gone = [] then s else portFault (portEvent s p 0) 0x0103 1 p 0xFFFF 0 0 w 0 0
  let s := if added = [] then s else portFault (portEvent s p 1) 0x0104 1 p 0xFFFF 0 0 w 0 0
  noteRxIdle (if gone = [] && added = [] then s else lnkEv s 9 1) p

/-- WIDTH_APPLY: both sides' blocks are there, and the later boundary has come. -/
def widthApplies (s : State) (p : Nat) : State :=
  let l := link s p
  match l.widthMine, l.widthPeer with
  | some a, some b =>
    if !inService s p || !sfReached s p (sfLater a.boundary.toNat b.boundary.toNat) then s
    else
      let mask := (a.mask &&& b.mask).toNat
      let s := setLink s p { l with widthMine := none, widthPeer := none }
      if popMask mask < minWidth s p then portDown s p else applyMask s p mask
  | _, _ => s

/-! ## The twin ports (R88) -/

/-- TWIN_PORT_RETURN: twin port 0 is back, and twin port 1 has nothing unacknowledged. -/
def twinReturns (s : State) : State :=
  if inService s 256 && twinActive s == 1 && (link s 257).replay == [] then setFld s LNK_TWIN_STATUS 1 0 0 else s

/-! ## Margin monitors (R90, R91) -/

/-- EYE_SEARCH_DONE: the smallest eye of an automatic search. A lane that is not in service keeps its last result. -/
def eyeSearched (s : State) (n width height eye : Nat) : State :=
  if laneState s n ≠ 3 || bitOf s (LNK_LANE_EYE_CTRL n) 0 then s
  else
    let r := LNK_LANE_EYE_RESULT n
    let sq := (fldOf s r 31 24 + 1) % 256
    let s := wr s r (width + height * 2 ^ 8 + eye % 4 * 2 ^ 16 + 2 ^ 18 + sq * 2 ^ 24)
    if width < fldOf s LNK_MARGIN_CFG 7 0 || height < fldOf s LNK_MARGIN_CFG 15 8 then marginWarn s 0 (6 + dieOfLane s n) n else s

/-- EYE_MANUAL_DONE: the count at the manual point. -/
def eyeCounted (s : State) (n count : Nat) : State :=
  if laneState s n ≠ 3 || !bitOf s (LNK_LANE_EYE_CTRL n) 0 then s
  else setBitOf (wr64 s (LNK_LANE_EYE_ERR n) count) (LNK_LANE_EYE_RESULT n) 18 true

/-- OPTICAL_REFRESH: the readings, and OPTICAL below OPT_WARN over the sensitivity of -5.0 dBm (R63). -/
def opticalRead (s : State) (n rx oma bias laser : Nat) : State :=
  if !isOptical s n || laneState s n = 4 || laneState s n = 5 then s
  else
    let s := wr (wr s (LNK_LANE_OPT_RX n) (rx + oma * 2 ^ 16)) (LNK_LANE_OPT_LASER n) (bias + laser * 2 ^ 16)
    if signedBits 16 rx < -500 + 10 * (fldOf s LNK_MARGIN_CFG 31 24 : Int) then marginWarn s 2 (6 + dieOfLane s n) n else s

/-- SUPPLY_DROOP: a monitor holds the lowest voltage seen since RESET_MIN; 0 stands for none yet. -/
def droopSeen (s : State) (d i mv margin : Nat) : State :=
  let r := LNK_DROOP d i
  let low := fldOf s r 11 0
  if low ≠ 0 && low ≤ mv then s
  else
    let s := wr s r (mv % 2 ^ 12 + margin % 2 ^ 12 * 2 ^ 12)
    if signedBits 12 (margin % 2 ^ 12) < (fldOf s LNK_MARGIN_CFG 23 16 : Int) then marginWarn s 1 (6 + d) (1024 + 4 * d + i) else s

end Sys2Proof.Machine
end

