-- ==== Sys2Proof/Machine/Access.lean ====
section
/-! DEFINITION. Reads and writes of the module register space (R6-R18): the views of R375 and R448, access codes, reserved encodings,
and the operations that a write of a command register or a register with an effect of its own sets off. -/

namespace Sys2Proof.Machine

/-! ## Views (R375, R448, R460) -/

/-- The key-request window an offset of the SEC_W registers belongs to. -/
def secWindow (off : Nat) : Option Nat :=
  if SEC_W_CMD 0 ≤ off && off < SEC_W_CMD 5 then some ((off - SEC_W_CMD 0) / 0x1000) else none

/-- The window a path owns (R370). -/
def ownWindow (s : State) : Path → Option Nat
  | .annex => some 0
  | .host j f => if f = 0 then some (1 + j.val) else none
  | .i3c => some 3
  | .jtag => if debugOn s then some 0 else none
  | .window e => if moduleSource s e then some 4 else none

/-- The path exists now: a host function that its link reaches, Annex on port die 3, I3C while the island is supplied. -/
def pathThere (s : State) : Path → Bool
  | .host j f => live s && linkUp s j && fnThere s j f
  | .annex => !dieDead s (.port 3) && live s
  | .i3c => !s.pwr.off
  | .jtag => !s.pwr.off
  | .window _ => live s

/-- Only IDN and PWR are served: in Vigil, and while a thermal trip keeps the power stages off. -/
def islandOnly (s : State) : Bool := pwrState s == 4 || s.pwr.dark

/-- The view slot an offset belongs to. -/
def slotOfOff (off : Nat) : Option Nat :=
  if CNT_SLOT_CFG 0 ≤ off && off < CNT_SLOT_CFG 64 then some ((off - CNT_SLOT_CFG 0) / 4)
  else if CNT_SLOT_OWNER 0 ≤ off && off < CNT_SLOT_OWNER 64 then some ((off - CNT_SLOT_OWNER 0) / 4)
  else if CNT_LIVE 0 ≤ off && off < CNT_LIVE 64 then some ((off - CNT_LIVE 0) / 64)
  else none

/-- A semaphore lies in the range of a context of a partition. -/
def semOfPart (s : State) (part k : Nat) : Bool :=
  (List.range 16).any fun c => fldOf s (HAL_CTX_CFG c) 7 0 == part &&
    decide (fldOf s (HAL_CTX_CFG c) 23 16 ≤ k) && decide (k < fldOf s (HAL_CTX_CFG c) 23 16 + fldOf s (HAL_CTX_CFG c) 31 24)

/-- A Hall register in a virtual function's view: of contexts and semaphores of its partition. -/
def vfHall (s : State) (part off : Nat) : Bool :=
  if HAL_CTX_CFG 0 ≤ off && off < HAL_CTX_CFG 16 then fldOf s (HAL_CTX_CFG ((off - HAL_CTX_CFG 0) / 0x100)) 7 0 == part
  else if HAL_SEM 0 ≤ off && off < HAL_SEM 256 then semOfPart s part ((off - HAL_SEM 0) / 4)
  else if HAL_SEM_ADD 0 ≤ off && off < HAL_SEM_ADD 256 then semOfPart s part ((off - HAL_SEM_ADD 0) / 4)
  else false

/-- The function region an offset lies in. -/
def fnOfOff (off : Nat) : Option (Nat × Nat) :=
  if HST_FN 0 0 ≤ off && off < HST_FN 2 0 then some ((off - HST_FN 0 0) / 0x8000, (off - HST_FN 0 0) % 0x8000 / 0x100) else none

/-- FLT_ALIAS. -/
def isAlias (off : Nat) : Bool := decide (FLT_ALIAS 0 ≤ off) && decide (off < FLT_ALIAS 4)

/-- Not the SEC_W registers of a window other than `own`. -/
def notOthers (own off : Nat) : Bool := match secWindow off with | some w => w == own | none => true

/-- The path may read the word at an offset. -/
def mayRead (s : State) (p : Path) (off : Nat) : Bool :=
  let slot (v : Bool) : Bool := match slotOfOff off with | some i => slotReads s p i && v | none => v
  match p with
  | .annex => notOthers 0 off
  | .jtag => debugOn s
  | .i3c =>
    slot (blockOf off == 0 || blockOf off == 2 || blockOf off == 9 || blockOf off == 12) ||
    (decide (SEC_STATUS ≤ off) && decide (off < SEC_PART_USE 8)) || secWindow off == some 3
  | .window e =>
    if moduleSource s e then (match secWindow off with | some w => w == 4 | none => true)
    else blockOf off == 0 || isAlias off || off == SEC_STATUS
  | .host j f =>
    match vfPart s j f with
    | none => notOthers (1 + j.val) off
    | some q =>
      blockOf off == 0 || off == FLT_STATUS || isAlias off || fnOfOff off == some (j.val, f.val) || vfHall s q off ||
      (decide (COL_GSTATE 0 0 ≤ off) && decide (off < COL_GSTATE 1024 0) && gPart s ((off - COL_GSTATE 0 0) / 16) == q) ||
      (match slotOfOff off with | some i => slotReads s p i | none => false)

/-- The path may write RW, W1C and WO fields of the word at an offset (the Writes column); a value is named only by CNT_SLOT_CFG and
CNT_CMD. -/
def mayWrite (s : State) (p : Path) (off v : Nat) : Bool :=
  let cnt : Bool :=
    match slotOfOff off with
    | some i => slotWrites s p i && maySelect s p (v % 4096)
    | none => if off = CNT_SNAP || off = CNT_SNAP + 4 then true else if off = CNT_CMD then v % 4 != 2 else false
  match p with
  | .annex | .jtag => mgmtPath s p && (blockOf off != 10 || secWindow off == some 0) && (blockOf off != 12 || (slotOfOff off).isNone || cnt)
  | .i3c => off == PWR_CAP || off == PWR_CMD || secWindow off == some 3
  | .window e => moduleSource s e && secWindow off == some 4
  | .host j f =>
    match vfPart s j f with
    | none => (blockOf off != 10 || secWindow off == some (1 + j.val)) && (blockOf off != 12 || (slotOfOff off).isNone || cnt)
    | some q =>
      fnOfOff off == some (j.val, f.val) || (blockOf off == 12 && cnt) ||
      (vfHall s q off && (decide (HAL_SEM_ADD 0 ≤ off) ||
        (let o := (off - HAL_CTX_CFG 0) % 0x100; o == 0x28 || o == 0x2C || o == 0x30)))

/-- The path's own window may propose the RWC field at an offset. -/
def pathProposes (s : State) (p : Path) (off : Nat) : Bool := match ownWindow s p with | some w => mayPropose w off | none => false

/-- The Writes column admits at least one field of a block for the path, and the word is not another window's. -/
def blockWritable (s : State) (p : Path) (off : Nat) : Bool :=
  let b := blockOf off
  match p with
  | .annex | .jtag => mgmtPath s p && notOthers 0 off
  | .i3c => b == 2 || (b == 10 && notOthers 3 off)
  | .window e => moduleSource s e && b == 10 && notOthers 4 off
  | .host j f => if f = 0 then notOthers (1 + j.val) off else b == 7 || b == 11 || b == 12

/-! ## Reads -/

/-- A lane's LNK_LANE_QUAR: seconds left, level, and losses of lock in the last second. -/
def quarView (s : State) (n : Nat) : Nat :=
  let l := lane s n
  let left := if laneState s n = 5 then min 1023 ((l.quarUntil - s.now + 999999999) / 1000000000) else 0
  let losses := (l.losses.filter fun t => decide (s.now ≤ t + 1000000000)).length
  left + fldOf s (LNK_LANE_QUAR n) 13 10 * 2 ^ 10 + min 15 losses * 2 ^ 14

/-- Whole milliseconds of probation left. -/
def probeLeft (s : State) : Nat := if bitOf s CFG_STATUS 2 then (s.cfg.probEnd - s.now) / 1000000 else 0

/-- A word of FLT_QUEUE_HEAD: the oldest queued record. -/
def queueHead (s : State) (k : Nat) : Nat := match s.res.queue with | r :: _ => leAt (recBytes r) (4 * k) 4 | [] => 0

/-- An offset is word `o` of a lane's registers; the lane. -/
def laneWord (off o : Nat) : Option Nat :=
  if LNK_LANE_STATUS 0 ≤ off && off < LNK_LANE_STATUS 528 && (off - LNK_LANE_STATUS 0) % 0x100 == o then
    some ((off - LNK_LANE_STATUS 0) / 0x100) else none

/-- A word of the IDN block. -/
def idnWord (s : State) (p : Path) (off : Nat) : Nat :=
  let vf := match p with | .host _ f => f != 0 | _ => false
  if off = IDN_PART then (if s.part.hz7134 then 0x0A1E7134 else 0x0A1E7168)
  else if off = IDN_STEP then s.part.step.toNat
  else if off = IDN_SERIAL then s.part.serial.toNat % 2 ^ 32
  else if off = IDN_SERIAL + 4 then s.part.serial.toNat / 2 ^ 32
  else if off = IDN_SIZES then (if s.part.hz7134 then 0x10021100 else 0x20042200)
  else if vf && (off = IDN_ACCESS_ERR || off = IDN_ACCESS_ADDR) then 0
  else rd s off

/-- The value of a register word as a path reads it, before masking. -/
def rawWord (s : State) (p : Path) (off : Nat) : Nat :=
  match laneWord off 4 with
  | some n => quarView s n
  | none =>
    if blockOf off = 0 then idnWord s p off
    else if off = CFG_PROBE_LEFT then probeLeft s
    else if off = PWR_COUNTER then s.now % 2 ^ 32
    else if off = PWR_COUNTER + 4 then s.now / 2 ^ 32 % 2 ^ 32
    else if off = SWC_BUF_FREE then s.sw.free
    else if off = SWC_BUF_HELD then s.sw.held
    else if FLT_QUEUE_HEAD ≤ off && off < FLT_QUEUE_HEAD + 32 then queueHead s ((off - FLT_QUEUE_HEAD) / 4)
    else if off = SEC_FUSE then s.part.fuse.toNat
    else if off = SEC_SVN then s.part.svn.toNat
    else if off = HST_ALERT_STATE then alertState s
    else if off = HST_FN_CFG 0 0 || off = HST_FN_CFG 1 0 then rd s off / 256 * 256
    else match slotOfOff off with
      | some i =>
        if off = CNT_LIVE i then (liveView s i).1 % 2 ^ 32
        else if off = CNT_LIVE i + 4 then (liveView s i).1 / 2 ^ 32 % 2 ^ 32
        else if off = CNT_LIVE_HI i then (liveView s i).1 / 2 ^ 64
        else if off = CNT_VIEW_STATUS i then (liveView s i).2
        else if CNT_SNAP_LO i ≤ off && off < CNT_SNAP_STAMP i + 8 then snapWord s i off
        else rd s off
      | none => rd s off

/-- A field that a read shows. -/
def FieldRow.shows (f : FieldRow) : Bool := !(f.acc == .wo) && !f.hidden

/-- Only the readable fields of a word (R10, R12, R235). -/
def maskWord (r : RegRow) (w v : Nat) : Nat :=
  (r.fields.filter fun f => f.word == w && f.shows).foldl (fun a f => setBits a f.hi f.lo (bits v f.hi f.lo)) 0

/-- A register of the Hall while its die is out of service (R61): reads as zero, and takes no write. -/
def hallGone (s : State) (off : Nat) : Bool := blockOf off == 7 && dieDead s .hall

/-- Read one word: the value, the state after (latched words are taken, and reads latch), and whether it lay outside the view. -/
def readWord (s : State) (p : Path) (off : Nat) : Nat × State × Bool :=
  match findReg s.part.hz7134 off with
  | none => (0, accessErr s p off 0, false)
  | some (r, _, w) =>
    if !mayRead s p off then (0, accessErr s p off 3, true)
    else if hallGone s off then (0, s, false)
    else match slotOfOff off with
      | some i =>
        if off = CNT_LIVE i then let x := liveRead s p i; (x.1 % 2 ^ 32, x.2, false)
        else match takeLatch s p off with
          | some (v, s) => (v, s, false)
          | none => (maskWord r w (rawWord (countGap s) p off), countGap s, false)
      | none =>
        if off = PWR_COUNTER then
          let old := s.pwr.counterLatch.filter fun e => e.1 != p
          (s.now % 2 ^ 32, setPwr s { s.pwr with counterLatch := (p, BitVec.ofNat 32 (s.now / 2 ^ 32)) :: old }, false)
        else if off = PWR_COUNTER + 4 then
          match s.pwr.counterLatch.find? fun e => e.1 == p with
          | some e => (e.2.toNat, setPwr s { s.pwr with counterLatch := s.pwr.counterLatch.filter fun x => x.1 != p }, false)
          | none => (maskWord r w (rawWord s p off), s, false)
        else
          let s := if blockOf off = 7 then countGap s else s
          (maskWord r w (rawWord s p off), s, false)

/-- The 64-bit register that an 8-byte access at an offset reads as one value. -/
def wideAt (s : State) (off : Nat) : Option RegRow :=
  match findReg s.part.hz7134 off with
  | some (r, _, 0) => if r.wide then some r else none
  | _ => none

/-- Read a 64-bit register as one value. -/
def readWide (s : State) (p : Path) (off : Nat) (r : RegRow) : Nat × State × Bool :=
  if !mayRead s p off then (0, accessErr s p off 3, true)
  else if hallGone s off then (0, s, false)
  else
    let s := countGap s
    match slotOfOff off with
    | some i =>
      if off = CNT_LIVE i then let x := liveRead s p i; (x.1 % 2 ^ 64, x.2, false)
      else (maskWord r 0 (rawWord s p off) + maskWord r 1 (rawWord s p (off + 4)) * 2 ^ 32, s, false)
    | none => (maskWord r 0 (rawWord s p off) + maskWord r 1 (rawWord s p (off + 4)) * 2 ^ 32, s, false)

/-- A read of a size at an offset, by a path that is there (R7-R9). -/
def mrsRead (s : State) (p : Path) (off size : Nat) : Nat × State × Bool :=
  if islandOnly s && blockOf off ≠ 0 && blockOf off ≠ 2 then (0, s, false)
  else if !(size = 4 || size = 8) || off % size ≠ 0 then (0, accessErr s p off 1, false)
  else if size = 4 then readWord s p off
  else match wideAt s off with
    | some r => readWide s p off r
    | none =>
      let a := readWord s p off
      let b := readWord a.2.1 p (off + 4)
      (a.1 + b.1 * 2 ^ 32, b.2.1, a.2.2 || b.2.2)

/-! ## Writes -/

/-- The value of a 64-bit register after `n` words from word `w` on take a value. -/
def merge64 (s : State) (base w n v : Nat) : Nat :=
  if n = 2 then v else if w = 0 then v % 2 ^ 32 + rd s (base + 4) * 2 ^ 32 else rd s base + v % 2 ^ 32 * 2 ^ 32

/-- CFG_CMD (R408-R418). -/
def cfgCmd (s : State) (v : Nat) : State :=
  match v % 8 with
  | 1 => stageCmd s
  | 2 => commitCmd s (bit v 3)
  | 3 => confirmCmd s
  | 4 => returnCmd s
  | 5 => summaryCmd s false
  | 6 => summaryCmd s true
  | 7 => stageFwCmd s (bit v 4)
  | _ => s

/-- PWR_CMD (R422, R425, R438): a write wakes from Poise and Hush; then the request, then MODULE_RESET. -/
def pwrCmd (s : State) (i3c : Bool) (v : Nat) : State :=
  let s := if v % 8 = 1 then cmdRun s i3c else wakeRun s
  let s := if v % 8 = 3 then startEntry s 3 else if v % 8 = 4 then startEntry s 4 else s
  if bit v 3 then requestReset s 5 else s

/-- CNT_CMD (R472, R474): CLEAR of an event the path may not select is discarded. -/
def cntCmd (s : State) (p : Path) (v : Nat) : State :=
  let n := v / 4 % 4096
  if v % 4 = 1 then (if maySelect s p n then cntOp (countGap s) (.clear n) else s)
  else if v % 4 = 2 then clearEvery s
  else s

/-- LNK_LANE_ALIGN (R80): MANUAL, SLIP and SLIP_REFUSED. -/
def alignWrite (s : State) (n v : Nat) : State :=
  let s := if bit v 2 then setBitOf s (LNK_LANE_ALIGN n) 2 false else s
  let s := manualWritten s n (bit v 0)
  if bit v 1 then slipWritten s n else s

/-- The SEC_W_CMD write of a window (R371). -/
def secCmd (s : State) (p : Path) (w v : Nat) : State := windowCmd s w (v % 4) (v / 4 % 256) (bit v 10) (bits v 18 11) (requesterOf p)

/-- A write that is an operation of its own: `off` is the word's offset, `n` words carry `v`; none where the fields are merely stored. -/
def commandWrite (s : State) (p : Path) (is : List Nat) (base w n v : Nat) : Option State :=
  let k (i : Nat) : Nat := is.getD i 0
  let off := base + 4 * w
  let full := merge64 s base w n v
  if off = CFG_CMD then some (cfgCmd s v)
  else if off = PWR_CAP then some (capWritten s v)
  else if off = PWR_CMD then some (pwrCmd s (p == .i3c) v)
  else if HAL_SEM_ADD 0 ≤ off && off < HAL_SEM_ADD 256 then some (halSemAdd (wakeRun s) (k 0) v)
  else if base = HAL_CTX_LIST (k 0) then some (ctxListWrite s (k 0) full)
  else if off = HAL_CTX_CTRL (k 0) then
    some (let s := if bit v 0 then ctxStart s (k 0) else s; if bit v 1 then ctxStop s (k 0) else s)
  else if off = FLT_RING_TAIL then some (ringTailWrite s v)
  else if off = FLT_QUEUE_POP then some (if bit v 0 then queuePop s else s)
  else if FLT_OVF 0 ≤ off && off < FLT_OVF 16 then some (if bit v 24 then ovfClear s (k 0) else s)
  else if off = FLT_TWIN_CMD then some (if bit v 0 then startHandoff s else s)
  else if off = SEC_W_CMD (k 0) then some (secCmd s p (k 0) v)
  else if off = CNT_SNAP || off = CNT_SNAP + 4 then some (if n = 2 then snapWrite s p v else s)
  else if off = CNT_CMD then some (cntCmd s p v)
  else if CNT_CHAIN 0 ≤ off && off < CNT_CHAIN 48 then some (chainWrite (countGap s) (k 0) v)
  else if off = HST_FN_FENCE (k 0) (k 1) then some (if bit v 0 then fnFence s (Fin.ofNat 2 (k 0)) (Fin.ofNat 128 (k 1)) else s)
  else if off = HST_FN_NOTE_TAIL (k 0) (k 1) then some (noteTail s (k 0) (k 1) v)
  else if base = HST_AP_BASE (k 0) (k 1) (k 2) then some (apBaseWrite s (k 0) (k 1) (k 2) full)
  else if off = HST_AP_CTRL (k 0) (k 1) (k 2) then some (apCtrlWrite s (k 0) (k 1) (k 2) v)
  else match portWord off 0x18, laneWord off 8 with
    | some q, _ => some (if bit v 0 then retrain s q else s)
    | _, some l => some (alignWrite s l v)
    | _, _ => if LNK_DROOP 0 0 ≤ off && off < LNK_DROOP 4 0 then some (if bit v 31 then wr s off 0 else s) else none

/-- What a stored write sets off: a manual eye measurement begins, a message waiting for an unmasked MSI-X vector goes out. -/
def afterStore (s : State) (off v : Nat) : State :=
  match laneWord off 0x20 with
  | some l => if bit v 0 then setBitOf s (LNK_LANE_EYE_RESULT l) 18 false else s
  | none => match fnOfOff off with
    | some (j, f) =>
      let o := off % 0x100
      if 0x80 ≤ o && o < 0xC0 && o % 16 = 12 && !bit v 0 then msixHoldoff s j f ((o - 0x80) / 16) else s
    | none => s

/-- One field takes a written value by its access code (R12). -/
def storeField (s : State) (off : Nat) (f : FieldRow) (x : Nat) : State :=
  match f.acc with
  | .rw | .rws => setFld s off f.hi f.lo x
  | .w1c | .rwsW1c => if x = 1 then setBitOf s off f.lo false else s
  | _ => s

/-- Fields written by an access of `n` words from word `w` on, each with its value. -/
def writtenFields (r : RegRow) (w n v : Nat) : List (FieldRow × Nat) :=
  (r.fields.filter fun f => decide (w ≤ f.word) && decide (f.word < w + n)).map fun f =>
    (f, bits (v / 2 ^ (32 * (f.word - w))) f.hi f.lo)

/-- The reserved encodings an access writes (R11). COUNT of SEC_W_CMD means something for OP 1 alone. -/
def reservedIn (off : Nat) (fs : List (FieldRow × Nat)) (v : Nat) : Bool :=
  fs.any fun (f, x) => (f.acc == .rw || f.acc == .wo) && !legalEnc f x && !((secWindow off).isSome && f.lo == 2 && v % 4 != 1)

/-- An access code that a direct write may act on. -/
def Acc.writable : Acc → Bool
  | .rw | .w1c | .wo | .rws | .rwsW1c => true
  | _ => false

/-- Write `n` words of one register at an offset: the state, and whether the access lay outside the path's view. -/
def writeReg (s : State) (p : Path) (off n v : Nat) : State × Bool :=
  match findReg s.part.hz7134 off with
  | none => (accessErr s p off 0, false)
  | some (r, is, w) =>
    let fs := writtenFields r w n v
    let outside := (accessErr s p off 3, true)
    if fs.any fun e => e.1.acc == .rwc then (if pathProposes s p off then (accessErr s p off 2, false) else outside)
    else if !(fs.any fun e => e.1.acc.writable) then (if blockWritable s p off then (s, false) else outside)
    else if !mayWrite s p off v then outside
    else if hallGone s off then (s, false)
    else match secWindow off with
      | some k => if windowBusy s k then (setBitOf s (SEC_W_STATUS k) 16 true, false) else (run is w fs, false)
      | none => (run is w fs, false)
where
  run (is : List Nat) (w : Nat) (fs : List (FieldRow × Nat)) : State :=
    let s := if reservedIn off fs v then accessErr s p off 4 else s
    match commandWrite s p is (off - 4 * w) w n v with
    | some s => s
    | none =>
      let s := forEach fs s fun s (f, x) => if legalEnc f x then storeField s (off + 4 * (f.word - w)) f x else s
      afterStore s off v

/-- A write of a size at an offset, by a path that is there (R7-R12). -/
def mrsWrite (s : State) (p : Path) (off size v : Nat) : State × Bool :=
  if islandOnly s && blockOf off ≠ 0 && blockOf off ≠ 2 then (s, false)
  else if !(size = 4 || size = 8) || off % size ≠ 0 then (accessErr s p off 1, false)
  else if size = 4 then writeReg s p off 1 (v % 2 ^ 32)
  else match wideAt s off with
    | some _ => writeReg s p off 2 (v % 2 ^ 64)
    | none =>
      let a := writeReg s p off 1 (v % 2 ^ 32)
      let b := writeReg a.1 p (off + 4) 1 (v / 2 ^ 32 % 2 ^ 32)
      (b.1, a.2 || b.2)

/-! ## Accesses as commands -/

/-- Host activity ends Poise and Hush (R422, R444). -/
def hostTouch (s : State) (p : Path) : State := match p with | .host _ _ => wakeRun (hostBusy s) | _ => s

/-- A register access by a path, which does nothing where the path is not there. -/
def onPath (s : State) (p : Path) (f : State → State) : State := if pathThere s p then f (hostTouch s p) else s

/-- A write by a path. -/
def pathWrite (s : State) (p : Path) (off size v : Nat) : State := onPath s p fun s => (mrsWrite s p off size v).1

/-- A read by a path: the value goes out by it. -/
def pathRead (s : State) (p : Path) (off size : Nat) : State :=
  onPath s p fun s => let r := mrsRead s p off size; emit r.2.1 (.readData p (BitVec.ofNat 64 r.1))

end Sys2Proof.Machine
end

