-- ==== Sys2Proof/Machine/Resp.lean ====
section
/-! DEFINITION. Packets taken by a Unit, and the completion of the module's own requests (R114, R116, R117, R122, R169, R175, R181-R183,
R205, R498, R499). -/

namespace Sys2Proof.Machine

/-! ## Packets taken by a Unit -/

/-- A packet passed to a Unit is taken by it: it leaves the inbox, if it is there (log entry 11). -/
def takeInbox (s : State) (d : Delivered) : State := { s with inbox := s.inbox.erase d }

/-- An event while the module runs, and what its effect lets go on (recalls, drains, changes that waited). -/
def event (s : State) (f : State → State) : State := act s fun s => progress (f s)

/-- A packet taken by its Unit. -/
def takenBy (s : State) (d : Delivered) (f : State → Delivered → State) : State := event s fun s => f (takeInbox s d) d

/-- A packet of one opcode taken by its Unit; a command whose packet has another opcode is no event (log entry 20). -/
def taken (s : State) (d : Delivered) (op : Byte) (f : State → Delivered → State) : State :=
  if d.pkt.opcode = op then takenBy s d f else s

/-! ## Completion -/

/-- A request of the collective engine was answered: the write of a chunk or of a step record, or a READ of a gather (R321, R322, R325,
R333). A status other than OK revokes the step; the step record raises HALL_SEM once it is written. -/
def collAnswered (s : State) (r : OutReq) (status : Nat) (p : Packet) : State :=
  match r.agent with
  | .chunk g step chunk =>
    match stepRec s g step with
    | none => s
    | some x =>
      let s := setStep s { x with pendingWrites := x.pendingWrites - 1, failed := x.failed || status != stOK }
      if status = stOK then s else revokeToSteward s g step chunk
  | .stepRec g _ => if status = stOK then semAdd s (gHallSem s g) 1 else s
  | .gather g step chunk piece member =>
    if status = stOK then gatherLine s g step chunk piece member (r.pkt.offset / 128) (slice p.payload 0 128)
    else gatherFails s g step chunk piece member
  | _ => s

/-- A request of the module has completed: its agent takes the response (R169). -/
def completeReq (s : State) (r : OutReq) (status : Nat) (p : Packet) : State :=
  match r.agent with
  | .fetch c va => fetchData s c va.toNat status (slice p.payload 0 128)
  | .walk c va level => walkData s c va.toNat level status (slice p.payload 0 128)
  | .dma c id line => dmaData s c id line r p
  | .chunk _ _ _ | .stepRec _ _ | .gather _ _ _ _ _ => collAnswered s r status p
  | .ring => ringAnswered s status
  | .probe => probeAnswered s status
  | .delivery _ => deliveryAnswered s status
  | .bar j f x n rd => barAnswered s j f x n rd status p
  | .barAtomic j f x size aop operand compare => atomicAnswered s r j f x size aop operand compare p
  | .cacheGive j => hostGiven s r j status
  | .clasp w => claspAnswered s w

/-- A request ends with a status that no response carries: a retry timeout, or its pair's end (R117, R122). -/
def endReq (s : State) (r : OutReq) (status : Nat) : State :=
  completeReq (retire s r status) r status (answerPkt r.pkt status 0 0 0 [])

/-- A pair ends (R117): every outstanding request of it completes UNREACHABLE, and nothing more goes out until it is closed. -/
def pairDies (s : State) (src dst : Epc) : State :=
  let rs := outstanding s src dst
  let s := setSrcPair s { srcPair s src dst with dead := true }
  forEach rs s fun s r => endReq s r stUNREACHABLE

/-- The outstanding request a response answers: a grant by line and TAG, whoever sent it (R204), another by pair, SEQ and TAG (R498). -/
def answered (s : State) (p : Packet) : Option OutReq :=
  match (if p.opcode = opDATA then matchGrant s p else none) with
  | some r => some r
  | none => matchOut s p

/-- A response at a source of the module (R116, R169, R175): DEFERRED waits for its resend; an UNREACHABLE of a C1 request ends its
pair; every other status completes the request. One that answers nothing outstanding is discarded. -/
def responseAt (s : State) (d : Delivered) : State :=
  match answered s d.pkt with
  | none => s
  | some r =>
    let st := statusOf d.pkt
    if st = stDEFERRED then noteDeferred s r d.pkt.token d.pkt.hint.toNat
    else
      let s := completeReq (retire s r st) r st d.pkt
      pump (if st = stUNREACHABLE && r.pkt.vc == 1 && !r.local_ then pairDies s r.pkt.src r.pkt.dest else s)

/-! ## Timeouts of the source (R117, R122) -/

/-- The oldest outstanding request of a pair. -/
def oldestOf (s : State) (src dst : Epc) : Option OutReq := (outstanding s src dst).head?

/-- E2E_RETRY_TIMEOUT: the oldest outstanding request of a pair is 16 µs without a response. Its fourth timeout ends the pair; until then
it and every later one are sent again, in order (R117). -/
def retryTimeout (s : State) (src dst : Epc) : State :=
  match oldestOf s src dst with
  | none => s
  | some r =>
    if s.now < r.last + 16000 then s
    else if 3 ≤ r.tries then pump (pairDies s src dst)
    else forEach (outstanding s src dst) s fun s q => retransmit s q (q.n == r.n)

/-- C0_REQUEST_TIMEOUT (R122). -/
def c0Timeout (s : State) (n : Nat) : State :=
  match s.e2e.outs.find? fun r => r.n == n && r.isSent && r.pkt.vc == 0 && !r.local_ with
  | some r => if s.now < r.last + 16000 then s else pump (endReq s r stUNREACHABLE)
  | none => s

/-- PAIR_CLOSE (R120): 2 ms after its last send, with nothing outstanding, a pair is closed. -/
def closePair (s : State) (src dst : Epc) : State :=
  let x := srcPair s src dst
  if x.opened && pairClosed s x then pump (setSrcPair s { x with opened := false, dead := false }) else s

/-- FLAGGED_WRITE_RELEASE (R178). -/
def releaseFlagged (s : State) (n : Nat) : State :=
  match s.e2e.outs.find? fun r => r.n == n && r.isHeld && r.pkt.flag with
  | some r => if maySend s r then pump (sendFirst s r) else s
  | none => s

/-! ## Fences (R182, R183) -/

/-- A FENCE command has completed: its report goes to REPORT (R278). -/
def hallFenceEnds (s : State) (r : FenceRun) (c : Nat) : State :=
  match (hctx s c).cmds.find? fun k => cOp k.body == 5 && !k.finished with
  | none => (endFence s r).1
  | some k =>
    if !k.started then s
    else
      let (s, st, e, n) := endFence s r
      let s := pWrite s (cbits k.body 16 27 0) (leBytes 4 n ++ leBytes 1 st ++ leBytes 3 e ++ leBytes 8 0)
      setCmd s c { k with finished := true }

/-- FENCE_COMPLETE: every counted request has completed. -/
def fenceEnds (s : State) (f : FenceId) : State :=
  match s.e2e.fences.find? fun r => r.id == f with
  | none => s
  | some r =>
    if fenceWaits s r then s
    else match f with
      | .hall c => hallFenceEnds s r c
      | .host j fn => fnFenceEnds s r j fn

end Sys2Proof.Machine
end

