-- ==== Sys2Proof/Machine/ExecCfg.lean ====
section
/-! DEFINITION. Meanings: configuration (chapter 14). -/

namespace Sys2Proof.Machine

/-- A commit at the head of the queue; one with RESET asks for the module reset that applies it. -/
def commitTakes (s : State) : State :=
  let r := commitApply s
  if r.2 then requestReset r.1 6 else r.1

/-- STAGING_COMPLETE (R408). -/
def execStagingComplete (nvmErr : Bool) (s : State) : Host.Outcome State Fault Refusal := .next (event s fun s => stagingEnds s nvmErr)

/-- STAGE_FW_DONE (R409). -/
def execStageFwDone (nvmErr : Bool) (s : State) : Host.Outcome State Fault Refusal := .next (event s fun s => stageFwEnds s nvmErr)

/-- COMMIT_APPLY (R410, R411): a commit with RESET ends in a module reset. -/
def execCommitApply (s : State) : Host.Outcome State Fault Refusal := .next (event s fun s => commitTakes s)

/-- PROBATION_PASS (R414). -/
def execProbationPass (s : State) : Host.Outcome State Fault Refusal := .next (event s fun s => probationPass s)

/-- PROBATION_PORT_TIMEOUT (R413). -/
def execProbationPortTimeout (p : PortNo) (s : State) : Host.Outcome State Fault Refusal := .next (event s fun s => probationPort s p)

/-- SUMMARY_OP_DONE (R418). -/
def execSummaryOpDone (nvmErr : Bool) (s : State) : Host.Outcome State Fault Refusal := .next (event s fun s => summaryEnds s nvmErr)

end Sys2Proof.Machine
end

