-- ==== Sys2Proof/Machine/ExecCnt.lean ====
section
/-! DEFINITION. Meanings: counters (chapter 17). -/

namespace Sys2Proof.Machine

/-- SNAPSHOT_CAPTURE (R473). -/
def execSnapshotCapture (slot : Fin 64) (s : State) : Host.Outcome State Fault Refusal := .next (event s fun s => snapDone s slot)

end Sys2Proof.Machine
end

