-- ==== Sys2Proof/Machine/Arrive.lean ====
section
/-! DEFINITION. The arrival of a packet (R135): its checks (R20, R39, R40, R115, R118, R125, R168, R358, R385), colouring (R154), mirroring
(R156), and what the lookup's outcome does with it. -/

namespace Sys2Proof.Machine

/-! ## Mirroring (R156, R157) -/

/-- The 160 bytes of a mirror record (R157). -/
def MirrorRec.bytes (m : MirrorRec) : List Byte :=
  leBytes 8 m.stamp ++ leBytes 2 m.port ++ leBytes 1 (m.cls + b2n m.trunc * 8) ++ [0] ++ leBytes 2 m.wire ++ [0, 0] ++
  leBytes 4 m.samples ++ leBytes 4 m.skips ++ leBytes 8 0 ++ m.copied ++ List.replicate (128 - m.copied.length) 0

/-- A sampled packet is copied into a cell of the mirror store, or the sample is skipped. -/
def takeSample (s : State) (q c : Nat) (p : Packet) : State :=
  let x := pswOf s q
  if 1024 ≤ s.sw.mirror.length || decide (s.sw.free < fldOf s SWC_BUF_CFG 27 20 * 1024 + 1) then
    ev (bump64 (setPsw s q { x with skips := vset x.skips c ((vget 0 x.skips c + 1) % 2 ^ 32) }) SWC_MIRROR_SKIP 1) 1238 1
  else
    let n := (vget 0 x.samples c + 1) % 2 ^ 32
    let m : MirrorRec := { stamp := s.now, port := q, cls := c, trunc := decide (128 < p.wire), wire := p.wire, samples := n,
                           skips := vget 0 x.skips c, copied := p.toBytes.take 128 }
    let s := setPsw (takeCells s 1) q { x with samples := vset x.samples c n }
    ev { s with sw := { s.sw with mirror := s.sw.mirror ++ [m] } } 1237 1

/-- Every N-th packet of a port and class is sampled. -/
def mirrorSample (s : State) (p : Packet) (ing : Ingress) : State :=
  match ing with
  | .port q =>
    if 256 ≤ q.val || 6 ≤ p.vc then s
    else
      let n := bits (rd s (SWC_MIRROR_N q.val (p.vc / 2))) (16 * (p.vc % 2) + 15) (16 * (p.vc % 2))
      if n = 0 then s
      else
        let x := pswOf s q.val
        let k := vget 0 x.arrivals p.vc + 1
        if k < n then setPsw s q.val { x with arrivals := vset x.arrivals p.vc k }
        else takeSample (setPsw s q.val { x with arrivals := vset x.arrivals p.vc 0 }) q.val p.vc p
  | _ => s

/-- MIRROR_RECORD_DELIVERED: Annex has received the oldest record; its cell is free again. -/
def mirrorDelivered (s : State) : State :=
  match s.sw.mirror with
  | [] => s
  | m :: rest =>
    emit (checkReserve { s with sw := { s.sw with mirror := rest, free := s.sw.free + 1 } }) (.mirrorRecord m.bytes)

/-! ## Colouring (R154) -/

/-- The two-rate three-colour marker of a port, colour-blind: rates in 1/1,024 of the port's payload rate at its configured width, buckets
in cells, packets by their wire length, buckets full at first. Packets of other ingress points are green (log entry 44). -/
def colourOf (s : State) (p : Packet) (ing : Ingress) : Colour × State :=
  match ing with
  | .port q =>
    if 256 ≤ q.val then (.green, s)
    else
      let x := pswOf s q.val
      let w := rd s (SWC_TCM_RATE q.val)
      let b := rd s (SWC_TCM_BURST q.val)
      let rate := cfgWidth s q.val * stepRate (portStep s q.val) * 514 * (s.now - x.tcmAt)
      let missC := x.tc - bits w 15 0 * rate
      let missP := x.tp - bits w 31 16 * rate
      let need := p.wire * (tokenUnit / 256)
      let x := { x with tc := missC, tp := missP, tcmAt := s.now }
      if bits b 31 16 * tokenUnit < missP + need then (.red, setPsw s q.val x)
      else if bits b 15 0 * tokenUnit < missC + need then (.yellow, setPsw s q.val { x with tp := missP + need })
      else (.green, setPsw s q.val { x with tc := missC + need, tp := missP + need })
  | _ => (.green, s)

/-- Number of a colour. -/
def colourNo : Colour → Nat
  | .green => 0
  | .yellow => 1
  | .red => 2

/-! ## Discards -/

/-- A malformed packet (R115, R168, R313, R316), whose cells are taken: discarded, counted, and recorded. -/
def malformedPkt (s : State) (p : Packet) (ing : Ingress) : State :=
  limitedAt (ev (bump64 (discardCells s p ing) SWC_DISC_MALFORMED 1) 1235 1) ing 0x0202 2 0 p.src

/-- Malformed as far as the packet alone tells: R115, and R168 for an ATOMIC. -/
def isMalformed (p : Packet) : Bool :=
  p.malformed || (p.opcode == opATOMIC && (atomicBad p.aop p.asize || p.offset % asizeBytes p.asize != 0))

/-- Answer a request that expects a completion, in the destination's name (R498). -/
def answerIf (s : State) (p : Packet) (status : Nat) : State := if p.isRequest then answerFor s p status else s

/-- R39: discarded, counted, and answered UNREACHABLE. -/
def unroutable (s : State) (p : Packet) (ing : Ingress) : State := answerIf (discUnroute s p ing) p stUNREACHABLE

/-- R20: discarded, counted, and answered UNREACHABLE. -/
def misdirected (s : State) (p : Packet) (ing : Ingress) : State :=
  answerIf (ev (bump64 (discardCells s p ing) SWC_DISC_MISDIR 1) 1232 1) p stUNREACHABLE

/-- R40: discarded and counted. -/
def spoofed (s : State) (p : Packet) (ing : Ingress) : State :=
  limitedAt (ev (bump64 (discardCells s p ing) SWC_DISC_SPOOF 1) 1234 1) ing 0x0201 2 0 p.src

/-- R385: answered PARTITION or discarded, counted, recorded. -/
def notAdmitted (s : State) (p : Packet) (ing : Ingress) : State :=
  let s := limitedAt (ev (bump64 (discardCells s p ing) SEC_VIOLATIONS 1) 2032 1) ing 0x0804 2 0 p.src
  if isC01Request p then answerFor s p stPARTITION else s

/-- R358: a packet to or from a retired seat. -/
def retiredSeat (s : State) (p : Packet) (ing : Ingress) : State :=
  if isC01Request p then answerFor (discardCells s p ing) p stRETIRED else discUnroute s p ing

/-! ## Packets for the module's own Units -/

/-- The module holds a key of the job. -/
def holdsJob (s : State) (job : BitVec 16) : Bool := job != 0 && s.sec.jobKeys.any fun k => k.job == job

/-- A request whose job's key fails, to an own Unit (R125). -/
def keyRefused (s : State) (p : Packet) (ing : Ingress) : State := answerFor (discardCells s p ing) p stKEYFAIL

/-- A Unit that serves this request: 1 memory and coherence, 31 registers (R44, R113). -/
def unitServes (p : Packet) (u : Nat) : Bool :=
  if p.opcode = opREG_READ || p.opcode = opREG_WRITE then u == 31 else u == 1

/-- A request that its pair has let through, at an own Unit: its job key, then the Unit (R125, R44, R113). -/
def requestAtUnit (s : State) (p : Packet) (ing : Ingress) (u : Nat) (dup : Bool) : State :=
  if !p.enc && holdsJob s p.job && !isMine s p.src then keyRefused s p ing
  else match openPkt s p with
    | (none, s) => answerFor (jobKeyFail s p ing) p stKEYFAIL
    | (some q, s) =>
      if unitServes p u then deliverLocal s q ing u .green dup
      else respond (discardCells s p ing) p stNOREGION 0 0 0 []

/-- What R118-R121 and R174 make of a C1 request; `go` serves it, as a duplicate or not. A request between Units of the module and a C0
request have no pair context (R122). -/
def throughPair (s : State) (p : Packet) (ing : Ingress) (go : State → Bool → State) : State :=
  if p.vc ≠ 1 || isMine s p.src then go s false
  else match pairCheck s p with
    | (.accepted, s) => go s false
    | (.duplicate, s) => go s true
    | (.gap, s) => discardCells s p ing
    | (.outOfRange, s) => discardCells { s with e2e := { s.e2e with stray := s.e2e.stray + 1 } } p ing
    | (.noContext, s) => respond (discardCells s p ing) p stUNREACHABLE 0 0 0 []
    | (.noRoom, s) => respond (discardCells s p ing) p stDEFERRED 0 0 10 []
    | (.defer token hint, s) => respond (discardCells s p ing) p stDEFERRED 0 token hint.toNat []

/-- The steward's twin takes the first C4 packet redirected to it (R352): it revokes every open step, marks the group degraded, and writes
STEWARD_DEPUTY under the steward's EPC. -/
def deputy (s : State) (p : Packet) : State :=
  let g := p.group
  let forSteward := p.opcode == opREVOKE || (p.opcode == opCOLL_COUNT && (leAt p.payload 0 1 == 1 || leAt p.payload 0 1 == 3))
  if forSteward && gValid s g && gStewardEpc s g != myEpc s 12 && twinOf (gStewardEpc s g) == myEpc s 12 &&
      p.src != gStewardEpc s g && !degraded s g then
    let steps := (if stepClosed s g p.step then [] else [p.step]) ++ (openSteps s g).map StepRec.step
    let low := steps.foldl (fun a b => if b.toNat < a.toNat then b else a) (steps.headD 0)
    let s := if steps = [] then s else stewardRevoke s g low p.chunk p.src
    fault (markDegraded s g) 0x070B 3 1 (gStewardEpc s g) (groupDet g low 0xFFFFFFFF 0xFF 0xFF 0xFF)
  else s

/-- A packet for one of the module's own Units (R41, R44, R125). -/
def atOwnUnit (s : State) (p : Packet) (ing : Ingress) (u : Nat) (col : Colour) : State :=
  if 13 ≤ u && u ≤ 30 then unroutable s p ing
  else if p.isRequest then throughPair s p ing fun s dup => requestAtUnit s p ing u dup
  else if (p.vc = 4 && u ≠ 12) || (p.opcode = opSTREAM_WRITE && u ≠ 1) || (p.opcode = opTELEMETRY && u ≠ 0) then discUnroute s p ing
  else match openPkt s p with
    | (none, s) => jobKeyFail s p ing
    | (some q, s) => placeLocal (if u = 12 then deputy s q else s) q ing u col

/-! ## Packets for the module's hosts and local members -/

/-- A COLL_COUNT for a host becomes a notice to each function bound to its partition (R456). -/
def hostCount (s : State) (j : Nat) (p : Packet) : State :=
  forEach (boundFns s j p.partition.toNat) s fun s f =>
    notice s j f p.group (leAt p.payload 0 1) p.step.toNat p.chunk.toNat (leAt p.payload 4 4)

/-- A packet for a host: a COLL_COUNT is taken by R456; a request passes its pair and is decrypted by the port, its destination. -/
def atHostPort (s : State) (p : Packet) (ing : Ingress) (j : Fin 2) (col : Colour) : State :=
  if p.isRequest then throughPair s p ing fun s dup =>
    match openPkt s p with
    | (none, s) => answerFor (jobKeyFail s p ing) p stKEYFAIL
    | (some q, s) => linkOut s q ing (.host j) col dup
  else if p.opcode = opCOLL_COUNT then
    match openPkt s p with
    | (none, s) => jobKeyFail s p ing
    | (some q, s) => hostCount (discardCells s p ing) j.val q
  else linkOut s p ing (.host j) col false

/-- The module is the leaf of an A2A group's member that the packet is for (R328). -/
def a2aLeaf (s : State) (p : Packet) : Bool :=
  gValid s p.group && gLeaf s p.group && gKind s p.group == 6 && isLocalSeat s p.dest && (memberOf s p.group p.dest).isSome

/-- The packet is one the destination's leaf takes (R328): records, or an A2A_END or A2A_COUNT, which it decrypts. Records stay
encrypted, since they go on unchanged. -/
def a2aTaken (s : State) (p : Packet) : Option Packet × State :=
  if !a2aLeaf s p then (none, s)
  else if p.opcode = opCOLL_A2A then (some p, s)
  else if p.opcode = opCOLL_COUNT then
    match openPkt s p with
    | (some q, s) => if leAt q.payload 0 1 = 7 || leAt q.payload 0 1 = 8 then (some q, s) else (none, s)
    | (none, s) => (none, s)
  else (none, s)

/-! ## The arrival -/

/-- A unicast packet whose checks have passed (R135, R163). -/
def lookedUp (s : State) (p : Packet) (ing : Ingress) (col : Colour) : State :=
  if heldByDrain s p ing then linkHold s p ing col
  else match a2aTaken s p with
    | (some q, s) => deliverLocal s q ing 12 col false
    | (none, s) =>
      match route s p ing with
      | (.unit u, s) => atOwnUnit s p ing u col
      | (.out (.host j), s) => if ing = .hearth then linkOut s p ing (.host j) col false else atHostPort s p ing j col
      | (.out e, s) => linkOut s p ing e col false
      | (.unreachable, s) => answerIf (discDead s p ing) p stUNREACHABLE
      | (.unroutable, s) => unroutable s p ing

/-- A port on which the twin link arrives carries only traffic between the twins (R30). -/
def twinForeign (s : State) (p : Packet) (ing : Ingress) : Bool :=
  match ing with
  | .port q => decide (256 ≤ q.val) && !(isMine s p.dest && sameSeat p.src (twinEpc s 0))
  | _ => false

/-- The packet's seat of origin is the one at its down-port (R40). -/
def sourceOk (s : State) (p : Packet) (q : Nat) : Bool := sameSeat p.src (seatOfPort s q)

/-- The port admits the packet's partition (R385). -/
def portAdmits (s : State) (p : Packet) (q : Nat) : Bool := bitOf s (SEC_ADMIT q (p.partition.toNat / 32)) (p.partition.toNat % 32)

/-- A packet past the checks of its ingress port. -/
def pastIngress (s : State) (p : Packet) (ing : Ingress) : State :=
  if epcPlane p.dest ≠ myPlane s then misdirected s p ing
  else
    let cs := if p.vc = 5 then colourOf s p ing else (.green, s)
    let col := cs.1
    let s := if p.vc = 5 then ev cs.2 (1228 + colourNo col) 1 else cs.2
    if p.vc = 5 && bitOf s PWR_STATUS 8 then ev (discardCells s p ing) (1224 + colourNo col) 1
    else if isLocalSeat s p.src && seatRetired s p.src then retiredSeat s p ing
    else if p.mcast then multicast s p ing col
    else if reservedDest s p.dest || twinForeign s p ing then unroutable s p ing
    else if isLocalSeat s p.dest && seatRetired s p.dest then retiredSeat s p ing
    else lookedUp s p ing col

/-- A LENGTH above the class's largest packet leaves the stream undelimited (R115): counted as malformed, the port retrained, PKT_FRAMING
written. Its cells were never delimited, so none are taken. -/
def framingError (s : State) (p : Packet) (ing : Ingress) : State :=
  let s := limitedAt (ev (bump64 s SWC_DISC_MALFORMED 1) 1235 1) ing 0x0202 2 0 p.src
  match ing with
  | .port q => retrain (fault s 0x0203 3 0 p.src (det [(16, 2, q.val)])) q.val
  | _ => s

/-- The packet can have arrived there: it waits in the list of arrivals, or its port is in service. -/
def mayArrive (s : State) (ing : Ingress) (p : Packet) : Bool :=
  s.arrivals.contains (ing, p) || (match ing with | .port q => inService s q.val | _ => true)

/-- PACKET_ARRIVE. -/
def packetArrive (s : State) (ing : Ingress) (p : Packet) : State :=
  if !mayArrive s ing p || s.pwr.inReset.contains .hearthCore || dieDead s .hearth then s
  else
    let s := { s with arrivals := s.arrivals.erase (ing, p) }
    let s := if p.vc < 6 then ev (ev s (1192 + p.vc) 1) (1200 + p.vc) p.cells else s
    let s := mirrorSample s p ing
    if p.framing then framingError s p ing
    else
      let s := takeCells s p.cells
      if isMalformed p then malformedPkt s p ing
      else match ing with
        | .port q =>
          if isDownPort s q.val && !sourceOk s p q.val then spoofed s p ing
          else if isDownPort s q.val && !portAdmits s p q.val then notAdmitted s p ing
          else pastIngress s p ing
        | _ => pastIngress s p ing

/-! ## Congestion notes (R153) -/

/-- CONGESTION_NOTE: in each 1 µs in which a queue is marked and still that deep, a note goes to the source of the packet that last entered
it. A queue that has fallen below the threshold is no longer marked. -/
def congestionNote (s : State) (q c : Nat) : State :=
  let x := pswOf s q
  match vget none x.lastIn c with
  | none => s
  | some p =>
    if 256 ≤ q || 4 < c || !vget false x.marked c || vget 0 x.noteAt c = s.now / 1000 + 1 then s
    else
      let depth := queueDepth s (egPort q) c
      if depth < fldOf s (SWC_MARK q) 15 0 then setPsw s q { x with marked := vset x.marked c false }
      else
        let s := setPsw s q { x with noteAt := vset x.noteAt c (s.now / 1000 + 1) }
        let body := leBytes 1 1 ++ leBytes 1 c ++ leBytes 2 q ++ leBytes 4 depth ++ leBytes 3 p.dest.toNat ++ leBytes 5 0
        sendPlain (ev s (1216 + c) 1) (mkPkt opTELEMETRY 5 (epcWithUnit p.src 0) (myEpc s 0) (opfS 0) body) .mgmt

/-! ## Ports that return (R138) -/

/-- ROUTE_ADD_REQUEST: the module's own request for the change that enables a port in service, once it is due and no drain runs. -/
def routeAdd (s : State) (p : Nat) : State :=
  let due := cget 0 s.sw.routeAdd p
  if !inService s p || !serving s || routeEn s p || 256 ≤ p || due = 0 || s.now + 1 < due || s.sw.drain.isSome then s
  else startDrain { s with sw := { s.sw with routeAdd := cset 0 s.sw.routeAdd p 0 } } (.port p) [] [p]

/-! ## The audit (R159) -/

/-- BUF_AUDIT: every cell is placed; those missing at two audits in a row are returned to the free list. Cells have no index in the model,
so the record's index and place are free values (log entry 3). -/
def bufAudit (s : State) : State :=
  if s.now < (s.sw.nextAudit + 1) * 50000000 then s
  else
    let placed := s.sw.free + queuedCells s + heldCells s + s.sw.mirror.length
    let missing := 786432 - placed
    let back := min missing s.sw.lastMissing
    let s := { s with sw := { s.sw with nextAudit := s.now / 50000000, lastMissing := missing - back, free := s.sw.free + back } }
    let s := ev (setFld (setFld s SWC_AUDIT 15 0 (min missing 65535)) SWC_AUDIT 31 16 (fldOf s SWC_AUDIT 31 16 + 1)) 1244 1
    if back = 0 then s
    else
      let s := ev (bumpSat (checkReserve s) SWC_AUDIT_RECLAIMED 31 0 back) 1245 back
      forEach (List.range back) s fun s _ => takeFree (fault s 0x0206 1 0 (myEpc s 0) (det [(16, 4, freeVal s % 786432), (20, 4, freeVal s)]))

/-! ## Drains (R163) -/

/-- Look up the packets of the hold queues again, in order (R163 step 5); nothing is held meanwhile. -/
def relinkHeld (s : State) : State :=
  let held := s.sw.queue.filter fun e => e.kind == .hold
  noteHeld (forEach held { s with sw := { s.sw with queue := s.sw.queue.filter fun e => e.kind != .hold } } fun s e =>
    let ing := cellIng s e.ing e.period
    if e.pkt.mcast then multicast s e.pkt ing e.colour else lookedUp s e.pkt ing e.colour)

/-- DRAIN_QUIESCED: step 3's first condition holds, and the settle wait begins. -/
def drainQuiesced (s : State) : State :=
  match s.sw.drain with
  | some d =>
    if fldOf s SWC_DRAIN_STATUS 1 0 = 1 && drainQuiet s && decide (s.now < d.startAt + fldOf s SWC_DRAIN_CFG 31 16 * 10000) then
      setFld { s with sw := { s.sw with drain := some { d with settleAt := s.now + fldOf s SWC_DRAIN_CFG 15 0 * 100 } } } SWC_DRAIN_STATUS 1 0 2
    else s
  | none => s

/-- DRAIN_SETTLE_END: the shadow entries become live, and the held packets are looked up again. -/
def drainSettled (s : State) : State :=
  match s.sw.drain with
  | some d => if fldOf s SWC_DRAIN_STATUS 1 0 = 2 && decide (d.settleAt ≤ s.now) then relinkHeld (drainGoLive s d) else s
  | none => s

/-- HOLD_QUEUES_EMPTY: STATE returns to 0. -/
def holdEmpty (s : State) : State :=
  if s.sw.drain.isSome && fldOf s SWC_DRAIN_STATUS 1 0 = 3 && !(s.sw.queue.any fun e => e.kind == .hold) then drainOver s else s

/-- DRAIN_ABANDON: steps 1-3 are not complete within LIMIT; the old tables stay, and whoever asked for the change learns of it (R138, R372,
R410, R415). Steps 1-3 end with the settle wait, whose start ends the limit (DEDUCED: log entry 61). -/
def drainAbandon (s : State) : State :=
  match s.sw.drain with
  | some d =>
    let limit := fldOf s SWC_DRAIN_CFG 31 16 * 10000
    if fldOf s SWC_DRAIN_STATUS 1 0 = 1 && decide (d.startAt + limit ≤ s.now) then
      let s := relinkHeld (setBitOf (drainOver s) SWC_DRAIN_STATUS 2 true)
      let s := fault0 (ev s 1242 1) 0x0207 0 0
      match d.owner with
      | .port p => { s with sw := { s.sw with routeAdd := cset 0 s.sw.routeAdd p (s.now + limit + 1) } }
      | .request w => ownerAbandoned s (.request w)
      | o => jobAbandoned s o
    else s
  | none => s

end Sys2Proof.Machine
end

