-- ==== Sys2Proof/Machine/CollOps.lean ====
section
/-! DEFINITION. What the collective engine does with the packets it takes and at its timeouts: inputs and results (R313-R321), reissue
(R323, R324), control counts (R325, R326), variable all-to-all (R328-R330), votes and Revoke (R331-R337, R352). -/

namespace Sys2Proof.Machine

/-! ## Inputs without a use -/

/-- The cells of a taken packet go back. -/
def dropInput (s : State) (d : Delivered) (period cells : Nat) : State := freeCells s d.ing period d.pkt.vc cells

/-- An input discarded by R316: counted in COL_DUPLICATES. -/
def duplicateInput (s : State) (d : Delivered) (period cells : Nat) : State :=
  ev (bump64 (dropInput s d period cells) COL_DUPLICATES 1) 1974 1

/-- A packet of a group that is malformed for it (R313, R316): discarded, counted and recorded as by R115. -/
def malformedInput (s : State) (d : Delivered) (period cells : Nat) : State :=
  limitedAt (ev (bump64 (dropInput s d period cells) SWC_DISC_MALFORMED 1) 1235 1) d.ing 0x0202 2 0 d.pkt.src

/-- A packet of no group of the module, or for a role it does not have: unroutable (R44). -/
def strayInput (s : State) (d : Delivered) (period cells : Nat) : State :=
  ev (bump64 (dropInput s d period cells) SWC_DISC_UNROUTE 1) 1233 1

/-- The piece is one its half holds, in this format and with its LENGTH (R312, R313). -/
def pieceFits (s : State) (p : Packet) (fmt : Nat) : Bool :=
  p.fmt == fmt && decide (p.chunk.toNat < gChunks s p.group) && (halfPieces s p.group p.chunk.toNat p.strand).contains p.piece &&
  p.length.toNat == pieceBytes fmt (pieceElems s p.group p.chunk.toNat p.piece)

/-! ## Combining (R316-R320, R324) -/

/-- The half into which an input goes: the one under way, or a new one. A combiner out of service sends its halves to the other
(R320). -/
def halfFor (s : State) (p : Packet) : Half :=
  match findHalf s p.group p.step p.chunk p.strand with
  | some h => h
  | none => { g := p.group, step := p.step, chunk := p.chunk, strand := p.strand,
              combiner := if combinerUp s p.strand then p.strand else !p.strand,
              moved := false, inputs := [], firstAt := s.now, reissuedAt := s.now, done := [], tries := [], sent := false }

/-- The half has this piece of this source, or has combined it. -/
def hasInput (h : Half) (src : Epc) (piece : Nat) : Bool :=
  (h.done.any fun x => x.1 == piece) || h.inputs.any fun x => x.piece == piece && sameSeat x.src src

/-- An input is held with its cells until its half has been sent (R57, R316). -/
def holdInput (s : State) (d : Delivered) (period cells : Nat) : State :=
  let p := d.pkt
  let h := halfFor s p
  if halfSent s p.group p.step p.chunk p.strand || hasInput h p.src p.piece then duplicateInput s d period cells
  else
    let x : Input := { src := p.src, piece := p.piece, fmt := p.fmt, payload := p.payload, cells := cells, ing := d.ing, period := period }
    setHalf { s with sw := { s.sw with held := s.sw.held + cells } } { h with inputs := h.inputs ++ [x] }

/-- The sender is a local member whose START of that step was accepted, and the step is open (R310, R316). -/
def pushOpen (s : State) (p : Packet) : Bool :=
  match memberOf s p.group p.src, stepRec s p.group p.step with
  | some i, some r => isLocalSeat s p.src && r.arrivals.any fun a => a.member == i
  | _, _ => false

/-- COLL_PUSH (R316): a member's piece at its leaf. -/
def pushIn (s : State) (d : Delivered) : State :=
  let (s, period, cells) := takeHearth s d
  let p := d.pkt
  if !gValid s p.group || !gLeaf s p.group || 2 < gKind s p.group then strayInput s d period cells
  else if !pieceFits s p (gFmtIn s p.group) then malformedInput s d period cells
  else if !pushOpen s p then duplicateInput s d period cells
  else holdInput (ev s 1960 1) d period cells

/-- COLL_PARTIAL (R316): a leaf's partial at the spine combiner of its half. It opens the step (R310). -/
def partialIn (s : State) (d : Delivered) : State :=
  let (s, period, cells) := takeHearth s d
  let p := d.pkt
  let g := p.group
  if !gValid s g || !gSpine s g || 2 < gKind s g || !(gLeaves s g).contains p.src then strayInput s d period cells
  else if !pieceFits s p 0 then malformedInput s d period cells
  else if stepClosed s g p.step then duplicateInput s d period cells
  else holdInput (ev (openStep s g p.step) 1962 1) d period cells

/-- The inputs of a piece have all arrived. -/
def pieceReady (s : State) (h : Half) (piece : Nat) : Bool :=
  (halfSources s h.g h.step).all fun src => h.inputs.any fun x => x.piece == piece && sameSeat x.src src

/-- Every piece of the half has passed. -/
def halfPassed (s : State) (h : Half) : Bool :=
  (halfPieces s h.g h.chunk.toNat h.strand).all fun p => h.done.any fun x => x.1 == p

/-- Number of a combiner. -/
def combNo (b : Bool) : Nat := if b then 1 else 0

/-- A piece has failed its check (R320): again from the held cells at most twice, then the half moves to the other combiner, then it is
abandoned. -/
def pieceFails (s : State) (h : Half) (piece : Nat) : State :=
  let n := ((h.tries.find? fun x => x.1 == piece).map Prod.snd).getD 0 + 1
  if n < 3 then
    let s := ev (bump64 (colErr s 0) COL_RECOMBINES 1) 1968 1
    let s := setHalf s { h with tries := (piece, n) :: h.tries.filter fun x => x.1 != piece }
    if onceSince s 0x0603 1000000000 then
      groupFault (noteSince s 0x0603) 0x0603 1 h.g h.step h.chunk (combNo h.strand) (combNo h.combiner) piece
    else s
  else if !h.moved && h.combiner == h.strand && combinerUp s (!h.combiner) then
    let s := ev (bump64 (colErr s 1) COL_MOVES 1) 1969 1
    let s := setHalf s { h with combiner := !h.combiner, moved := true, done := [], tries := [] }
    groupFault s 0x0604 2 h.g h.step h.chunk (combNo h.strand) (combNo (!h.combiner)) 0xFF
  else revokeToSteward (abandonHalf s h) h.g h.step h.chunk

/-- A piece has passed (R317, R319): its result is kept, and once every piece of the half has passed the half is sent and its cells are
freed. -/
def piecePasses (s : State) (h : Half) (piece : Nat) : State :=
  let xs := h.inputs.filter fun x => x.piece == piece
  let n := pieceElems s h.g h.chunk.toNat piece
  let bytes := pieceResult s h.g h.step h.chunk piece (combinePiece (gOp s h.g) n xs)
  let h := { h with done := h.done ++ [(piece, bytes)] }
  if halfPassed s h then
    let s := dropHalf (freeInputs s h.inputs) h
    sendHalf { s with coll := { s.coll with sentHalves := { h with inputs := [], done := [], sent := true } :: s.coll.sentHalves } } { h with inputs := [] }
  else setHalf s h

/-- PIECE_COMBINE_DONE (R317-R320): the last input of a piece has been added, and its check has passed or failed. -/
def combineDone (s : State) (g : Nat) (step chunk : Word) (strand : Bool) (piece : Nat) (ok : Bool) : State :=
  match findHalf s g step chunk strand with
  | none => s
  | some h =>
    if !pieceReady s h piece || h.done.any fun x => x.1 == piece then s
    else
      let adds := (h.inputs.filter fun x => x.piece == piece).length - 1
      let s := ev (ev s (1964 + combNo h.combiner) 1) (1966 + combNo h.combiner) (adds * pieceElems s g chunk.toNat piece)
      if ok then piecePasses s h piece else pieceFails s h piece

/-! ## Owners (R319, R321, R322, R331) -/

/-- A result piece at an owner: kept until its chunk is whole, which is then written. It opens the step (DEDUCED: an owner without another
role sees no other packet of the step: log entry 63). -/
def ownerResult (s : State) (p : Packet) : State :=
  let g := p.group
  let c := p.chunk.toNat
  let s := openStep s g p.step
  match stepRec s g p.step with
  | none => s
  | some r =>
    if (r.written.any fun x => x.1 == c) || r.chunks.any (fun x => x.1 == c && x.2.1 == p.piece) then s
    else
      let seen := if r.seen.any fun x => x.1 == 2 * c then r.seen else (2 * c, s.now) :: (2 * c + 1, s.now) :: r.seen
      let r := { r with chunks := r.chunks ++ [(c, p.piece, p.payload)], seen := seen }
      if chunkWhole s r c then writeChunk s { r with seen := r.seen.filter fun x => x.1 / 2 != c } c else setStep s r

/-- COLL_RESULT at a module (R315, R319, R321): an owner takes the chunks of its shard. A multicast copy at the seat of a leaf or owner
is taken by its members and not by the engine. -/
def resultIn (s : State) (d : Delivered) : State :=
  let (s, period, cells) := takeHearth s d
  let p := d.pkt
  let g := p.group
  if !gValid s g then strayInput s d period cells
  else if p.mcast then
    if p.fmt ≠ (if gKind s g = 0 then gFmtOut s g else gFmtGather s g) then malformedInput s d period cells
    else dropInput s d period cells
  else if !gOwner s g || !(gKind s g = 1 || gKind s g = 2) || !(myChunks s g).contains p.chunk.toNat then strayInput s d period cells
  else if !pieceFits s p (gFmtOut s g) then malformedInput s d period cells
  else
    let s := dropInput s d period cells
    if stepClosed s g p.step then s else ownerResult s p

/-- A step of the group that was open at the owner before this one (R331). -/
def openBefore (s : State) (g : Nat) (r : StepRec) : Bool :=
  (openSteps s g).any fun x => decide (x.firstAt < r.firstAt) || (x.firstAt == r.firstAt && decide (x.step.toNat < r.step.toNat))

/-- SHARD_RELEASE (R321, R325): with its shard written, the owner of a REDUCE_SCATTER group votes; once every earlier step is decided,
it writes the step record, which raises HALL_SEM when it is written. -/
def shardReleased (s : State) (g : Nat) (step : Word) : State :=
  match stepRec s g step with
  | none => s
  | some r =>
    if !gOwner s g || !(gKind s g = 1 || gKind s g = 2) || r.shardDone || !shardWritten s r then s
    else
      let vote := gKind s g == 1 && !r.ownerVoted
      let s := if vote then
          sendCount (setStep s { r with ownerVoted := true }) g (stewardDest s g) step 0xFFFFFFFF false 1 0 ((myOwner s g).getD 0) 0xFFFF []
        else s
      if openBefore s g r then s
      else writeStepRec (setStep s { r with ownerVoted := r.ownerVoted || vote, shardDone := true }) g step 1 0xFFFFFFFF

/-! ## Reissue (R323, R338) -/

/-- Ask every source of a half again, for all its pieces. -/
def reissueAll (s : State) (g : Nat) (step chunk : Word) (strand : Bool) : State :=
  let mask := (halfPieces s g chunk.toNat strand).foldl (fun a p => a + 2 ^ p) 0
  forEach (halfSources s g step) s fun s src =>
    sendReissue s g step chunk strand src mask ((memberOf s g src).getD 0xFFFF)

/-- REISSUE at a combiner (R323): for a half it has sent, or, as a substitute, holds nothing of (R338), it asks its own sources. -/
def reissueIn (s : State) (d : Delivered) : State :=
  let p := d.pkt
  let g := p.group
  let here := gValid s g && (gLeaf s g || gSpine s g) && !stepClosed s g p.step && decide (gKind s g ≤ 2) &&
    (halfPieces s g p.chunk.toNat p.strand).length != 0 && decide (p.chunk.toNat < gChunks s g)
  if !here || (findHalf s g p.step p.chunk p.strand).isSome then s
  else
    let s := { s with coll := { s.coll with sentHalves := s.coll.sentHalves.filter fun h =>
      !(h.g == g && h.step == p.step && h.chunk == p.chunk && h.strand == p.strand) } }
    reissueAll s g p.step p.chunk p.strand

/-- COL_TIMEOUT.REISSUE in nanoseconds. -/
def reissueTime (s : State) : Nat := fldOf s COL_TIMEOUT 15 0 * 100000

/-- REISSUE_TIMEOUT at a combiner: the sources that still owe pieces are asked. -/
def combinerReissue (s : State) (h : Half) : State :=
  let srcs := (halfSources s h.g h.step).filter fun src => lackMask s h src ≠ 0
  if s.now < max h.firstAt h.reissuedAt + reissueTime s || srcs = [] then s
  else
    forEach srcs (setHalf s { h with reissuedAt := s.now }) fun s src =>
      sendReissue s h.g h.step h.chunk h.strand src (lackMask s h src) ((memberOf s h.g src).getD 0xFFFF)

/-- The pieces of a half an owner still lacks, as a mask. -/
def ownerLacks (s : State) (r : StepRec) (c : Nat) (strand : Bool) : Nat :=
  ((halfPieces s r.g c strand).filter fun p => !(r.chunks.any fun x => x.1 == c && x.2.1 == p)).foldl (fun a p => a + 2 ^ p) 0

/-- The combiner to which an owner turns for a half: the only leaf, or the half's spine combiner or its substitute. -/
def resultSource (s : State) (g c : Nat) (strand : Bool) : Option Epc :=
  if oneLeaf s g then (gLeaves s g).head? else (spineFor s c strand).map fun m => mkEpc (myPlane s) 255 m 12

/-- REISSUE_TIMEOUT at an owner that has part of a chunk (R323). -/
def ownerReissue (s : State) (r : StepRec) (c : Nat) (strand : Bool) : State :=
  let k := 2 * c + combNo strand
  match r.seen.find? fun x => x.1 == k, resultSource s r.g c strand with
  | some x, some e =>
    let mask := ownerLacks s r c strand
    if s.now < x.2 + reissueTime s || mask = 0 then s
    else
      let s := setStep s { r with seen := (k, s.now) :: r.seen.filter fun y => y.1 != k }
      sendReissue s r.g r.step (BitVec.ofNat 32 c) strand e mask 0xFFFF
  | _, _ => s

/-- REISSUE_TIMEOUT. -/
def reissueDue (s : State) (g : Nat) (step chunk : Word) (strand : Bool) : State :=
  match findHalf s g step chunk strand with
  | some h => combinerReissue s h
  | none => match stepRec s g step with
    | some r => ownerReissue s r chunk.toNat strand
    | none => s

/-! ## The steward (R325, R332-R334, R352) -/

/-- The module decides for the group: its steward, or the steward's twin once it acts as deputy. -/
def actsSteward (s : State) (g : Nat) : Bool :=
  gValid s g && (gSteward s g || (twinOf (gStewardEpc s g) == myEpc s 12 && degraded s g))

/-- The packet comes from the group's steward or its deputy. -/
def fromSteward (s : State) (p : Packet) : Bool :=
  p.src == gStewardEpc s p.group || p.src == twinOf (gStewardEpc s p.group)

/-- COUNT and ARG of a COLL_COUNT. -/
def countOf (p : Packet) : Nat := leAt p.payload 4 4
def argOf (p : Packet) : Nat := leAt p.payload 8 4

/-- VOTE (R332): a leaf's votes once, an owner's vote once. -/
def voteIn (s : State) (d : Delivered) : State :=
  let p := d.pkt
  let g := p.group
  if !actsSteward s g || stepClosed s g p.step || gKind s g = 5 then s
  else
    let t := tallyOf s g p.step
    if argOf p = 0xFFFFFFFF then
      if !(gLeaves s g).contains p.src || t.leaves.contains p.src then s
      else commitIfComplete (setTally s { t with leaves := p.src :: t.leaves, votes := t.votes + countOf p }) g p.step
    else if gOwners s g ≤ argOf p || ownerEpc s g (argOf p) ≠ p.src || t.owners.contains (argOf p) then s
    else commitIfComplete (setTally s { t with owners := argOf p :: t.owners }) g p.step

/-- COMMITTED (R332). -/
def committedIn (s : State) (d : Delivered) : State :=
  let p := d.pkt
  if gValid s p.group && fromSteward s p && !stepClosed s p.group p.step then commitHere s p.group p.step else s

/-- A barrier is released at this module (R325): its members hear of it, have done with the step, and the step closes. That they count as
voted is DEDUCED: a member of a barrier never votes, and could not start again otherwise (log entry 63). -/
def barrierHere (s : State) (g : Nat) (step : Word) : State :=
  if gLeaf s g then
    let s := forEach (localMembers s g) s fun s i =>
      let m := memState s g i
      let s := if m.latest = step then setMemState s g i { m with voted := true } else s
      sendCount s g (memberEpc s g i) step 0xFFFFFFFF false 4 0 0 0xFFFF []
    closeStep s g step
  else closeStep s g step

/-- All members of the group have arrived (R325): the leaves of a barrier, or the owners that send, are released. -/
def releaseStep (s : State) (g : Nat) (step : Word) : State :=
  if gKind s g = 5 then
    let s := forEach ((gLeaves s g).filter fun e => e != myEpc s 12) s fun s e => sendCount s g e step 0xFFFFFFFF false 4 0 0 0xFFFF []
    barrierHere s g step
  else
    let os := if gKind s g = 4 then [gRoot s g] else List.range (gOwners s g)
    forEach os s fun s o => sendCount s g (ownerEpc s g o) step 0xFFFFFFFF false 4 0 0 0xFFFF []

/-- ARRIVED (R325): the steward sums the leaves' counts to MEMBERS. -/
def arrivedIn (s : State) (d : Delivered) : State :=
  let p := d.pkt
  let g := p.group
  let gathers := gKind s g = 5 || ((gKind s g = 3 || gKind s g = 4) && !gSource1 s g)
  if !actsSteward s g || stepClosed s g p.step || !gathers then s
  else
    let t := tallyOf s g p.step
    if !(gLeaves s g).contains p.src || t.arrivedFrom.contains p.src then s
    else
      let t := { t with arrivedFrom := p.src :: t.arrivedFrom, arrived := t.arrived + countOf p }
      let s := setTally s t
      if t.arrived = gMembers s g then releaseStep s g p.step else s

/-- RELEASE (R325): owners send their gathers, leaves close a barrier. It opens the step at an owner. -/
def releaseIn (s : State) (d : Delivered) : State :=
  let p := d.pkt
  let g := p.group
  if !gValid s g || !fromSteward s p || stepClosed s g p.step then s
  else if gKind s g = 5 then (if gLeaf s g then barrierHere s g p.step else s)
  else if gOwner s g && !gSource1 s g && (gKind s g = 3 || (gKind s g = 4 && myOwner s g == some (gRoot s g))) then
    let s := openStep s g p.step
    match stepRec s g p.step with
    | some r => if r.published then s else startGather s g p.step 0
    | none => s
  else s

/-- REGATHER (R326): the named pieces go to the member that asked, from the gather of the current step or the last committed one. -/
def regatherIn (s : State) (d : Delivered) : State :=
  let p := d.pkt
  let g := p.group
  let slot := match stepRec s g p.step with
    | some r => if r.published then some (slotNew s g) else none
    | none => if p.step.toNat = lastCommitted s g && lastCommitted s g ≠ 0 then some (slotCommitted s g) else none
  if !gValid s g || !gOwner s g || (memberOf s g p.src).isNone || !(myChunks s g).contains p.chunk.toNat then s
  else match slot with
    | none => s
    | some k =>
      let ps := (List.range 16).filter fun q => bit (argOf p) q && decide (0 < pieceElems s g p.chunk.toNat q)
      beginGathers s (ps.map fun q => { g := g, step := p.step, chunk := p.chunk.toNat, piece := q, member := some p.src, slot := k })

/-! ## Revoke (R333-R336) -/

/-- REVOKE from a raiser, at the steward (R334): a step already committed stays so, a step already revoked likewise. -/
def revokeAtSteward (s : State) (p : Packet) : State :=
  let g := p.group
  if s.coll.revoked.contains (g, p.step) then s
  else if stepClosed s g p.step then
    fault (colErr s 4) 0x0607 3 1 p.src (groupDet g p.step p.chunk 0xFF 0xFF 0xFF)
  else stewardRevoke s g p.step p.chunk p.src

/-- REVOKE (R334, R335). -/
def revokeIn (s : State) (d : Delivered) : State :=
  let p := d.pkt
  let g := p.group
  if !gValid s g || (p.src == myEpc s 12 && p.mcast) then s
  else
    let s := noticeAll (ev (bump64 s COL_REVOKES 1) 1972 1) (gPart s g) g 0x11 p.step.toNat p.chunk.toNat 0
    if actsSteward s g then revokeAtSteward s p
    else if fromSteward s p && (!stepClosed s g p.step || (s.coll.revoked.contains (g, p.step) && revokedSteps s g p.step != [p.step])) then
      revokeHere s g p.step p.chunk
    else s

/-- VOTE_TIMEOUT (R333): the oldest open step, whose votes are incomplete COL_TIMEOUT.VOTE after its first arrival, is revoked. A barrier has
no votes. -/
def voteDue (s : State) (g : Nat) : State :=
  let known := (openSteps s g).map (fun r => (r.step, r.firstAt)) ++
    (s.coll.tallies.filter fun t => t.g == g).map fun t => (t.step, t.firstAt)
  match known with
  | [] => s
  | x :: xs =>
    let step := xs.foldl (fun a y => if y.1.toNat < a.toNat then y.1 else a) x.1
    let first := (known.filter fun y => y.1 == step).foldl (fun a y => min a y.2) s.now
    if !actsSteward s g || gKind s g = 5 || s.now < first + fldOf s COL_TIMEOUT 31 16 * 10000000 then s
    else stewardRevoke s g step 0xFFFFFFFF (myEpc s 12)

/-! ## Variable all-to-all (R328-R330) -/

/-- The books of a pair. -/
def a2aPair (s : State) (g : Nat) (step : Word) (src dst : Nat) : A2aPair :=
  match s.coll.a2a.find? fun x => x.g == g && x.step == step && x.src == src && x.dst == dst with
  | some x => x
  | none => { g := g, step := step, src := src, dst := dst }

/-- Store the books of a pair. -/
def setA2a (s : State) (x : A2aPair) : State :=
  { s with coll := { s.coll with a2a := x :: s.coll.a2a.filter fun y =>
    !(y.g == x.g && y.step == x.step && y.src == x.src && y.dst == x.dst) } }

/-- The destination's tally or column was sent. -/
def a2aTold (s : State) (g : Nat) (step : Word) (dst : Nat) : Bool := s.coll.a2aDone.contains (g, step, dst)
def tellA2a (s : State) (g : Nat) (step : Word) (dst kind : Nat) (vec : List Nat) : State :=
  sendCount { s with coll := { s.coll with a2aDone := (g, step, dst) :: s.coll.a2aDone } } g (memberEpc s g dst) step 0xFFFFFFFF false
    kind 0 0 0xFFFF vec

/-- A pair is complete: kept and dropped make up its A2A_END count. -/
def A2aPair.whole (x : A2aPair) : Bool := x.expect == some (x.kept + x.dropped)

/-- PAD mode, a pair's books have changed (R329): A2A_DROP to the source of a complete pair with drops, A2A_TALLY to the destination
once every pair of it is complete. -/
def padProgress (s : State) (g : Nat) (step : Word) (src dst : Nat) : State :=
  let x := a2aPair s g step src dst
  let s := if x.whole && 0 < x.dropped && !x.dropSent then
      sendCount (setA2a s { x with dropSent := true }) g (memberEpc s g src) step 0xFFFFFFFF false 0x0B x.dropped x.firstDrop.toNat dst []
    else s
  let n := gMembers s g
  if !a2aTold s g step dst && (List.range n).all fun i => (a2aPair s g step i dst).whole then
    tellA2a s g step dst 0x0A ((List.range n).map fun i => (a2aPair s g step i dst).kept)
  else s

/-- The SRC_INDEX of a packet's first record, decrypted where the packet is encrypted; a packet whose check fails gives none. -/
def srcIndex (s : State) (p : Packet) : Option Word × State :=
  match openPkt s p with
  | (some q, s) => (some (BitVec.ofNat 32 (leAt q.payload 0 4)), s)
  | (none, s) => (none, s)

/-- PAD mode, records arrive (R329): kept below CAPACITY, dropped at or across it. -/
def padRecords (s : State) (d : Delivered) (period cells src dst n : Nat) : State :=
  let p := d.pkt
  let g := p.group
  let pos := p.chunk.toNat
  let x := a2aPair s g p.step src dst
  if pos + n ≤ gCapacity s g then
    let s := ev (setA2a s { x with kept := x.kept + n }) 1977 n
    padProgress (forward s p (cellIng s d.ing period) .green) g p.step src dst
  else
    let s := ev (bump64 (dropInput s d period cells) COL_A2A_DROPS n) 1978 n
    let s := if pos < gCapacity s g then colErr s 6 else s
    match srcIndex s p with
    | (i, s) =>
      let x' := match i with
        | some w => if x.dropped = 0 || pos < x.firstPos then { x with firstDrop := w, firstPos := pos } else x
        | none => x
      padProgress (setA2a s { x' with dropped := x.dropped + n }) g p.step src dst

/-- COUNT mode, records arrive (R330): held as combiner holdings until the column is sent, then forwarded. -/
def countRecords (s : State) (d : Delivered) (period cells dst n : Nat) : State :=
  let p := d.pkt
  if a2aTold s p.group p.step dst then forward (ev s 1977 n) p (cellIng s d.ing period) .green
  else { s with sw := { s.sw with held := s.sw.held + cells }, coll := { s.coll with a2aHeld := s.coll.a2aHeld ++ [(d, period, cells)] } }

/-- COLL_A2A at the destination's leaf (R328-R330). -/
def a2aIn (s : State) (d : Delivered) : State :=
  let (s, period, cells) := takeHearth s d
  let p := d.pkt
  let g := p.group
  match memberOf s g p.src, memberOf s g p.dest with
  | some src, some dst =>
    if !a2aLeaf s p then strayInput s d period cells
    else if p.fmt ≠ 15 || p.piece ≠ 0 || p.strand || gRecord s g = 0 || p.length.toNat % gRecord s g ≠ 0 then malformedInput s d period cells
    else if stepClosed s g p.step then duplicateInput s d period cells
    else
      let n := p.length.toNat / gRecord s g
      if gCountMode s g then countRecords s d period cells dst n else padRecords s d period cells src dst n
  | _, _ => strayInput s d period cells

/-- A2A_END (R329). -/
def a2aEndIn (s : State) (d : Delivered) : State :=
  let p := d.pkt
  let g := p.group
  match memberOf s g p.src, memberOf s g p.dest with
  | some src, some dst =>
    if !a2aLeaf s p || gCountMode s g || stepClosed s g p.step then s
    else padProgress (setA2a s { a2aPair s g p.step src dst with expect := some (countOf p) }) g p.step src dst
  | _, _ => s

/-- Forward the records held for a destination (R330). -/
def releaseA2a (s : State) (g : Nat) (step : Word) (dst : Nat) : State :=
  let mine := s.coll.a2aHeld.filter fun x => x.1.pkt.group == g && x.1.pkt.step == step && memberOf s g x.1.pkt.dest == some dst
  forEach mine { s with coll := { s.coll with a2aHeld := s.coll.a2aHeld.filter fun x => !mine.contains x } } fun s (d, period, cells) =>
    let s := { s with sw := { s.sw with held := s.sw.held - cells } }
    forward (ev s 1977 (d.pkt.length.toNat / gRecord s g)) d.pkt (cellIng s d.ing period) .green

/-- A2A_COUNT (R330): with every source's count, the column goes to the destination and its records follow. -/
def a2aCountIn (s : State) (d : Delivered) : State :=
  let p := d.pkt
  let g := p.group
  match memberOf s g p.src, memberOf s g p.dest with
  | some src, some dst =>
    if !a2aLeaf s p || !gCountMode s g || stepClosed s g p.step || a2aTold s g p.step dst then s
    else
      let s := setA2a s { a2aPair s g p.step src dst with count := some (countOf p) }
      let n := gMembers s g
      if (List.range n).all fun i => (a2aPair s g p.step i dst).count.isSome then
        let s := tellA2a s g p.step dst 0x09 ((List.range n).map fun i => ((a2aPair s g p.step i dst).count).getD 0)
        releaseA2a s g p.step dst
      else s
  | _, _ => s

/-! ## Control counts (R316, R326) -/

/-- A COLL_COUNT of one KIND is taken by the engine; one whose FMT is not 15 is malformed (R316); one of another KIND is no such event
(log entry 20). -/
def countTaken (s : State) (d : Delivered) (kind : Nat) (f : State → Delivered → State) : State :=
  if d.pkt.opcode = opCOLL_COUNT && leAt d.pkt.payload 0 1 = kind then
    takenBy s d fun s d => if d.pkt.fmt ≠ 15 || d.pkt.length.toNat < 16 then malformedInput s d 0 0 else f s d
  else s

end Sys2Proof.Machine
end

