-- ==== Sys2Proof/Machine/ExecColl.lean ====
section
/-! DEFINITION. Meanings: collectives (chapter 11). -/

namespace Sys2Proof.Machine

/-- COLL_PUSH (R316). -/
def execCollPush (d : Delivered) (s : State) : Host.Outcome State Fault Refusal := .next (taken s d opCOLL_PUSH pushIn)

/-- COLL_PARTIAL (R316). -/
def execCollPartial (d : Delivered) (s : State) : Host.Outcome State Fault Refusal := .next (taken s d opCOLL_PARTIAL partialIn)

/-- COLL_RESULT (R315, R321). -/
def execCollResult (d : Delivered) (s : State) : Host.Outcome State Fault Refusal := .next (taken s d opCOLL_RESULT resultIn)

/-- COLL_A2A (R328-R330). -/
def execCollA2a (d : Delivered) (s : State) : Host.Outcome State Fault Refusal := .next (taken s d opCOLL_A2A a2aIn)

/-- REVOKE (R334, R335). -/
def execRevoke (d : Delivered) (s : State) : Host.Outcome State Fault Refusal := .next (taken s d opREVOKE revokeIn)

/-- VOTE (R332). -/
def execVote (d : Delivered) (s : State) : Host.Outcome State Fault Refusal := .next (countTaken s d 1 voteIn)

/-- COMMITTED (R332). -/
def execCommitted (d : Delivered) (s : State) : Host.Outcome State Fault Refusal := .next (countTaken s d 2 committedIn)

/-- ARRIVED (R325). -/
def execArrived (d : Delivered) (s : State) : Host.Outcome State Fault Refusal := .next (countTaken s d 3 arrivedIn)

/-- RELEASE (R325). -/
def execRelease (d : Delivered) (s : State) : Host.Outcome State Fault Refusal := .next (countTaken s d 4 releaseIn)

/-- REISSUE (R323). -/
def execReissue (d : Delivered) (s : State) : Host.Outcome State Fault Refusal := .next (countTaken s d 5 reissueIn)

/-- REGATHER (R326). -/
def execRegather (d : Delivered) (s : State) : Host.Outcome State Fault Refusal := .next (countTaken s d 6 regatherIn)

/-- A2A_END (R329). -/
def execA2aEnd (d : Delivered) (s : State) : Host.Outcome State Fault Refusal := .next (countTaken s d 7 a2aEndIn)

/-- A2A_COUNT (R330). -/
def execA2aCount (d : Delivered) (s : State) : Host.Outcome State Fault Refusal := .next (countTaken s d 8 a2aCountIn)

/-- GROUP_CHANGE_APPLY (R308). -/
def execGroupChangeApply (g : Fin 1024) (s : State) : Host.Outcome State Fault Refusal := .next (event s fun s => changeApply s g)

/-- GROUP_CHANGE_ABANDON (R308). -/
def execGroupChangeAbandon (g : Fin 1024) (s : State) : Host.Outcome State Fault Refusal := .next (event s fun s => changeAbandon s g)

/-- PIECE_COMBINE_DONE (R317-R320). -/
def execPieceCombineDone (g : Fin 1024) (step chunk : Word) (strand : Bool) (piece : Fin 16) (ok : Bool) (s : State) : Host.Outcome State Fault Refusal :=
  .next (event s fun s => combineDone s g step chunk strand piece ok)

/-- SHARD_RELEASE (R321). -/
def execShardRelease (g : Fin 1024) (step : Word) (s : State) : Host.Outcome State Fault Refusal :=
  .next (event s fun s => shardReleased s g step)

/-- REISSUE_TIMEOUT (R323). -/
def execReissueTimeout (g : Fin 1024) (step chunk : Word) (strand : Bool) (s : State) : Host.Outcome State Fault Refusal :=
  .next (event s fun s => reissueDue s g step chunk strand)

/-- VOTE_TIMEOUT (R333). -/
def execVoteTimeout (g : Fin 1024) (s : State) : Host.Outcome State Fault Refusal := .next (event s fun s => voteDue s g)

/-- MEMBER_LOST (R337). -/
def execMemberLost (g : Fin 1024) (i : Nat) (s : State) : Host.Outcome State Fault Refusal := .next (event s fun s => memberLost s g i)

end Sys2Proof.Machine
end

