-- ==== Sys2Proof/Machine/ExecE2E.lean ====
section
/-! DEFINITION. Meanings: the module's own requests, its pairs and fences, and the C2 packets at its own caches (chapters 4, 6 and 7). -/

namespace Sys2Proof.Machine

/-- A C2 packet at a cache of the module: the Cupboard under Unit 9, a host port's cache under Unit 10 or 11 or the seat of its host. -/
def cacheTakes (s : State) (d : Delivered) : State :=
  let p := d.pkt
  if isMine s p.dest then
    if epcUnit p.dest = 9 then cupSnoop s p
    else if epcUnit p.dest = 10 || epcUnit p.dest = 11 then hostSnoop s (epcUnit p.dest - 10) p
    else s
  else match hostOf s p.dest with
    | some j => hostSnoop s j p
    | none => s

/-- E2E_RETRY_TIMEOUT (R117). -/
def execE2eRetryTimeout (src dst : Epc) (s : State) : Host.Outcome State Fault Refusal := .next (event s fun s => retryTimeout s src dst)

/-- PAIR_CLOSE (R120). -/
def execPairClose (src dst : Epc) (s : State) : Host.Outcome State Fault Refusal := .next (event s fun s => closePair s src dst)

/-- C0_REQUEST_TIMEOUT (R122). -/
def execC0RequestTimeout (n : Nat) (s : State) : Host.Outcome State Fault Refusal := .next (event s fun s => c0Timeout s n)

/-- DEFERRED_RESEND (R175, R176). -/
def execDeferredResend (src dst : Epc) (c0 : Bool) (s : State) : Host.Outcome State Fault Refusal :=
  .next (event s fun s => resendDeferred s src dst c0)

/-- FLAGGED_WRITE_RELEASE (R178-R181). -/
def execFlaggedWriteRelease (n : Nat) (s : State) : Host.Outcome State Fault Refusal := .next (event s fun s => releaseFlagged s n)

/-- FENCE_COMPLETE (R182, R183). -/
def execFenceComplete (f : FenceId) (s : State) : Host.Outcome State Fault Refusal := .next (event s fun s => fenceEnds s f)

/-- COMP at a source of the module (R165, R169). -/
def execComp (d : Delivered) (s : State) : Host.Outcome State Fault Refusal := .next (taken s d opCOMP responseAt)

/-- DATA at a source of the module (R165, R205). -/
def execData (d : Delivered) (s : State) : Host.Outcome State Fault Refusal := .next (taken s d opDATA responseAt)

/-- SNOOP_INV (R202). -/
def execSnoopInv (d : Delivered) (s : State) : Host.Outcome State Fault Refusal := .next (taken s d opSNOOP_INV cacheTakes)

/-- FWD_SHARED (R202). -/
def execFwdShared (d : Delivered) (s : State) : Host.Outcome State Fault Refusal := .next (taken s d opFWD_SHARED cacheTakes)

/-- FWD_EXCL (R202). -/
def execFwdExcl (d : Delivered) (s : State) : Host.Outcome State Fault Refusal := .next (taken s d opFWD_EXCL cacheTakes)

/-- RECALL (R202). -/
def execRecall (d : Delivered) (s : State) : Host.Outcome State Fault Refusal := .next (taken s d opRECALL cacheTakes)

end Sys2Proof.Machine
end

