-- ==== Sys2Proof/Machine/ExecHall.lean ====
section
/-! DEFINITION. Meanings: the Hall (chapters 9 and 10). -/

namespace Sys2Proof.Machine

/-- ARRAY (R257): the next command of context c is dispatched to the array. -/
def execArray (c : Fin 16) (s : State) : Host.Outcome State Fault Refusal := .next (event s fun s => dispatchRow s c fun l => cOp l == 1)

/-- VECTOR (R265). -/
def execVector (c : Fin 16) (s : State) : Host.Outcome State Fault Refusal := .next (event s fun s => dispatchRow s c fun l => cOp l == 2)

/-- DMA_LOAD (R269, R271). -/
def execDmaLoad (c : Fin 16) (s : State) : Host.Outcome State Fault Refusal :=
  .next (event s fun s => dispatchRow s c fun l => cOp l == 3 && dKind l == 0)

/-- DMA_STORE (R269, R271). -/
def execDmaStore (c : Fin 16) (s : State) : Host.Outcome State Fault Refusal :=
  .next (event s fun s => dispatchRow s c fun l => cOp l == 3 && dKind l == 1)

/-- DMA_COPY (R269, R271). -/
def execDmaCopy (c : Fin 16) (s : State) : Host.Outcome State Fault Refusal :=
  .next (event s fun s => dispatchRow s c fun l => cOp l == 3 && dKind l == 2)

/-- DMA_TAKE_S (R269, R271). -/
def execDmaTakeS (c : Fin 16) (s : State) : Host.Outcome State Fault Refusal :=
  .next (event s fun s => dispatchRow s c fun l => cOp l == 3 && dKind l == 3)

/-- DMA_TAKE_X (R269, R271). -/
def execDmaTakeX (c : Fin 16) (s : State) : Host.Outcome State Fault Refusal :=
  .next (event s fun s => dispatchRow s c fun l => cOp l == 3 && dKind l == 4)

/-- DMA_GIVE (R269, R271). -/
def execDmaGive (c : Fin 16) (s : State) : Host.Outcome State Fault Refusal :=
  .next (event s fun s => dispatchRow s c fun l => cOp l == 3 && dKind l == 5)

/-- DMA_CUP_OUT (R269, R271). -/
def execDmaCupOut (c : Fin 16) (s : State) : Host.Outcome State Fault Refusal :=
  .next (event s fun s => dispatchRow s c fun l => cOp l == 3 && dKind l == 6)

/-- DMA_CUP_IN (R269, R271). -/
def execDmaCupIn (c : Fin 16) (s : State) : Host.Outcome State Fault Refusal :=
  .next (event s fun s => dispatchRow s c fun l => cOp l == 3 && dKind l == 7)

/-- DMA_ATOMIC (R269, R271). -/
def execDmaAtomic (c : Fin 16) (s : State) : Host.Outcome State Fault Refusal :=
  .next (event s fun s => dispatchRow s c fun l => cOp l == 3 && dKind l == 8)

/-- SIGNAL (R251). -/
def execSignal (c : Fin 16) (s : State) : Host.Outcome State Fault Refusal := .next (event s fun s => dispatchRow s c fun l => cOp l == 4)

/-- FENCE (R278). -/
def execFence (c : Fin 16) (s : State) : Host.Outcome State Fault Refusal := .next (event s fun s => dispatchRow s c fun l => cOp l == 5)

/-- LOOP (R251). -/
def execLoop (c : Fin 16) (s : State) : Host.Outcome State Fault Refusal := .next (event s fun s => dispatchRow s c fun l => cOp l == 6)

/-- TLB_INV (R275). -/
def execTlbInv (c : Fin 16) (s : State) : Host.Outcome State Fault Refusal := .next (event s fun s => dispatchRow s c fun l => cOp l == 7)

/-- END (R251). -/
def execEndCmd (c : Fin 16) (s : State) : Host.Outcome State Fault Refusal := .next (event s fun s => dispatchRow s c fun l => cOp l == 8)

/-- SEMAPHORE_WAIT_SATISFIED (R249). -/
def execSemaphoreWaitSatisfied (c : Fin 16) (s : State) : Host.Outcome State Fault Refusal := .next (event s fun s => waitSatisfied s c)

/-- RELEASE_POINT_REACHED (R291). -/
def execReleasePointReached (c : Fin 16) (s : State) : Host.Outcome State Fault Refusal := .next (event s fun s => startAll s c true)

/-- COMMAND_COMPLETE (R251). -/
def execCommandComplete (c : Fin 16) (id : Nat) (s : State) : Host.Outcome State Fault Refusal :=
  .next (event s fun s => completeCmd s c id)

/-- ARRAY_PASS_END (R259). -/
def execArrayPassEnd (residueOk : Bool) (s : State) : Host.Outcome State Fault Refusal := .next (event s fun s => passEnds s residueOk)

/-- SPILL_COMPLETE (R260). -/
def execSpillComplete (s : State) : Host.Outcome State Fault Refusal := .next (event s fun s => spillEnds s)

/-- RESTORE_COMPLETE (R260). -/
def execRestoreComplete (s : State) : Host.Outcome State Fault Refusal := .next (event s fun s => restoreEnds s)

/-- EPILOGUE_COMPLETE (R258). -/
def execEpilogueComplete (s : State) : Host.Outcome State Fault Refusal := .next (event s fun s => epilogueEnds s)

/-- SLICE_FRAME_END (R260). -/
def execSliceFrameEnd (s : State) : Host.Outcome State Fault Refusal := .next (event s fun s => frameEnds s)

/-- TRANSLATION_WALK_DONE (R274). -/
def execTranslationWalkDone (c : Fin 16) (va : BitVec 48) (s : State) : Host.Outcome State Fault Refusal :=
  .next (event s fun s => walkDone s c va.toNat)

/-- CONTEXT_CONFIG_APPLY (R283). -/
def execContextConfigApply (c : Fin 16) (s : State) : Host.Outcome State Fault Refusal := .next (event s fun s => ctxCfgApply s c)

end Sys2Proof.Machine
end

