-- ==== Sys2Proof/Machine/ExecHome.lean ====
section
/-! DEFINITION. Meanings: requests at their home, the answers they get, hot lines, timeouts, mirrored changes and patrol scrub
(chapters 6, 7 and 8). -/

namespace Sys2Proof.Machine

/-- A request to Unit 1 at its home; to any other Unit it completes NOREGION (R44). -/
def atHome (s : State) (d : Delivered) : State :=
  if epcUnit d.pkt.dest = 1 then homeRequest s d else respond s d.pkt stNOREGION 0 0 0 []

/-- READ (R165, R170, R192, R200). -/
def execRead (d : Delivered) (s : State) : Host.Outcome State Fault Refusal := .next (taken s d opREAD atHome)

/-- READ_VOL (R165): the line's current value at the home. -/
def execReadVol (d : Delivered) (s : State) : Host.Outcome State Fault Refusal := .next (taken s d opREAD_VOL atHome)

/-- WRITE (R165). -/
def execWrite (d : Delivered) (s : State) : Host.Outcome State Fault Refusal := .next (taken s d opWRITE atHome)

/-- WRITE_MASK (R165). -/
def execWriteMask (d : Delivered) (s : State) : Host.Outcome State Fault Refusal := .next (taken s d opWRITE_MASK atHome)

/-- ATOMIC (R165, R167, R207): granted like a TAKE_EXCL. -/
def execAtomic (d : Delivered) (s : State) : Host.Outcome State Fault Refusal := .next (taken s d opATOMIC atHome)

/-- TAKE_SHARED (R200). -/
def execTakeShared (d : Delivered) (s : State) : Host.Outcome State Fault Refusal := .next (taken s d opTAKE_SHARED atHome)

/-- TAKE_EXCL (R200). -/
def execTakeExcl (d : Delivered) (s : State) : Host.Outcome State Fault Refusal := .next (taken s d opTAKE_EXCL atHome)

/-- GIVE (R200, R203). -/
def execGive (d : Delivered) (s : State) : Host.Outcome State Fault Refusal := .next (taken s d opGIVE atHome)

/-- EVICT_NOTICE (R200, R203). -/
def execEvictNotice (d : Delivered) (s : State) : Host.Outcome State Fault Refusal := .next (taken s d opEVICT_NOTICE atHome)

/-- STREAM_WRITE (R164): lines written without response. -/
def execStreamWrite (d : Delivered) (s : State) : Host.Outcome State Fault Refusal := .next (taken s d opSTREAM_WRITE homeStream)

/-- SNOOP_RESP at the home (R194, R203, R210). -/
def execSnoopResp (d : Delivered) (s : State) : Host.Outcome State Fault Refusal := .next (taken s d opSNOOP_RESP snoopAnswer)

/-- SNOOP_DATA at the home (R194, R203, R210). -/
def execSnoopData (d : Delivered) (s : State) : Host.Outcome State Fault Refusal := .next (taken s d opSNOOP_DATA snoopAnswer)

/-- COMP_ACK at the home (R193, R205, R214, R215). -/
def execCompAck (d : Delivered) (s : State) : Host.Outcome State Fault Refusal := .next (taken s d opCOMP_ACK homeCompAck)

/-- HOT_RUN_SERVE (R212-R215, R218). -/
def execHotRunServe (line : Nat) (s : State) : Host.Outcome State Fault Refusal := .next (event s fun s => serveHot s line)

/-- TOKEN_LAPSE (R217): 1 ms after the latest answer that carried it, a token is no longer outstanding; a hot line may then
return to normal service (R218). -/
def lapseToken (s : State) (line : Nat) (token : BitVec 16) : State :=
  let due := s.homes.tokens.filter fun t => t.line == line && t.token == token && decide (t.lapse ≤ s.now)
  if due = [] then s
  else
    let rest := s.homes.tokens.filter fun t => !(t.line == line && t.token == token && decide (t.lapse ≤ s.now))
    let s := noteHome { s with homes := { s.homes with tokens := rest } } (storeOf (line * 128))
    settle (exitHot s line) line

/-- TOKEN_LAPSE. -/
def execTokenLapse (line : Nat) (token : BitVec 16) (s : State) : Host.Outcome State Fault Refusal :=
  .next (event s fun s => lapseToken s line token)

/-- SNOOP_RESEND_TIMEOUT (R209). -/
def execSnoopResendTimeout (line : Nat) (holder : Epc) (s : State) : Host.Outcome State Fault Refusal :=
  .next (event s fun s => resendSnoop s line holder)

/-- GRANT_CHECK_TIMEOUT (R210). -/
def execGrantCheckTimeout (line : Nat) (member : Epc) (s : State) : Host.Outcome State Fault Refusal :=
  .next (event s fun s => checkGrant s line member)

/-- TWIN_MIRROR_RECEIVE (R185, R187, R199). -/
def execTwinMirrorReceive (m : MirrorMsg) (s : State) : Host.Outcome State Fault Refusal := .next (event s fun s => applyMirror s m)

/-- TWIN_MIRROR_ACK (R185, R186, R213). -/
def execTwinMirrorAck (line : Nat) (s : State) : Host.Outcome State Fault Refusal := .next (event s fun s => ackMirror s line)

/-! ## Patrol scrub (R245) -/

/-- MEM_ERR_LAST: OFFSET, KIND and DEVICE of the most recent event. -/
def errLast (s : State) (off kind dev : Nat) : State :=
  wr64 s MEM_ERR_LAST (off % 2 ^ 40 + kind * 2 ^ 40 + dev % 16 * 2 ^ 43)

/-- A corrected error (R245): counted, recorded at most once per device per 1 s, and against its row. -/
def correctedError (s : State) (line : Nat) (dev row : Nat) : State :=
  let s := errLast (ev (bump64 s (MEM_CE_COUNT dev) 1) (1576 + 8 * dev + 3) 1) (line * 128) 0 dev
  let k := 0x04010000 + dev
  let s := if onceSince s k 1000000000 then
      fault (noteSince s k) 0x0401 1 (2 + storeOf (line * 128)) (agentEpc s (line * 128)) (det [(16, 5, line * 128), (22, 1, dev)])
    else s
  let rk := dev * 2 ^ 40 + row
  let n := cget 0 s.homes.rowErrs rk + 1
  let s := { s with homes := { s.homes with rowErrs := cset 0 s.homes.rowErrs rk n } }
  if n = 16 then
    let used := cget 0 s.homes.spared dev
    if used < Config.spareRows dev then
      let s := { s with homes := { s.homes with spared := cset 0 s.homes.spared dev (used + 1) } }
      let s := errLast (ev (bumpSat s MEM_SCRUB_STATUS 31 16 1) (1576 + 8 * dev + 6) 1) (line * 128) 4 dev
      fault s 0x0405 1 (2 + storeOf (line * 128)) (agentEpc s (line * 128)) (det [(16, 5, line * 128), (22, 1, dev)])
    else fault s 0x0406 3 (2 + storeOf (line * 128)) (agentEpc s (line * 128)) (det [(22, 1, dev)])
  else s

/-- Poison every line beneath a counter line whose tag failed (R244): unlisted lines read 0b10. -/
def sealFail (s : State) (line level : Nat) : State :=
  match regionOfLine s line with
  | some r =>
    let k := sealKeyAt r line level
    let beneath (l : Nat) : Bool := r.holds (l * 128) && sealKeyAt r l level == k
    let s := setSealLine s k { sealLine s k with bad := true }
    let n := (s.homes.dirBits.filter fun e => beneath e.1).length
    let s := ev { s with homes := { s.homes with
                                                dirBits := s.homes.dirBits.filter fun e => !beneath e.1,
                                                dir := s.homes.dir.filter fun x => !beneath x.line } } 1677 n
    noteDir s (storeOf (line * 128))
  | none => s

/-- PATROL_SCRUB_READ (R245, R230, R244): the scrub reads a line when no transaction blocks it; a line owned by a cache is skipped
(the record does not tell M from E). The environment says what the check found. The read of the Cellar window's last line ends a
pass, with which the row counts start afresh (log entry 19). -/
def scrubRead (s : State) (line : Nat) (obs : CheckResult) : State :=
  let off := line * 128
  let owned := match dirRec s line with | some r => r.owned | none => false
  if !bitOf s MEM_SCRUB_CFG 8 || !(inLoft s off || inCellar s off) || (lctl s line).active.isSome || owned ||
      !deviceUp s (deviceOf s off) then s
  else
    let s := ev s (1576 + 8 * deviceOf s off + 5) 1
    let store := 2 + storeOf off
    let s := match obs with
      | .clean => s
      | .corrected dev row => correctedError s line dev.val row
      | .uncorrectable dev =>
        let s := errLast (ev (bump64 s (MEM_UE_COUNT dev.val) 1) (1576 + 8 * dev.val + 4) 1) off 1 dev.val
        lineFault (poisonAndForget s line) 0x0402 2 line dev.val 0 0
      | .tagFail =>
        let s := errLast (ev (bump64 s MEM_INTEG_FAIL 1) 1672 1) off 2 (deviceOf s off)
        lineFault (poisonAndForget s line) 0x0403 2 line (deviceOf s off) 0 0
      | .counterFail level counterLine =>
        let s := errLast (ev (bump64 s MEM_SEAL_FAIL 1) 1673 1) off 3 (deviceOf s off)
        fault (sealFail s line level) 0x0404 2 store (agentEpc s off) (det [(16, 4, counterLine), (20, 1, level)])
    if inCellar s off && !inCellar s (off + 128) then
      let s := setFld s MEM_SCRUB_STATUS 15 0 (fldOf s MEM_SCRUB_STATUS 15 0 + 1)
      { s with homes := { s.homes with rowErrs := [] } }
    else s

/-- PATROL_SCRUB_READ. -/
def execPatrolScrubRead (line : Nat) (obs : CheckResult) (s : State) : Host.Outcome State Fault Refusal :=
  .next (event s fun s => scrubRead s line obs)

end Sys2Proof.Machine
end

