-- ==== Sys2Proof/Machine/ExecHost.lean ====
section
/-! DEFINITION. Meanings: the host ports (chapter 16). -/

namespace Sys2Proof.Machine

/-- A transaction of the host on its link: it ends Poise and Hush (R422). -/
def hostDoes (s : State) (j : Nat) (f : State → State) : State := if linkUp s j then f (wakeRun (hostBusy s)) else s

/-- A packet that has reached a host port: a COLL_COUNT becomes notices (R456), another is served or refused by R454. -/
def hostTakes (s : State) (d : Delivered) : State :=
  if d.pkt.opcode = opCOLL_COUNT then
    match hostOf s d.pkt.dest with
    | some j => hostCount s j d.pkt
    | none => s
  else inboundRequest s d

/-- BAR2_WRITE (R450). -/
def execBar2Write (j : Fin 2) (fn : Fin 128) (x : BitVec 38) (data : List Byte) (s : State) : Host.Outcome State Fault Refusal :=
  .next (event s fun s => hostDoes s j fun s => bar2 s j fn x.toNat data.length (some data))

/-- BAR2_READ (R450). -/
def execBar2Read (j : Fin 2) (fn : Fin 128) (x : BitVec 38) (len : Nat) (s : State) : Host.Outcome State Fault Refusal :=
  .next (event s fun s => hostDoes s j fun s => bar2 s j fn x.toNat len none)

/-- BAR2_FETCHADD (R450): ATOMIC ADD_INT. -/
def execBar2Fetchadd (j : Fin 2) (fn : Fin 128) (x : BitVec 38) (size : Nat) (operand : BitVec 128) (s : State) : Host.Outcome State Fault Refusal :=
  .next (event s fun s => hostDoes s j fun s => bar2Atomic s j fn x.toNat size 0 operand 0 fun s => hostTlpErr s j false)

/-- BAR2_SWAP (R450): ATOMIC SWAP. -/
def execBar2Swap (j : Fin 2) (fn : Fin 128) (x : BitVec 38) (size : Nat) (operand : BitVec 128) (s : State) : Host.Outcome State Fault Refusal :=
  .next (event s fun s => hostDoes s j fun s => bar2Atomic s j fn x.toNat size 7 operand 0 fun s => hostTlpErr s j false)

/-- BAR2_CAS (R450): ATOMIC CAS. -/
def execBar2Cas (j : Fin 2) (fn : Fin 128) (x : BitVec 38) (size : Nat) (compare operand : BitVec 128) (s : State) : Host.Outcome State Fault Refusal :=
  .next (event s fun s => hostDoes s j fun s => bar2Atomic s j fn x.toNat size 8 operand compare fun s => hostTlpErr s j false)

/-- HOST_INBOUND_REQUEST (R454, R456). -/
def execHostInboundRequest (d : Delivered) (s : State) : Host.Outcome State Fault Refusal := .next (takenBy s d hostTakes)

/-- HOST_DMA_COMPLETE (R454). -/
def execHostDmaComplete (j : Fin 2) (n : Nat) (data : List Byte) (s : State) : Host.Outcome State Fault Refusal :=
  .next (event s fun s => hostDoes s j fun s => dmaComplete s j n data)

/-- HOST_DMA_TIMEOUT (R454). -/
def execHostDmaTimeout (j : Fin 2) (n : Nat) (s : State) : Host.Outcome State Fault Refusal := .next (event s fun s => dmaTimeout s j n)

/-- MSIX_HOLDOFF_END (R457). -/
def execMsixHoldoffEnd (j : Fin 2) (fn : Fin 128) (vec : Fin 4) (s : State) : Host.Outcome State Fault Refusal :=
  .next (event s fun s => msixHoldoff s j fn vec)

/-- VF_ENABLE (R446). -/
def execVfEnable (j : Fin 2) (on : Bool) (numVfs : BitVec 7) (s : State) : Host.Outcome State Fault Refusal :=
  .next (event s fun s => hostDoes s j fun s => vfEnable s j on numVfs.toNat)

/-- HOST_PERST (R458). -/
def execHostPerst (j : Fin 2) (s : State) : Host.Outcome State Fault Refusal := .next (event s fun s => hostPerst s j)

/-- HOST_LINK_DOWN (R458). -/
def execHostLinkDown (j : Fin 2) (s : State) : Host.Outcome State Fault Refusal := .next (event s fun s => hostLinkDown s j)

/-- HOST_LINK_UP (R444). -/
def execHostLinkUp (j : Fin 2) (rate : BitVec 3) (width : BitVec 4) (s : State) : Host.Outcome State Fault Refusal :=
  .next (event s fun s => wakeRun (hostLinkUp s j rate.toNat width.toNat))

/-- HOST_TLP_ERR (R458). -/
def execHostTlpErr (j : Fin 2) (poisoned : Bool) (s : State) : Host.Outcome State Fault Refusal :=
  .next (event s fun s => hostDoes s j fun s => hostTlpErr s j poisoned)

end Sys2Proof.Machine
end

