-- ==== Sys2Proof/Machine/ExecLink.lean ====
section
/-! DEFINITION. Meanings: lanes, ports and flits (chapters 3 and 4). -/

namespace Sys2Proof.Machine

/-- FLIT_RECEIVE (R100). -/
def execFlitReceive (p : PortNo) (f : Flit) (flagged : Bool) (s : State) : Host.Outcome State Fault Refusal :=
  .next (event s fun s => receiveFlit s p f flagged)

/-- ACK_TIMEOUT_REPLAY (R102). -/
def execAckTimeoutReplay (p : PortNo) (s : State) : Host.Outcome State Fault Refusal := .next (event s fun s => ackTimeout s p)

/-- CODEWORD_DECODE (R68). -/
def execCodewordDecode (n : LaneNo) (errA errB : Nat) (burst : Bool) (s : State) : Host.Outcome State Fault Refusal :=
  .next (event s fun s => decodePair s n errA errB burst)

/-- FEC_LOCK (R70). -/
def execFecLock (n : LaneNo) (s : State) : Host.Outcome State Fault Refusal := .next (event s fun s => fecLocked s n)

/-- BLOCK_LOCK (R70). -/
def execBlockLock (n : LaneNo) (s : State) : Host.Outcome State Fault Refusal := .next (event s fun s => blockLocked s n)

/-- SUPERFRAME_LOCK (R70). -/
def execSuperframeLock (n : LaneNo) (s : State) : Host.Outcome State Fault Refusal := .next (event s fun s => sfLocked s n)

/-- LOSS_OF_LOCK (R84). -/
def execLossOfLock (n : LaneNo) (s : State) : Host.Outcome State Fault Refusal := .next (event s fun s => losesLock s n)

/-- QUAR_RECEIVE (R87). -/
def execQuarReceive (n : LaneNo) (seconds : BitVec 24) (s : State) : Host.Outcome State Fault Refusal :=
  .next (event s fun s => quarReceived s n seconds.toNat)

/-- QUARANTINE_END (R86). -/
def execQuarantineEnd (n : LaneNo) (s : State) : Host.Outcome State Fault Refusal := .next (event s fun s => quarantineEnds s n)

/-- QUARANTINE_LEVEL_RESET (R86). -/
def execQuarantineLevelReset (n : LaneNo) (s : State) : Host.Outcome State Fault Refusal := .next (event s fun s => levelReset s n)

/-- LANE_DETECT (R73). -/
def execLaneDetect (n : LaneNo) (s : State) : Host.Outcome State Fault Refusal := .next (event s fun s => laneDetected s n)

/-- CAP_BLOCK_ACCEPT (R77). -/
def execCapBlockAccept (n : LaneNo) (set1 set2 : BitVec 384) (s : State) : Host.Outcome State Fault Refusal :=
  .next (event s fun s => capSets s n set1 set2)

/-- EQUALISE_DONE (R73). -/
def execEqualiseDone (n : LaneNo) (s : State) : Host.Outcome State Fault Refusal := .next (event s fun s => equalised s n)

/-- VERIFY_DONE (R73). -/
def execVerifyDone (n : LaneNo) (ok : Bool) (s : State) : Host.Outcome State Fault Refusal := .next (event s fun s => verified s n ok)

/-- TRAINING_PHASE_TIMEOUT (R73). -/
def execTrainingPhaseTimeout (n : LaneNo) (s : State) : Host.Outcome State Fault Refusal := .next (event s fun s => phaseTimeout s n)

/-- STEP_ADVANCE (R74). -/
def execStepAdvance (n : LaneNo) (s : State) : Host.Outcome State Fault Refusal := .next (event s fun s => stepAdvances s n)

/-- LANE_RESTART (R76). -/
def execLaneRestart (n : LaneNo) (s : State) : Host.Outcome State Fault Refusal := .next (event s fun s => laneRestarts s n)

/-- PORT_ENTER_SERVICE (R79). -/
def execPortEnterService (p : PortNo) (skewUi : Nat) (s : State) : Host.Outcome State Fault Refusal :=
  .next (event s fun s => checked s p skewUi)

/-- CHECKING_RETRY (R79). -/
def execCheckingRetry (p : PortNo) (s : State) : Host.Outcome State Fault Refusal := .next (event s fun s => checkingAgain s p)

/-- MANUAL_ALIGN_TIMEOUT (R80). -/
def execManualAlignTimeout (n : LaneNo) (s : State) : Host.Outcome State Fault Refusal := .next (event s fun s => manualTimeout s n)

/-- IDLE_ENTRY (R81). -/
def execIdleEntry (p : PortNo) (s : State) : Host.Outcome State Fault Refusal := .next (event s fun s => idleEnters s p)

/-- EI_ENTER_RECEIVE (R81). -/
def execEiEnterReceive (n : LaneNo) (s : State) : Host.Outcome State Fault Refusal := .next (event s fun s => idleHeard s n)

/-- IDLE_EXIT (R82). -/
def execIdleExit (p : PortNo) (s : State) : Host.Outcome State Fault Refusal := .next (event s fun s => idleExits s p)

/-- TRAINING_BURST_RECEIVE (R82). -/
def execTrainingBurstReceive (n : LaneNo) (s : State) : Host.Outcome State Fault Refusal := .next (event s fun s => burstHeard s n)

/-- IDLE_EXIT_FAIL (R82). -/
def execIdleExitFail (n : LaneNo) (s : State) : Host.Outcome State Fault Refusal := .next (event s fun s => idleExitFails s n)

/-- WIDTH_RECEIVE (R83). -/
def execWidthReceive (p : PortNo) (sq mask : Byte) (boundary : BitVec 24) (s : State) : Host.Outcome State Fault Refusal :=
  .next (event s fun s => widthHeard s p sq mask boundary)

/-- WIDTH_APPLY (R83). -/
def execWidthApply (p : PortNo) (s : State) : Host.Outcome State Fault Refusal := .next (event s fun s => widthApplies s p)

/-- TWIN_PORT_RETURN (R88). -/
def execTwinPortReturn (s : State) : Host.Outcome State Fault Refusal := .next (event s fun s => twinReturns s)

/-- EYE_SEARCH_DONE (R90). -/
def execEyeSearchDone (n : LaneNo) (width height : Byte) (eye : BitVec 2) (s : State) : Host.Outcome State Fault Refusal :=
  .next (event s fun s => eyeSearched s n width.toNat height.toNat eye.toNat)

/-- EYE_MANUAL_DONE (R90). -/
def execEyeManualDone (n : LaneNo) (count : BitVec 64) (s : State) : Host.Outcome State Fault Refusal :=
  .next (event s fun s => eyeCounted s n count.toNat)

/-- OPTICAL_REFRESH (R91). -/
def execOpticalRefresh (n : LaneNo) (rxPwr txOma bias laserIn : BitVec 16) (s : State) : Host.Outcome State Fault Refusal :=
  .next (event s fun s => opticalRead s n rxPwr.toNat txOma.toNat bias.toNat laserIn.toNat)

/-- SUPPLY_DROOP (R91). -/
def execSupplyDroop (die site : Fin 4) (mv margin : BitVec 12) (s : State) : Host.Outcome State Fault Refusal :=
  .next (event s fun s => droopSeen s die site mv.toNat margin.toNat)

end Sys2Proof.Machine
end

