-- ==== Sys2Proof/Machine/ExecPwr.lean ====
section
/-! DEFINITION. Meanings: power, clocks, reset, start-up and memory devices (chapters 8 and 15). -/

namespace Sys2Proof.Machine

/-- MEM_TRAINING_DONE (R242). -/
def execMemTrainingDone (dev : Fin 12) (ok stored : Bool) (s : State) : Host.Outcome State Fault Refusal :=
  .next (event s fun s => trainingDone s dev ok stored)

/-- MEM_DEVICE_LOST (R243). -/
def execMemDeviceLost (dev : Fin 12) (s : State) : Host.Outcome State Fault Refusal := .next (event s fun s => memLost s dev)

/-- POISON_MARKING_DONE (R240). -/
def execPoisonMarkingDone (cellar : Bool) (s : State) : Host.Outcome State Fault Refusal := .next (event s fun s => markingDone s cellar)

/-- EVAC_RESTORE_DONE (R241). -/
def execEvacRestoreDone (region : Fin 16384) (s : State) : Host.Outcome State Fault Refusal :=
  .next (event s fun s => evacRestored s region)

/-- DIE_LOST (R61). -/
def execDieLost (die : Die) (s : State) : Host.Outcome State Fault Refusal := .next (event s fun s => dieLost s die)

/-- WAKE (R422). -/
def execWake (e : WakeEvent) (s : State) : Host.Outcome State Fault Refusal := .next (event s fun s => wakeEvent s e)

/-- POWER_STATE_ENTERED (R425). -/
def execPowerStateEntered (s : State) : Host.Outcome State Fault Refusal := .next (event s fun s => stateEntered s)

/-- STILL_EXIT (R426). -/
def execStillExit (e : WakeEvent) (s : State) : Host.Outcome State Fault Refusal :=
  .next (event s fun s => if deepWake e then stillExit s else s)

/-- VIGIL_EXIT (R427). -/
def execVigilExit (e : WakeEvent) (s : State) : Host.Outcome State Fault Refusal :=
  .next (event s fun s => if deepWake e then vigilExit s else s)

/-- POISE_ENTRY (R423). -/
def execPoiseEntry (s : State) : Host.Outcome State Fault Refusal := .next (event s fun s => poiseEntry s)

/-- HUSH_ENTRY (R423). -/
def execHushEntry (s : State) : Host.Outcome State Fault Refusal := .next (event s fun s => hushEntry s)

/-- POWER_ON_RESET (R438). -/
def execPowerOnReset (s : State) : Host.Outcome State Fault Refusal := .next (aside s powerOn)

/-- INTERNAL_DOMAIN_RESET (R438). -/
def execInternalDomainReset (d : Domain) (s : State) : Host.Outcome State Fault Refusal := .next (event s fun s => domainReset s d)

/-- CROSSING_RESUME (R437). -/
def execCrossingResume (d : Domain) (s : State) : Host.Outcome State Fault Refusal := .next (event s fun s => crossingResume s d)

/-- CAP_CONTROL (R428). -/
def execCapControl (watts : BitVec 16) (s : State) : Host.Outcome State Fault Refusal := .next (event s fun s => capControl s watts.toNat)

/-- CAP_LOW_ASSERT (R429): the assertion is accepted, if it is not yet, and the throttle acts. -/
def execCapLowAssert (s : State) : Host.Outcome State Fault Refusal := .next (event s fun s => throttleOn (inputAccept s .capLow true))

/-- CAP_LOW_RELEASE (R430): the release is accepted, if it is not yet, and the throttle ends. -/
def execCapLowRelease (s : State) : Host.Outcome State Fault Refusal := .next (event s fun s => throttleOff (inputAccept s .capLow false))

/-- INPUT_ACCEPT (R432). -/
def execInputAccept (i : Sys2Proof.Input) (active : Bool) (s : State) : Host.Outcome State Fault Refusal := .next (aside s fun s => inputAccept s i active)

/-- INPUT_STUCK (R433). -/
def execInputStuck (i : Sys2Proof.Input) (s : State) : Host.Outcome State Fault Refusal := .next (aside s fun s => if s.pwr.off then s else inputStuck s i)

/-- DAMPING_END (R434). -/
def execDampingEnd (i : Sys2Proof.Input) (s : State) : Host.Outcome State Fault Refusal := .next (aside s fun s => if s.pwr.off then s else dampingEnd s i)

/-- THERMAL_TRIP (R439). -/
def execThermalTrip (die : Die) (s : State) : Host.Outcome State Fault Refusal := .next (event s fun s => thermalTrip s die)

/-- THERMAL_RESTART (R439). -/
def execThermalRestart (s : State) : Host.Outcome State Fault Refusal := .next (aside s fun s => if s.pwr.off then s else thermalRestart s)

/-- PHASE_END (R440). -/
def execPhaseEnd (s : State) : Host.Outcome State Fault Refusal := .next (event s fun s => phaseEnd s)

/-- STARTUP_LATE (R441). -/
def execStartupLate (s : State) : Host.Outcome State Fault Refusal := .next (event s fun s => startupLate s)

/-- UNDERVOLTAGE_LOCKOUT (R488). -/
def execUndervoltageLockout (s : State) : Host.Outcome State Fault Refusal := .next (aside s fun s => if s.pwr.off then s else switchOff s)

/-- OVERVOLTAGE_LOCKOUT (R488). -/
def execOvervoltageLockout (s : State) : Host.Outcome State Fault Refusal := .next (aside s fun s => if s.pwr.off then s else switchOff s)

end Sys2Proof.Machine
end

