-- ==== Sys2Proof/Machine/ExecReg.lean ====
section
/-! DEFINITION. Meanings: accesses of the module register space (R7-R18, R45, R375, R460) and the commands that a path gives by writing a register. -/

namespace Sys2Proof.Machine

/-- An access by a path: none reaches the module in Off; with the power stages off it reaches the always-on island alone. -/
def access (s : State) (f : State → State) : State :=
  if s.pwr.off then s else aside s fun s => if s.pwr.dark then f s else progress (f s)

/-- REG_READ at Unit 31: a word or two of the register window (R45). Offset bits [39:26] must be zero. -/
def windowRead (s : State) (d : Delivered) : State :=
  let p := d.pkt
  if 2 ^ 26 ≤ p.offset then respond s p stNOREGION 0 0 0 []
  else
    let r := mrsRead s (.window p.src) p.offset (2 ^ p.asize)
    if r.2.2 then respond r.2.1 p stPARTITION 0 0 0 [] else respond r.2.1 p stOK 0 0 0 (leBytes (2 ^ p.asize) r.1)

/-- REG_WRITE at Unit 31 (R45). A duplicate of one performed is only checked again (R119). -/
def windowWrite (s : State) (d : Delivered) : State :=
  let p := d.pkt
  if 2 ^ 26 ≤ p.offset then respond s p stNOREGION 0 0 0 []
  else
    let r := mrsWrite s (.window p.src) p.offset (2 ^ p.asize) (leAt p.payload 0 (2 ^ p.asize))
    let s := if d.dup then s else r.1
    respond s p (if r.2 then stPARTITION else stOK) 0 0 0 []

/-- REGISTER_WRITE (R7-R12). -/
def execRegisterWrite (path : Path) (off : BitVec 26) (size : Nat) (val : BitVec 64) (s : State) : Host.Outcome State Fault Refusal :=
  .next (access s fun s => pathWrite s path off.toNat size val.toNat)

/-- REGISTER_READ (R8, R18). -/
def execRegisterRead (path : Path) (off : BitVec 26) (size : Nat) (s : State) : Host.Outcome State Fault Refusal :=
  .next (access s fun s => pathRead s path off.toNat size)

/-- REG_READ (R45). -/
def execRegRead (d : Delivered) (s : State) : Host.Outcome State Fault Refusal := .next (taken s d opREG_READ windowRead)

/-- REG_WRITE (R45). -/
def execRegWrite (d : Delivered) (s : State) : Host.Outcome State Fault Refusal := .next (taken s d opREG_WRITE windowWrite)

/-- LANE_ALIGN_MANUAL (R80): a write of LNK_LANE_ALIGN.MANUAL. -/
def execLaneAlignManual (path : Path) (n : LaneNo) (on : Bool) (s : State) : Host.Outcome State Fault Refusal :=
  .next (access s fun s => pathWrite s path (LNK_LANE_ALIGN n) 4 (b2n on))

/-- SLIP (R80): a write of LNK_LANE_ALIGN.SLIP that leaves MANUAL as it is. -/
def execSlip (path : Path) (n : LaneNo) (s : State) : Host.Outcome State Fault Refusal :=
  .next (access s fun s => pathWrite s path (LNK_LANE_ALIGN n) 4 (2 + fldOf s (LNK_LANE_ALIGN n) 0 0))

/-- EYE_CTRL_WRITE (R90). -/
def execEyeCtrlWrite (path : Path) (n : LaneNo) (val : Word) (s : State) : Host.Outcome State Fault Refusal :=
  .next (access s fun s => pathWrite s path (LNK_LANE_EYE_CTRL n) 4 val.toNat)

/-- DROOP_RESET_MIN (R91). -/
def execDroopResetMin (path : Path) (die site : Fin 4) (s : State) : Host.Outcome State Fault Refusal :=
  .next (access s fun s => pathWrite s path (LNK_DROOP die site) 4 (2 ^ 31))

/-- RETRAIN (R92). -/
def execRetrain (path : Path) (p : PortNo) (s : State) : Host.Outcome State Fault Refusal :=
  .next (access s fun s => pathWrite s path (LNK_PORT_CMD p) 4 1)

/-- HAL_SEM_ADD (R252). -/
def execHalSemAdd (path : Path) (sem : Fin 256) (val : Word) (s : State) : Host.Outcome State Fault Refusal :=
  .next (access s fun s => pathWrite s path (HAL_SEM_ADD sem) 4 val.toNat)

/-- CTX_START (R283). -/
def execCtxStart (path : Path) (c : Fin 16) (s : State) : Host.Outcome State Fault Refusal :=
  .next (access s fun s => pathWrite s path (HAL_CTX_CTRL c) 4 1)

/-- CTX_STOP (R283). -/
def execCtxStop (path : Path) (c : Fin 16) (s : State) : Host.Outcome State Fault Refusal :=
  .next (access s fun s => pathWrite s path (HAL_CTX_CTRL c) 4 2)

/-- HAL_CTX_LIST_WRITE (R283). -/
def execHalCtxListWrite (path : Path) (c : Fin 16) (va : BitVec 64) (s : State) : Host.Outcome State Fault Refusal :=
  .next (access s fun s => pathWrite s path (HAL_CTX_LIST c) 8 va.toNat)

/-- HANDOFF (R348). -/
def execHandoff (path : Path) (s : State) : Host.Outcome State Fault Refusal :=
  .next (access s fun s => pathWrite s path FLT_TWIN_CMD 4 1)

/-- FLT_QUEUE_POP (R367). -/
def execFltQueuePop (path : Path) (s : State) : Host.Outcome State Fault Refusal :=
  .next (access s fun s => pathWrite s path FLT_QUEUE_POP 4 1)

/-- FLT_RING_TAIL_WRITE (R367). -/
def execFltRingTailWrite (path : Path) (val : Word) (s : State) : Host.Outcome State Fault Refusal :=
  .next (access s fun s => pathWrite s path FLT_RING_TAIL 4 val.toNat)

/-- FLT_OVF_CLEAR (R367). -/
def execFltOvfClear (path : Path) (source : Fin 16) (s : State) : Host.Outcome State Fault Refusal :=
  .next (access s fun s => pathWrite s path (FLT_OVF source) 4 (2 ^ 24))

/-- WINDOW_REQUEST (R371): SEC_W_CMD OP 1. -/
def execWindowRequest (path : Path) (w : Fin 5) (count : Byte) (s : State) : Host.Outcome State Fault Refusal :=
  .next (access s fun s => pathWrite s path (SEC_W_CMD w) 4 (1 + 4 * count.toNat))

/-- LOCKET_REQUEST (R381): SEC_W_CMD OP 2. -/
def execLocketRequest (path : Path) (w : Fin 5) (partScope : Bool) (partition : Byte) (s : State) : Host.Outcome State Fault Refusal :=
  .next (access s fun s => pathWrite s path (SEC_W_CMD w) 4 (2 + 2 ^ 10 * b2n partScope + 2 ^ 11 * partition.toNat))

/-- KEY_GRANT (R391): SEC_W_CMD OP 3. -/
def execKeyGrant (path : Path) (w : Fin 5) (s : State) : Host.Outcome State Fault Refusal :=
  .next (access s fun s => pathWrite s path (SEC_W_CMD w) 4 3)

/-- STAGE (R408). -/
def execStage (path : Path) (s : State) : Host.Outcome State Fault Refusal := .next (access s fun s => pathWrite s path CFG_CMD 4 1)

/-- STAGE_FW (R409). -/
def execStageFw (path : Path) (annex : Bool) (s : State) : Host.Outcome State Fault Refusal :=
  .next (access s fun s => pathWrite s path CFG_CMD 4 (7 + 16 * b2n annex))

/-- COMMIT (R410). -/
def execCommit (path : Path) (reset : Bool) (s : State) : Host.Outcome State Fault Refusal :=
  .next (access s fun s => pathWrite s path CFG_CMD 4 (2 + 8 * b2n reset))

/-- CONFIRM (R413). -/
def execConfirm (path : Path) (s : State) : Host.Outcome State Fault Refusal := .next (access s fun s => pathWrite s path CFG_CMD 4 3)

/-- RETURN (R415). -/
def execReturnCmd (path : Path) (s : State) : Host.Outcome State Fault Refusal := .next (access s fun s => pathWrite s path CFG_CMD 4 4)

/-- READ_SUMMARY (R418). -/
def execReadSummary (path : Path) (s : State) : Host.Outcome State Fault Refusal := .next (access s fun s => pathWrite s path CFG_CMD 4 5)

/-- CLEAR_SUMMARY (R418). -/
def execClearSummary (path : Path) (s : State) : Host.Outcome State Fault Refusal :=
  .next (access s fun s => pathWrite s path CFG_CMD 4 6)

/-- PWR_CMD_RUN (R422). -/
def execPwrCmdRun (path : Path) (s : State) : Host.Outcome State Fault Refusal := .next (access s fun s => pathWrite s path PWR_CMD 4 1)

/-- ENTER_STILL (R425). -/
def execEnterStill (path : Path) (s : State) : Host.Outcome State Fault Refusal := .next (access s fun s => pathWrite s path PWR_CMD 4 3)

/-- ENTER_VIGIL (R425). -/
def execEnterVigil (path : Path) (s : State) : Host.Outcome State Fault Refusal := .next (access s fun s => pathWrite s path PWR_CMD 4 4)

/-- MODULE_RESET (R438). -/
def execModuleReset (path : Path) (s : State) : Host.Outcome State Fault Refusal := .next (access s fun s => pathWrite s path PWR_CMD 4 8)

/-- PWR_CAP_WRITE (R428). -/
def execPwrCapWrite (path : Path) (watts : BitVec 16) (s : State) : Host.Outcome State Fault Refusal :=
  .next (access s fun s => pathWrite s path PWR_CAP 4 watts.toNat)

/-- HST_AP_BASE_WRITE (R449). -/
def execHstApBaseWrite (path : Path) (j : Fin 2) (fn : Fin 128) (a : Fin 4) (val : BitVec 64) (s : State) : Host.Outcome State Fault Refusal :=
  .next (access s fun s => pathWrite s path (HST_AP_BASE j fn a) 8 val.toNat)

/-- HST_AP_CTRL_WRITE (R449). -/
def execHstApCtrlWrite (path : Path) (j : Fin 2) (fn : Fin 128) (a : Fin 4) (val : Word) (s : State) : Host.Outcome State Fault Refusal :=
  .next (access s fun s => pathWrite s path (HST_AP_CTRL j fn a) 4 val.toNat)

/-- HST_FN_FENCE (R453). -/
def execHstFnFence (path : Path) (j : Fin 2) (fn : Fin 128) (s : State) : Host.Outcome State Fault Refusal :=
  .next (access s fun s => pathWrite s path (HST_FN_FENCE j fn) 4 1)

/-- HOST_NOTE_TAIL_WRITE (R466). -/
def execHostNoteTailWrite (path : Path) (j : Fin 2) (fn : Fin 128) (val : Word) (s : State) : Host.Outcome State Fault Refusal :=
  .next (access s fun s => pathWrite s path (HST_FN_NOTE_TAIL j fn) 4 val.toNat)

/-- I3C_READ4 (R460). -/
def execI3cRead4 (off : Word) (s : State) : Host.Outcome State Fault Refusal := .next (access s fun s => pathRead s .i3c off.toNat 4)

/-- I3C_READ8 (R460). -/
def execI3cRead8 (off : Word) (s : State) : Host.Outcome State Fault Refusal := .next (access s fun s => pathRead s .i3c off.toNat 8)

/-- I3C_WRITE4 (R460). -/
def execI3cWrite4 (off : Word) (val : Word) (s : State) : Host.Outcome State Fault Refusal :=
  .next (access s fun s => pathWrite s .i3c off.toNat 4 val.toNat)

/-- I3C_WRITE8 (R460). -/
def execI3cWrite8 (off : Word) (val : BitVec 64) (s : State) : Host.Outcome State Fault Refusal :=
  .next (access s fun s => pathWrite s .i3c off.toNat 8 val.toNat)

/-- I3C_ADDRESS_ASSIGN (R460). -/
def execI3cAddressAssign (addr : BitVec 7) (s : State) : Host.Outcome State Fault Refusal :=
  .next (if s.pwr.off then s else { s with hosts := { s.hosts with i3cAddr := addr } })

/-- LOCAL_COUNTER_READ (R443). -/
def execLocalCounterRead (path : Path) (s : State) : Host.Outcome State Fault Refusal :=
  .next (access s fun s => pathRead s path PWR_COUNTER 4)

/-- CNT_SNAP (R473). -/
def execCntSnap (path : Path) (mask : BitVec 64) (s : State) : Host.Outcome State Fault Refusal :=
  .next (access s fun s => pathWrite s path CNT_SNAP 8 mask.toNat)

/-- CLEAR (R472): CNT_CMD CLEAR. -/
def execClear (path : Path) (event : BitVec 12) (s : State) : Host.Outcome State Fault Refusal :=
  .next (access s fun s => pathWrite s path CNT_CMD 4 (1 + 4 * event.toNat))

/-- CLEAR_ALL (R472): CNT_CMD CLEAR_ALL. -/
def execClearAll (path : Path) (s : State) : Host.Outcome State Fault Refusal := .next (access s fun s => pathWrite s path CNT_CMD 4 2)

/-- CNT_CHAIN_WRITE (R471). -/
def execCntChainWrite (path : Path) (w : Fin 48) (val : Word) (s : State) : Host.Outcome State Fault Refusal :=
  .next (access s fun s => pathWrite s path (CNT_CHAIN w) 4 val.toNat)

/-- SLOT_EVENT_WRITE (R474). -/
def execSlotEventWrite (path : Path) (slot : Fin 64) (event : BitVec 12) (s : State) : Host.Outcome State Fault Refusal :=
  .next (access s fun s => pathWrite s path (CNT_SLOT_CFG slot) 4 event.toNat)

/-- LIVE_READ (R470). -/
def execLiveRead (path : Path) (slot : Fin 64) (size : Nat) (s : State) : Host.Outcome State Fault Refusal :=
  .next (access s fun s => pathRead s path (CNT_LIVE slot) size)

end Sys2Proof.Machine
end

