-- ==== Sys2Proof/Machine/ExecRes.lean ====
section
/-! DEFINITION. Meanings: resilience (chapter 12). -/

namespace Sys2Proof.Machine

/-- The handoff is complete; regions handed over before a reset are noted for the alias check (R349). -/
def handoffOver (s : State) : State :=
  if !s.res.twin.handingOff then s
  else
    let s := handoffComplete s
    if s.res.twin.handingOff then s
    else
      let s := if s.pwr.target = 5 || s.pwr.target = 6 then setPwr s { s.pwr with handedOver := true } else s
      pwrProgress s

/-- TWIN_CONFIRM_TIMEOUT (R341). -/
def execTwinConfirmTimeout (s : State) : Host.Outcome State Fault Refusal := .next (event s fun s => confirmTimeout s)

/-- TAKEOVER_DIRECTORY_LOADED (R342). -/
def execTakeoverDirectoryLoaded (s : State) : Host.Outcome State Fault Refusal := .next (event s fun s => takeoverLoaded s)

/-- ALIAS_BROADCAST (R344). -/
def execAliasBroadcast (s : State) : Host.Outcome State Fault Refusal := .next (event s fun s => aliasDue s)

/-- HANDOFF_COMPLETE (R348): the twin serves the regions; an entry or a reset that waited goes on (R425, R438). -/
def execHandoffComplete (s : State) : Host.Outcome State Fault Refusal := .next (event s fun s => handoffOver s)

/-- TWIN_HANDOFF_RECEIVE (R342, R348). -/
def execTwinHandoffReceive (s : State) : Host.Outcome State Fault Refusal := .next (event s fun s => handoffReceived s)

/-- RESYNC_DONE (R350). -/
def execResyncDone (s : State) : Host.Outcome State Fault Refusal := .next (event s fun s => resyncDone s)

/-- RESYNC_SIGNAL_RECEIVE (R342). -/
def execResyncSignalReceive (started : Bool) (s : State) : Host.Outcome State Fault Refusal :=
  .next (event s fun s => setTwin s { s.res.twin with peerResync := started })

/-- TWIN_DIGEST_RECEIVE (R237). -/
def execTwinDigestReceive (digest : BitVec 256) (s : State) : Host.Outcome State Fault Refusal :=
  .next (event s fun s => takeDigest s digest)

/-- WINDOW_EVALUATE (R354). -/
def execWindowEvaluate (s : State) : Host.Outcome State Fault Refusal := .next (event s fun s => windowEvaluate s)

/-- FAULT_QUEUE_DRAIN (R362). -/
def execFaultQueueDrain (s : State) : Host.Outcome State Fault Refusal := .next (event s fun s => queueDrain s)

/-- RING_WRITE_RETRY (R362). -/
def execRingWriteRetry (s : State) : Host.Outcome State Fault Refusal := .next (event s fun s => ringRetry s)

/-- FAULT_SUMMARY_WRITE (R365). -/
def execFaultSummaryWrite (s : State) : Host.Outcome State Fault Refusal := .next (event s fun s => summaryWrite s)

end Sys2Proof.Machine
end

