-- ==== Sys2Proof/Machine/ExecSec.lean ====
section
/-! DEFINITION. Meanings: security (chapter 13). -/

namespace Sys2Proof.Machine

/-- CLASP_REQUEST_VALIDATED (R372). -/
def execClaspRequestValidated (s : State) : Host.Outcome State Fault Refusal := .next (event s fun s => validateHead s)

/-- LOCKET_SIGNED (R383). -/
def execLocketSigned (s : State) : Host.Outcome State Fault Refusal := .next (event s fun s => locketSigned s)

/-- LOCKET_RATE_TIMEOUT (R383). -/
def execLocketRateTimeout (w : Fin 5) (s : State) : Host.Outcome State Fault Refusal := .next (event s fun s => locketLate s w)

/-- KEY_DELIVERY (R393). -/
def execKeyDelivery (s : State) : Host.Outcome State Fault Refusal := .next (event s fun s => deliverKey s)

/-- DEBUG_TOKEN (R394). -/
def execDebugToken (token : List Byte) (s : State) : Host.Outcome State Fault Refusal := .next (event s fun s => debugToken s token)

/-- TWIN_LOCKET_RECEIVE (R388). -/
def execTwinLocketReceive (locket : List Byte) (s : State) : Host.Outcome State Fault Refusal :=
  .next (event s fun s => takeTwinLocket s locket)

/-- TWIN_KEY_RECEIVE (R388). -/
def execTwinKeyReceive (partition : Byte) (held : Bool) (check : BitVec 64) (kemCt wrapped : List Byte) (wtag : BitVec 128) (s : State) : Host.Outcome State Fault Refusal :=
  .next (event s fun s => takeTwinKeys s partition.toNat held check kemCt wrapped wtag)

/-- PARTITION_KEY_TIMEOUT (R389). -/
def execPartitionKeyTimeout (partition : Byte) (s : State) : Host.Outcome State Fault Refusal :=
  .next (event s fun s => keyWaitEnds s partition.toNat)

/-- CLASP_BOOT_STEP (R378). -/
def execClaspBootStep (n : Fin 3) (s : State) : Host.Outcome State Fault Refusal := .next (event s fun s => bootStep s n)

end Sys2Proof.Machine
end

