-- ==== Sys2Proof/Machine/ExecSwitch.lean ====
section
/-! DEFINITION. Meanings: the switch core (chapter 5): arrivals, congestion notes, slots, tokens, telemetry, audits and drains. -/

namespace Sys2Proof.Machine

/-- A TELEMETRY packet at Unit 0 is passed to Annex. -/
def telemetryIn (s : State) (d : Delivered) : State :=
  if isMine s d.pkt.dest && epcUnit d.pkt.dest == 0 then emit s (.mgmtTelemetry d.pkt) else s

/-- PACKET_ARRIVE (R135, R115, R118-R125, R140, R154, R385). -/
def execPacketArrive (ing : Ingress) (p : Packet) (s : State) : Host.Outcome State Fault Refusal :=
  .next (event s fun s => packetArrive s ing p)

/-- CONGESTION_NOTE (R153). -/
def execCongestionNote (p : PortNo) (c : Fin 5) (s : State) : Host.Outcome State Fault Refusal :=
  .next (event s fun s => congestionNote s p c)

/-- TRANSMIT_SLOT (R147). -/
def execTransmitSlot (eg : Egress) (s : State) : Host.Outcome State Fault Refusal := .next (event s fun s => transmitSlot s eg)

/-- C0_TOKEN_GRANT (R148). -/
def execC0TokenGrant (p : PortNo) (s : State) : Host.Outcome State Fault Refusal := .next (event s fun s => takeC0Token s p)

/-- TELEMETRY (R44): a packet to Unit 0 goes to the management agent; no other Unit takes one. -/
def execTelemetry (d : Delivered) (s : State) : Host.Outcome State Fault Refusal := .next (taken s d opTELEMETRY telemetryIn)

/-- ROUTE_ADD_REQUEST (R138). -/
def execRouteAddRequest (p : PortNo) (s : State) : Host.Outcome State Fault Refusal := .next (event s fun s => routeAdd s p)

/-- BUF_AUDIT (R159). -/
def execBufAudit (s : State) : Host.Outcome State Fault Refusal := .next (event s fun s => bufAudit s)

/-- MIRROR_RECORD_DELIVERED (R156). -/
def execMirrorRecordDelivered (s : State) : Host.Outcome State Fault Refusal := .next (event s fun s => mirrorDelivered s)

/-- DRAIN_QUIESCED (R163). -/
def execDrainQuiesced (s : State) : Host.Outcome State Fault Refusal := .next (event s fun s => drainQuiesced s)

/-- DRAIN_SETTLE_END (R163). -/
def execDrainSettleEnd (s : State) : Host.Outcome State Fault Refusal := .next (event s fun s => drainSettled s)

/-- HOLD_QUEUES_EMPTY (R163). -/
def execHoldQueuesEmpty (s : State) : Host.Outcome State Fault Refusal := .next (event s fun s => holdEmpty s)

/-- DRAIN_ABANDON (R163). -/
def execDrainAbandon (s : State) : Host.Outcome State Fault Refusal := .next (event s fun s => drainAbandon s)

end Sys2Proof.Machine
end

