-- ==== Sys2Proof/Machine/Dispatch.lean ====
section
/-! DEFINITION. What each command does: one arm per constructor of Instr, each one direct call of its meaning. -/

namespace Sys2Proof.Machine

def exec (i : Instr) (s : State) : Host.Outcome State Fault Refusal :=
  match i with
  | .registerWrite path off size val => Sys2Proof.Machine.execRegisterWrite path off size val s
  | .packetArrive ing p => Sys2Proof.Machine.execPacketArrive ing p s
  | .congestionNote port cls => Sys2Proof.Machine.execCongestionNote port cls s
  | .transmitSlot eg => Sys2Proof.Machine.execTransmitSlot eg s
  | .c0TokenGrant port => Sys2Proof.Machine.execC0TokenGrant port s
  | .flitReceive port f fecFlagged => Sys2Proof.Machine.execFlitReceive port f fecFlagged s
  | .ackTimeoutReplay port => Sys2Proof.Machine.execAckTimeoutReplay port s
  | .codewordDecode lane errA errB burst => Sys2Proof.Machine.execCodewordDecode lane errA errB burst s
  | .fecLock lane => Sys2Proof.Machine.execFecLock lane s
  | .blockLock lane => Sys2Proof.Machine.execBlockLock lane s
  | .superframeLock lane => Sys2Proof.Machine.execSuperframeLock lane s
  | .lossOfLock lane => Sys2Proof.Machine.execLossOfLock lane s
  | .quarReceive lane seconds => Sys2Proof.Machine.execQuarReceive lane seconds s
  | .quarantineEnd lane => Sys2Proof.Machine.execQuarantineEnd lane s
  | .quarantineLevelReset lane => Sys2Proof.Machine.execQuarantineLevelReset lane s
  | .laneDetect lane => Sys2Proof.Machine.execLaneDetect lane s
  | .capBlockAccept lane set1 set2 => Sys2Proof.Machine.execCapBlockAccept lane set1 set2 s
  | .equaliseDone lane => Sys2Proof.Machine.execEqualiseDone lane s
  | .verifyDone lane ok => Sys2Proof.Machine.execVerifyDone lane ok s
  | .trainingPhaseTimeout lane => Sys2Proof.Machine.execTrainingPhaseTimeout lane s
  | .stepAdvance lane => Sys2Proof.Machine.execStepAdvance lane s
  | .laneRestart lane => Sys2Proof.Machine.execLaneRestart lane s
  | .portEnterService port skewUi => Sys2Proof.Machine.execPortEnterService port skewUi s
  | .checkingRetry port => Sys2Proof.Machine.execCheckingRetry port s
  | .laneAlignManual path lane on => Sys2Proof.Machine.execLaneAlignManual path lane on s
  | .slip path lane => Sys2Proof.Machine.execSlip path lane s
  | .manualAlignTimeout lane => Sys2Proof.Machine.execManualAlignTimeout lane s
  | .idleEntry port => Sys2Proof.Machine.execIdleEntry port s
  | .eiEnterReceive lane => Sys2Proof.Machine.execEiEnterReceive lane s
  | .idleExit port => Sys2Proof.Machine.execIdleExit port s
  | .trainingBurstReceive lane => Sys2Proof.Machine.execTrainingBurstReceive lane s
  | .idleExitFail lane => Sys2Proof.Machine.execIdleExitFail lane s
  | .widthReceive port seq mask boundary => Sys2Proof.Machine.execWidthReceive port seq mask boundary s
  | .widthApply port => Sys2Proof.Machine.execWidthApply port s
  | .twinPortReturn => Sys2Proof.Machine.execTwinPortReturn s
  | .eyeSearchDone lane width height eye => Sys2Proof.Machine.execEyeSearchDone lane width height eye s
  | .eyeManualDone lane count => Sys2Proof.Machine.execEyeManualDone lane count s
  | .eyeCtrlWrite path lane val => Sys2Proof.Machine.execEyeCtrlWrite path lane val s
  | .opticalRefresh lane rxPwr txOma bias laserIn => Sys2Proof.Machine.execOpticalRefresh lane rxPwr txOma bias laserIn s
  | .droopResetMin path die site => Sys2Proof.Machine.execDroopResetMin path die site s
  | .retrain path port => Sys2Proof.Machine.execRetrain path port s
  | .e2eRetryTimeout src dst => Sys2Proof.Machine.execE2eRetryTimeout src dst s
  | .pairClose src dst => Sys2Proof.Machine.execPairClose src dst s
  | .c0RequestTimeout issue => Sys2Proof.Machine.execC0RequestTimeout issue s
  | .deferredResend src dst c0 => Sys2Proof.Machine.execDeferredResend src dst c0 s
  | .flaggedWriteRelease issue => Sys2Proof.Machine.execFlaggedWriteRelease issue s
  | .fenceComplete f => Sys2Proof.Machine.execFenceComplete f s
  | .read d => Sys2Proof.Machine.execRead d s
  | .readVol d => Sys2Proof.Machine.execReadVol d s
  | .write d => Sys2Proof.Machine.execWrite d s
  | .writeMask d => Sys2Proof.Machine.execWriteMask d s
  | .atomic d => Sys2Proof.Machine.execAtomic d s
  | .regRead d => Sys2Proof.Machine.execRegRead d s
  | .regWrite d => Sys2Proof.Machine.execRegWrite d s
  | .takeShared d => Sys2Proof.Machine.execTakeShared d s
  | .takeExcl d => Sys2Proof.Machine.execTakeExcl d s
  | .give d => Sys2Proof.Machine.execGive d s
  | .evictNotice d => Sys2Proof.Machine.execEvictNotice d s
  | .snoopInv d => Sys2Proof.Machine.execSnoopInv d s
  | .fwdShared d => Sys2Proof.Machine.execFwdShared d s
  | .fwdExcl d => Sys2Proof.Machine.execFwdExcl d s
  | .recall d => Sys2Proof.Machine.execRecall d s
  | .comp d => Sys2Proof.Machine.execComp d s
  | .data d => Sys2Proof.Machine.execData d s
  | .compAck d => Sys2Proof.Machine.execCompAck d s
  | .snoopResp d => Sys2Proof.Machine.execSnoopResp d s
  | .snoopData d => Sys2Proof.Machine.execSnoopData d s
  | .collPush d => Sys2Proof.Machine.execCollPush d s
  | .collPartial d => Sys2Proof.Machine.execCollPartial d s
  | .collResult d => Sys2Proof.Machine.execCollResult d s
  | .collA2a d => Sys2Proof.Machine.execCollA2a d s
  | .revoke d => Sys2Proof.Machine.execRevoke d s
  | .streamWrite d => Sys2Proof.Machine.execStreamWrite d s
  | .telemetry d => Sys2Proof.Machine.execTelemetry d s
  | .vote d => Sys2Proof.Machine.execVote d s
  | .committed d => Sys2Proof.Machine.execCommitted d s
  | .arrived d => Sys2Proof.Machine.execArrived d s
  | .release d => Sys2Proof.Machine.execRelease d s
  | .reissue d => Sys2Proof.Machine.execReissue d s
  | .regather d => Sys2Proof.Machine.execRegather d s
  | .a2aEnd d => Sys2Proof.Machine.execA2aEnd d s
  | .a2aCount d => Sys2Proof.Machine.execA2aCount d s
  | .hotRunServe line => Sys2Proof.Machine.execHotRunServe line s
  | .tokenLapse line token => Sys2Proof.Machine.execTokenLapse line token s
  | .snoopResendTimeout line holder => Sys2Proof.Machine.execSnoopResendTimeout line holder s
  | .grantCheckTimeout line member => Sys2Proof.Machine.execGrantCheckTimeout line member s
  | .twinMirrorReceive m => Sys2Proof.Machine.execTwinMirrorReceive m s
  | .twinMirrorAck line => Sys2Proof.Machine.execTwinMirrorAck line s
  | .patrolScrubRead line obs => Sys2Proof.Machine.execPatrolScrubRead line obs s
  | .memTrainingDone dev ok stored => Sys2Proof.Machine.execMemTrainingDone dev ok stored s
  | .memDeviceLost dev => Sys2Proof.Machine.execMemDeviceLost dev s
  | .poisonMarkingDone cellar => Sys2Proof.Machine.execPoisonMarkingDone cellar s
  | .evacRestoreDone region => Sys2Proof.Machine.execEvacRestoreDone region s
  | .dieLost die => Sys2Proof.Machine.execDieLost die s
  | .routeAddRequest port => Sys2Proof.Machine.execRouteAddRequest port s
  | .bufAudit => Sys2Proof.Machine.execBufAudit s
  | .mirrorRecordDelivered => Sys2Proof.Machine.execMirrorRecordDelivered s
  | .drainQuiesced => Sys2Proof.Machine.execDrainQuiesced s
  | .drainSettleEnd => Sys2Proof.Machine.execDrainSettleEnd s
  | .holdQueuesEmpty => Sys2Proof.Machine.execHoldQueuesEmpty s
  | .drainAbandon => Sys2Proof.Machine.execDrainAbandon s
  | .array c => Sys2Proof.Machine.execArray c s
  | .vector c => Sys2Proof.Machine.execVector c s
  | .dmaLoad c => Sys2Proof.Machine.execDmaLoad c s
  | .dmaStore c => Sys2Proof.Machine.execDmaStore c s
  | .dmaCopy c => Sys2Proof.Machine.execDmaCopy c s
  | .dmaTakeS c => Sys2Proof.Machine.execDmaTakeS c s
  | .dmaTakeX c => Sys2Proof.Machine.execDmaTakeX c s
  | .dmaGive c => Sys2Proof.Machine.execDmaGive c s
  | .dmaCupOut c => Sys2Proof.Machine.execDmaCupOut c s
  | .dmaCupIn c => Sys2Proof.Machine.execDmaCupIn c s
  | .dmaAtomic c => Sys2Proof.Machine.execDmaAtomic c s
  | .signal c => Sys2Proof.Machine.execSignal c s
  | .fence c => Sys2Proof.Machine.execFence c s
  | .loop c => Sys2Proof.Machine.execLoop c s
  | .tlbInv c => Sys2Proof.Machine.execTlbInv c s
  | .endCmd c => Sys2Proof.Machine.execEndCmd c s
  | .semaphoreWaitSatisfied c => Sys2Proof.Machine.execSemaphoreWaitSatisfied c s
  | .releasePointReached c => Sys2Proof.Machine.execReleasePointReached c s
  | .commandComplete c id => Sys2Proof.Machine.execCommandComplete c id s
  | .arrayPassEnd residueOk => Sys2Proof.Machine.execArrayPassEnd residueOk s
  | .spillComplete => Sys2Proof.Machine.execSpillComplete s
  | .restoreComplete => Sys2Proof.Machine.execRestoreComplete s
  | .epilogueComplete => Sys2Proof.Machine.execEpilogueComplete s
  | .sliceFrameEnd => Sys2Proof.Machine.execSliceFrameEnd s
  | .translationWalkDone c va => Sys2Proof.Machine.execTranslationWalkDone c va s
  | .halSemAdd path sem val => Sys2Proof.Machine.execHalSemAdd path sem val s
  | .ctxStart path c => Sys2Proof.Machine.execCtxStart path c s
  | .ctxStop path c => Sys2Proof.Machine.execCtxStop path c s
  | .halCtxListWrite path c va => Sys2Proof.Machine.execHalCtxListWrite path c va s
  | .contextConfigApply c => Sys2Proof.Machine.execContextConfigApply c s
  | .groupChangeApply g => Sys2Proof.Machine.execGroupChangeApply g s
  | .groupChangeAbandon g => Sys2Proof.Machine.execGroupChangeAbandon g s
  | .pieceCombineDone g step chunk strand piece ok => Sys2Proof.Machine.execPieceCombineDone g step chunk strand piece ok s
  | .shardRelease g step => Sys2Proof.Machine.execShardRelease g step s
  | .reissueTimeout g step chunk strand => Sys2Proof.Machine.execReissueTimeout g step chunk strand s
  | .voteTimeout g => Sys2Proof.Machine.execVoteTimeout g s
  | .memberLost g member => Sys2Proof.Machine.execMemberLost g member s
  | .twinConfirmTimeout => Sys2Proof.Machine.execTwinConfirmTimeout s
  | .takeoverDirectoryLoaded => Sys2Proof.Machine.execTakeoverDirectoryLoaded s
  | .aliasBroadcast => Sys2Proof.Machine.execAliasBroadcast s
  | .handoff path => Sys2Proof.Machine.execHandoff path s
  | .handoffComplete => Sys2Proof.Machine.execHandoffComplete s
  | .twinHandoffReceive => Sys2Proof.Machine.execTwinHandoffReceive s
  | .resyncDone => Sys2Proof.Machine.execResyncDone s
  | .windowEvaluate => Sys2Proof.Machine.execWindowEvaluate s
  | .faultQueueDrain => Sys2Proof.Machine.execFaultQueueDrain s
  | .ringWriteRetry => Sys2Proof.Machine.execRingWriteRetry s
  | .faultSummaryWrite => Sys2Proof.Machine.execFaultSummaryWrite s
  | .fltQueuePop path => Sys2Proof.Machine.execFltQueuePop path s
  | .fltRingTailWrite path val => Sys2Proof.Machine.execFltRingTailWrite path val s
  | .fltOvfClear path source => Sys2Proof.Machine.execFltOvfClear path source s
  | .windowRequest path w count => Sys2Proof.Machine.execWindowRequest path w count s
  | .locketRequest path w partScope partition => Sys2Proof.Machine.execLocketRequest path w partScope partition s
  | .keyGrant path w => Sys2Proof.Machine.execKeyGrant path w s
  | .claspRequestValidated => Sys2Proof.Machine.execClaspRequestValidated s
  | .locketSigned => Sys2Proof.Machine.execLocketSigned s
  | .locketRateTimeout w => Sys2Proof.Machine.execLocketRateTimeout w s
  | .keyDelivery => Sys2Proof.Machine.execKeyDelivery s
  | .debugToken token => Sys2Proof.Machine.execDebugToken token s
  | .twinLocketReceive locket => Sys2Proof.Machine.execTwinLocketReceive locket s
  | .twinKeyReceive partition held check kemCt wrapped wtag => Sys2Proof.Machine.execTwinKeyReceive partition held check kemCt wrapped wtag s
  | .partitionKeyTimeout partition => Sys2Proof.Machine.execPartitionKeyTimeout partition s
  | .claspBootStep n => Sys2Proof.Machine.execClaspBootStep n s
  | .stage path => Sys2Proof.Machine.execStage path s
  | .stagingComplete nvmErr => Sys2Proof.Machine.execStagingComplete nvmErr s
  | .stageFw path annex => Sys2Proof.Machine.execStageFw path annex s
  | .commit path reset => Sys2Proof.Machine.execCommit path reset s
  | .commitApply => Sys2Proof.Machine.execCommitApply s
  | .confirm path => Sys2Proof.Machine.execConfirm path s
  | .returnCmd path => Sys2Proof.Machine.execReturnCmd path s
  | .readSummary path => Sys2Proof.Machine.execReadSummary path s
  | .clearSummary path => Sys2Proof.Machine.execClearSummary path s
  | .probationPass => Sys2Proof.Machine.execProbationPass s
  | .probationPortTimeout port => Sys2Proof.Machine.execProbationPortTimeout port s
  | .wake e => Sys2Proof.Machine.execWake e s
  | .pwrCmdRun path => Sys2Proof.Machine.execPwrCmdRun path s
  | .enterStill path => Sys2Proof.Machine.execEnterStill path s
  | .enterVigil path => Sys2Proof.Machine.execEnterVigil path s
  | .powerStateEntered => Sys2Proof.Machine.execPowerStateEntered s
  | .stillExit e => Sys2Proof.Machine.execStillExit e s
  | .vigilExit e => Sys2Proof.Machine.execVigilExit e s
  | .poiseEntry => Sys2Proof.Machine.execPoiseEntry s
  | .hushEntry => Sys2Proof.Machine.execHushEntry s
  | .moduleReset path => Sys2Proof.Machine.execModuleReset path s
  | .powerOnReset => Sys2Proof.Machine.execPowerOnReset s
  | .internalDomainReset d => Sys2Proof.Machine.execInternalDomainReset d s
  | .crossingResume d => Sys2Proof.Machine.execCrossingResume d s
  | .pwrCapWrite path watts => Sys2Proof.Machine.execPwrCapWrite path watts s
  | .capControl watts => Sys2Proof.Machine.execCapControl watts s
  | .capLowAssert => Sys2Proof.Machine.execCapLowAssert s
  | .capLowRelease => Sys2Proof.Machine.execCapLowRelease s
  | .inputAccept input active => Sys2Proof.Machine.execInputAccept input active s
  | .inputStuck input => Sys2Proof.Machine.execInputStuck input s
  | .dampingEnd input => Sys2Proof.Machine.execDampingEnd input s
  | .thermalTrip die => Sys2Proof.Machine.execThermalTrip die s
  | .thermalRestart => Sys2Proof.Machine.execThermalRestart s
  | .phaseEnd => Sys2Proof.Machine.execPhaseEnd s
  | .startupLate => Sys2Proof.Machine.execStartupLate s
  | .undervoltageLockout => Sys2Proof.Machine.execUndervoltageLockout s
  | .overvoltageLockout => Sys2Proof.Machine.execOvervoltageLockout s
  | .bar2Write j fn x data => Sys2Proof.Machine.execBar2Write j fn x data s
  | .bar2Read j fn x len => Sys2Proof.Machine.execBar2Read j fn x len s
  | .bar2Fetchadd j fn x size operand => Sys2Proof.Machine.execBar2Fetchadd j fn x size operand s
  | .bar2Swap j fn x size operand => Sys2Proof.Machine.execBar2Swap j fn x size operand s
  | .bar2Cas j fn x size compare operand => Sys2Proof.Machine.execBar2Cas j fn x size compare operand s
  | .hstApBaseWrite path j fn a val => Sys2Proof.Machine.execHstApBaseWrite path j fn a val s
  | .hstApCtrlWrite path j fn a val => Sys2Proof.Machine.execHstApCtrlWrite path j fn a val s
  | .hstFnFence path j fn => Sys2Proof.Machine.execHstFnFence path j fn s
  | .hostInboundRequest d => Sys2Proof.Machine.execHostInboundRequest d s
  | .hostDmaComplete j n data => Sys2Proof.Machine.execHostDmaComplete j n data s
  | .hostDmaTimeout j n => Sys2Proof.Machine.execHostDmaTimeout j n s
  | .msixHoldoffEnd j fn vec => Sys2Proof.Machine.execMsixHoldoffEnd j fn vec s
  | .vfEnable j on numVfs => Sys2Proof.Machine.execVfEnable j on numVfs s
  | .hostPerst j => Sys2Proof.Machine.execHostPerst j s
  | .hostLinkDown j => Sys2Proof.Machine.execHostLinkDown j s
  | .hostTlpErr j poisoned => Sys2Proof.Machine.execHostTlpErr j poisoned s
  | .hostNoteTailWrite path j fn val => Sys2Proof.Machine.execHostNoteTailWrite path j fn val s
  | .i3cRead4 off => Sys2Proof.Machine.execI3cRead4 off s
  | .i3cRead8 off => Sys2Proof.Machine.execI3cRead8 off s
  | .i3cWrite4 off val => Sys2Proof.Machine.execI3cWrite4 off val s
  | .i3cWrite8 off val => Sys2Proof.Machine.execI3cWrite8 off val s
  | .i3cAddressAssign addr => Sys2Proof.Machine.execI3cAddressAssign addr s
  | .localCounterRead path => Sys2Proof.Machine.execLocalCounterRead path s
  | .cntSnap path mask => Sys2Proof.Machine.execCntSnap path mask s
  | .snapshotCapture slot => Sys2Proof.Machine.execSnapshotCapture slot s
  | .clear path event => Sys2Proof.Machine.execClear path event s
  | .clearAll path => Sys2Proof.Machine.execClearAll path s
  | .cntChainWrite path w val => Sys2Proof.Machine.execCntChainWrite path w val s
  | .slotEventWrite path slot event => Sys2Proof.Machine.execSlotEventWrite path slot event s
  | .liveRead path slot size => Sys2Proof.Machine.execLiveRead path slot size s
  | .registerRead path off size => Sys2Proof.Machine.execRegisterRead path off size s
  | .hostLinkUp j rate width => Sys2Proof.Machine.execHostLinkUp j rate width s
  | .stageFwDone nvmErr => Sys2Proof.Machine.execStageFwDone nvmErr s
  | .summaryOpDone nvmErr => Sys2Proof.Machine.execSummaryOpDone nvmErr s
  | .supplyDroop die site mv margin => Sys2Proof.Machine.execSupplyDroop die site mv margin s
  | .resyncSignalReceive started => Sys2Proof.Machine.execResyncSignalReceive started s
  | .twinDigestReceive digest => Sys2Proof.Machine.execTwinDigestReceive digest s

end Sys2Proof.Machine
end

