-- ==== Sys2Proof/Machine/Time.lean ====
section
/-! DEFINITION. The passing of time (R48): what a step does on an empty queue of commands (log entry 18). -/

namespace Sys2Proof.Machine

/-- Whole cycles of a clock of `num`/`den` GHz in the nanosecond that begins at `now`. -/
def cyclesIn (num den now : Nat) : Nat := (now + 1) * num / den - now * num / den

/-- Events that count nanoseconds (R479): the local counter's own, the power state's, the throttle's and the sheds'. -/
def countNanos (s : State) : State :=
  let s := ev s 0 1
  let s := if pwrState s < 4 then ev s (1 + pwrState s) 1 else s
  forEach [6, 7, 8] s fun s b => if bitOf s PWR_STATUS b then ev s (b - 1) 1 else s

/-- Events that sum something each cycle of the core or of the home agents (R479-R481). -/
def countCycles (s : State) : State :=
  let core := cyclesIn 8 5 s.now
  let home := cyclesIn 6 5 s.now
  let s := if s.sw.stopReserve then ev s 1240 core else s
  let s := ev s 1980 (core * s.sw.held)
  if 2 ≤ pwrState s then s
  else forEach [0, 1] s fun s d =>
    if dieDead s (.store (Fin.ofNat 2 d)) then s
    else
      let s := ev (ev s (1448 + 64 * d + 25) home) (1448 + 64 * d + 16) (home * poolUsed s d)
      if 8192 ≤ poolUsed s d then ev s (1448 + 64 * d + 17) home else s

/-- The conditions of R423 no longer hold, so that their dwell starts afresh. -/
def watchIdle (s : State) : State :=
  if pwrState s = 0 && autoIdle s ≠ 0 && !poiseReady s then setPwr s { s.pwr with idleSince := s.now } else s

/-- One nanosecond passes: the local counter advances, in every state but Off, snapshots due are captured (R473), what counts time counts,
and what waited for a time goes on. Everything else the module does in time is a command of the table, whose meaning looks at the
counter. -/
def tick (s : State) : State :=
  if s.pwr.off then s
  else aside s fun s =>
    let s := captureDue (countCycles (countNanos { s with now := (s.now + 1) % 2 ^ 64 }))
    if s.pwr.dark then s
    else
      let s := progress (watchProbation (pump s))
      let s := if fldOf s PWR_MEASURES 9 2 ≠ 0 then arrayKick s else s
      pwrProgress (watchIdle s)

end Sys2Proof.Machine
end

