-- ==== Sys2Proof/Safety.lean ====
section
/-! DEFINITION. What counts as a safe run (no stop), and what every step keeps to: the stored tables' canonical form, the part, the tape of
outputs, the order of commands. -/

namespace Sys2Proof

open Machine

/-- A run of `n` steps that goes on throughout. -/
def runsOn : Nat → State → Prop
  | 0, _ => True
  | n + 1, s => ∃ t, step s = .next t ∧ runsOn n t

end Sys2Proof

namespace Sys2Proof.Machine

/-- No change of Clasp's or of the configuration is under way, so that an event's effect is its own alone. -/
def settled (s : State) : Prop := s.cfg.job = none ∧ s.sec.applying = []

/-- The sparse stores are in canonical form: keys strictly rising, no entry equal to what an unlisted key reads as. -/
structure State.Canon (s : State) : Prop where
  regs : swf regReset s.regs = true
  lanes : swf (fun _ => ({} : Lane)) s.lanes = true
  links : swf (fun _ => ({} : PortLink)) s.links = true
  mem : Memory.wf s.homes.mem = true
  pantry : Memory.wf s.hall.pantry = true
  ev : swf (fun _ => (0 : BitVec 48)) s.cnt.ev = true

/-- What is fixed in a part at its making: every fuse and key but the counts of debug tokens and firmware floors (R377, R380, R397). -/
structure PartInfo.Same (p q : PartInfo) : Prop where
  member : q.hz7134 = p.hz7134
  step : q.step = p.step
  serial : q.serial = p.serial
  seed : q.seed = p.seed
  fwKeys : q.fwKeys = p.fwKeys
  opKeys : q.opKeys = p.opKeys
  rom : q.romDigest = p.romDigest

/-- What no effect of a command does: change the part or the waiting commands, withdraw an output or a free value, set the local counter
to anything but zero, or leave a store out of its canonical form. -/
structure Keeps (s t : State) : Prop where
  part : s.part.Same t.part
  pending : t.pending = s.pending
  out : s.out <+: t.out
  free : s.freeIdx ≤ t.freeIdx
  now : t.now = s.now ∨ t.now = 0
  canon : s.Canon → t.Canon

/-- Nothing turns a path's write of `v` at an offset away: the path is there and may make it, the register exists in this part and is
served, its die is in service, and its window is not busy (R8-R12, R61, R371, R375, R460). -/
structure MayPut (s : State) (p : Path) (off v : Nat) : Prop where
  live : live s = true
  there : pathThere s p = true
  mapped : (findReg (hostTouch s p).part.hz7134 off).isSome = true
  served : islandOnly (hostTouch s p) = false ∨ blockOf off = 0 ∨ blockOf off = 2
  may : mayWrite (hostTouch s p) p off v = true
  hall : hallGone (hostTouch s p) off = false
  window : ∀ w, secWindow off = some w → windowBusy (hostTouch s p) w = false

/-- Commands on links, lanes, monitors, inputs and records alone, which reach no memory, Pantry or key (R239, R387). -/
def memoryAside : Instr → Bool
  | .dampingEnd _ | .resyncSignalReceive _ | .quarantineLevelReset _ | .twinHandoffReceive | .twinPortReturn | .blockLock _ |
    .eyeManualDone _ _ | .msixHoldoffEnd _ _ _ | .fecLock _ | .eiEnterReceive _ | .laneRestart _ | .quarantineEnd _ |
    .routeAddRequest _ | .superframeLock _ | .idleExit _ | .checkingRetry _ | .codewordDecode _ _ _ _ | .hushEntry | .idleEntry _ |
    .inputStuck _ | .thermalTrip _ | .eyeSearchDone _ _ _ _ | .opticalRefresh _ _ _ _ _ | .startupLate | .supplyDroop _ _ _ _ |
    .memDeviceLost _ | .memTrainingDone _ _ _ | .mirrorRecordDelivered | .twinDigestReceive _ | .bufAudit | .i3cAddressAssign _ |
    .locketRateTimeout _ => true
  | _ => false

end Sys2Proof.Machine
end

