-- ==== Sys2Proof/WellFormed.lean ====
section
/-! DEFINITION. Which commands are well formed: packets whose payload has the length their header states, flits with a full
payload area, lanes and ports that exist on one of the family's members, access sizes of 4 or 8 bytes, data that fits its line.
A command that is not well formed describes nothing that can happen; its meaning is total all the same. -/

namespace Sys2Proof

open Machine

/-- A packet's payload is as long as LENGTH says (R110), and no longer than the largest payload. -/
def Packet.wf (p : Packet) : Bool := p.payload.length == p.length.toNat && decide (p.length.toNat ≤ 4096)

/-- A flit carries a payload area of 240 bytes (R94). -/
def Flit.wf (f : Flit) : Bool := f.payload.length == 240

/-- A delivered packet is well formed. -/
def Delivered.wf (d : Delivered) : Bool := d.pkt.wf

/-- An access size of the register space (R7). -/
def sizeOk (n : Nat) : Bool := n == 4 || n == 8

/-- An atomic's size (R450): 4, 8 or 16 bytes. -/
def atomicSizeOk (n : Nat) : Bool := n == 4 || n == 8 || n == 16

/-- Which commands are well formed. -/
def Instr.wf : Instr → Bool
  | .registerWrite _ _ size _ => sizeOk size
  | .registerRead _ _ size => sizeOk size
  | .liveRead _ _ size => sizeOk size
  | .packetArrive _ p => p.wf
  | .flitReceive _ f _ => f.wf
  | .read d => d.wf
  | .readVol d => d.wf
  | .write d => d.wf
  | .writeMask d => d.wf
  | .atomic d => d.wf
  | .regRead d => d.wf
  | .regWrite d => d.wf
  | .takeShared d => d.wf
  | .takeExcl d => d.wf
  | .give d => d.wf
  | .evictNotice d => d.wf
  | .snoopInv d => d.wf
  | .fwdShared d => d.wf
  | .fwdExcl d => d.wf
  | .recall d => d.wf
  | .comp d => d.wf
  | .data d => d.wf
  | .compAck d => d.wf
  | .snoopResp d => d.wf
  | .snoopData d => d.wf
  | .collPush d => d.wf
  | .collPartial d => d.wf
  | .collResult d => d.wf
  | .collA2a d => d.wf
  | .revoke d => d.wf
  | .streamWrite d => d.wf
  | .telemetry d => d.wf
  | .vote d => d.wf
  | .committed d => d.wf
  | .arrived d => d.wf
  | .release d => d.wf
  | .reissue d => d.wf
  | .regather d => d.wf
  | .a2aEnd d => d.wf
  | .a2aCount d => d.wf
  | .hostInboundRequest d => d.wf
  | .bar2Write _ _ _ bs => decide (0 < bs.length) && decide (bs.length ≤ 4096)
  | .bar2Read _ _ _ len => decide (0 < len) && decide (len ≤ 4096)
  | .bar2Fetchadd _ _ _ size _ => atomicSizeOk size
  | .bar2Swap _ _ _ size _ => atomicSizeOk size
  | .bar2Cas _ _ _ size _ _ => atomicSizeOk size
  | _ => true

end Sys2Proof
end

