-- ==== Sys2Proof/Certificates/Slice0/Obligations.lean ====
section
/-! DEFINITION. The statements for the provers. Those about a command's effect say what `exec` answers where the module is live (neither in
Off nor with its power stages off) and the command's own condition holds. `progress` carries on what an earlier command left under way; where
nothing is under way (`settled`) it changes nothing. Each statement names the whole next state, so it says as well what stays as it was. -/

open Sys2Proof Sys2Proof.Machine

/-! ## Lanes and ports (chapter 3) -/

/-- The three locks come in order (R70, R73): in the Lock phase FEC_LOCK sets FEC_LOCK; with it, BLOCK_LOCK sets BLOCK_LOCK; with that,
SUPERFRAME_LOCK sets SF_LOCK and takes the lane to Exchange, with 1 ms. A lane in service that comes out of electrical idle regains FEC lock
(R82). Nothing else of the state changes. -/
def Obligations.LocksCompleteInOrder : Prop :=
  ∀ (s : State) (n : LaneNo), live s = true →
    ((lane s n).phase = .lock →
      exec (.fecLock n) s = .next (progress (setBitOf s (LNK_LANE_STATUS n) 5 true))) ∧
    ((lane s n).phase = .inPort → (lane s n).idleDeadline ≠ 0 →
      exec (.fecLock n) s = .next (progress (setBitOf (setLane s n { lane s n with idleDeadline := 0 }) (LNK_LANE_STATUS n) 5 true))) ∧
    ((lane s n).phase = .lock → bitOf s (LNK_LANE_STATUS n) 5 = true →
      exec (.blockLock n) s = .next (progress (setBitOf s (LNK_LANE_STATUS n) 6 true))) ∧
    ((lane s n).phase = .lock → bitOf s (LNK_LANE_STATUS n) 6 = true →
      exec (.superframeLock n) s = .next (progress (setLaneState
        (setLane (setBitOf s (LNK_LANE_STATUS n) 7 true) n { lane s n with phase := .exchange, deadline := s.now + 1000000 }) n 2)))

/-- Decoding (R68). CODEWORD_DECODE on a lane with FEC lock: a codeword with 1 to 7 symbol errors is corrected, and its errors are added to
LNK_LANE_FEC_CORR; so is every codeword of a pair whose errors are one burst of at most 14 symbols; any other codeword with errors is flagged,
and LNK_LANE_FEC_UNCORR rises by one. A flit with a bit in a flagged codeword is treated as one that failed its CRC: the receiver discards it
and asks for a replay. -/
def Obligations.CodewordsCorrectedOrFlagged : Prop :=
  (∀ (s : State) (n : LaneNo) (a b : Nat) (burst : Bool), live s = true → bitOf s (LNK_LANE_STATUS n) 5 = true →
    let corrected (e : Nat) : Bool := decide (e ≤ 7) || (burst && decide (a + b ≤ 14))
    let one (t : State) (e : Nat) : State :=
      if e = 0 then t
      else if corrected e then lnkEv (bump64 t (LNK_LANE_FEC_CORR n) e) 0 e
      else lnkEv (bump64 t (LNK_LANE_FEC_UNCORR n) 1) 1 1
    exec (.codewordDecode n a b burst) s = .next (progress (one (one s a) b))) ∧
  ∀ (s : State) (p : PortNo) (f : Flit), live s = true → inService s p = true →
    exec (.flitReceive p f true) s = .next (progress (failFlit s p)) ∧ (failFlit s p).arrivals = s.arrivals ∧
    (f.crc ≠ f.goodCrc → exec (.flitReceive p f false) s = exec (.flitReceive p f true) s) ∧
    (s.Canon → (link (failFlit s p) p).rxFailed = true)

/-- Training (R73, R74, R76, R77, R80). LANE_DETECT: from Detect to the Lock phase of step 0. CAP_BLOCK_ACCEPT: two sets that agree are
accepted; two that do not change nothing. EQUALISE_DONE and a VERIFY_DONE that passed complete the step; a Verify that fails runs Equalise in its
place. STEP_ADVANCE: with READY seen both ways, the Lock phase of the next step. LANE_RESTART: a failed lane of an enabled port whose 1 s is over
starts again from Detect. A phase that times out is run once more from the start of its step; a second timeout in the same step ends the lane's
training at the highest step it completed, or marks it failed if it completed none. The deadline of Lock does not run while MANUAL is 1; after
100 ms of it MANUAL_ALIGN_TIMEOUT fails the step in the same way. -/
def Obligations.TrainingAdvancesOrTimesOut : Prop :=
  (∀ (s : State) (n : LaneNo), live s = true →
      ((lane s n).phase = .detect →
        exec (.laneDetect n) s = .next (progress (startStep (setLane s n { lane s n with retried := false }) n 0))) ∧
      (∀ a b : BitVec 384, (lane s n).phase ∈ [LanePhase.exchange, .equalise, .verify, .readyWait] →
        exec (.capBlockAccept n a b) s = .next (progress (if capAccepted a b then acceptCap s n b else s))) ∧
      ((lane s n).phase = .equalise → exec (.equaliseDone n) s = .next (progress (stepCompleted s n))) ∧
      ((lane s n).phase = .verify → exec (.verifyDone n true) s = .next (progress (stepCompleted s n))) ∧
      ((lane s n).phase = .verify → exec (.verifyDone n false) s = .next (progress (setLaneState
        (setLane s n { lane s n with phase := .equalise, deadline := s.now + equaliseTime (laneStep s n) }) n 2))) ∧
      ((lane s n).phase = .readyWait → (lane s n).readyTx = true → (lane s n).readyRx = true →
        exec (.stepAdvance n) s = .next (progress (startStep (setLane s n { lane s n with retried := false }) n (laneStep s n + 1)))) ∧
      ((lane s n).phase = .failed → (lane s n).restartAt ≤ s.now → (trainPort s n).isSome = true →
        exec (.laneRestart n) s = .next (progress (startDetect s n)))) ∧
  (∀ (s : State) (n : LaneNo), live s = true →
      let l := lane s n
      let timedOut : Prop :=
        (l.phase ∈ [LanePhase.detect, .exchange, .equalise, .verify] ∧ l.deadline ≤ s.now) ∨
        (l.phase = .lock ∧ l.deadline ≤ s.now ∧ bitOf s (LNK_LANE_ALIGN n) 0 = false)
      let manualOut : Prop :=
        l.phase = .lock ∧ bitOf s (LNK_LANE_ALIGN n) 0 = true ∧ max l.manualSince (l.deadline - 2000000) + 100000000 ≤ s.now
      let again := setLane s n { l with retried := true }
      let t :=
        if l.retried then
          match l.completed with
          | some k => laneDone (setFld (setLane (enterPhase s n .readyWait 0) n
              { lane (enterPhase s n .readyWait 0) n with readyTx := false }) (LNK_LANE_STATUS n) 4 3 k) n
          | none => failLane s n
        else if l.phase = .detect then enterPhase again n .detect 5000000
        else startStep again n (laneStep s n)
      (timedOut → exec (.trainingPhaseTimeout n) s = .next (progress t)) ∧
      (manualOut → exec (.manualAlignTimeout n) s = .next (progress t)) ∧
      (l.phase = .lock → bitOf s (LNK_LANE_ALIGN n) 0 = true → exec (.trainingPhaseTimeout n) s = .next (progress s)))

/-- Quarantine (R86, R87). A loss of lock with 8 others in the preceding second sends QUAR with the period of the lane's level (10, 20, 40, 80,
160, 320 or 600 s for levels 0 to 6), goes silent, is quarantined for that period, raises the level by one up to 6, and writes LANE_QUARANTINE;
with fewer the lane starts again 1 s later (R76). QUAR received keeps the lane from training for the period stated, or its own where that ends
later. When the period has run a lane of an enabled port starts from Detect; after 10 min in service without a loss the level returns to 0. -/
def Obligations.LossesOfLockQuarantine : Prop :=
  ∀ (s : State) (n : LaneNo),
    (live s = true →
      let l := lane s n
      let recent := l.losses.filter fun t => decide (s.now ≤ t + 1000000000)
      let stamped := setLane s n { l with losses := recent ++ [s.now], cleanSince := s.now }
      let noted := ev (lnkEv stamped 7 1) (1080 + 8 * dieOfLane stamped n + 7) 1
      let heard := setLaneState (clearLocks (enterPhase s n .off 0) n) n 5
      ((bitOf s (LNK_LANE_STATUS n) 5 = true ∨ l.phase = .inPort) → l.eiRx = false →
        exec (.lossOfLock n) s = .next (progress (laneLeaves (if 8 ≤ recent.length then quarantine noted n else failLane noted n) n))) ∧
      ((laneState s n = 5 ∨ bitOf s (LNK_LANE_STATUS n) 5 = true) → ∀ secs : BitVec 24,
        exec (.quarReceive n secs) s = .next (progress (laneLeaves (setLane heard n { lane heard n with
          quarUntil := max l.quarUntil (s.now + secs.toNat * 1000000000), eiRx := false, idleDeadline := 0 }) n))) ∧
      (laneState s n = 5 → l.quarUntil ≤ s.now →
        exec (.quarantineEnd n) s = .next (progress (if (trainPort s n).isSome then startDetect s n else setLaneState s n 0))) ∧
      (l.phase = .inPort → l.cleanSince + 600000000000 ≤ s.now →
        exec (.quarantineLevelReset n) s = .next (progress (setFld s (LNK_LANE_QUAR n) 13 10 0)))) ∧
    (s.Canon → fldOf s (LNK_LANE_QUAR n) 13 10 ≤ 6 →
      let level := fldOf s (LNK_LANE_QUAR n) 13 10
      let secs := [10, 20, 40, 80, 160, 320, 600].getD level 0
      let t := quarantine s n
      laneState t n = 5 ∧ fldOf t (LNK_LANE_STATUS n) 7 5 = 0 ∧ (lane t n).phase = .off ∧
      (lane t n).quarUntil = max (lane s n).quarUntil (s.now + secs * 1000000000) ∧
      fldOf t (LNK_LANE_QUAR n) 13 10 = min 6 (level + 1) ∧
      s.out ++ [.block n 0x55 (BitVec.ofNat 56 secs), .silent n] <+: t.out)

/-- PORT_ENTER_SERVICE in Checking (R79, R85): a partner that does not match is MISWIRE; with fewer than MIN_WIDTH trained lanes the port trains
on; with more skew than 1,024 UI (4,096 UI on a twin port) it stays in Checking; otherwise it enters service on its trained lanes.
CHECKING_RETRY starts its lanes from Detect 1 s after the skew failure. TWIN_PORT_RETURN moves traffic back to twin port 0 once twin port 1 has
nothing unacknowledged (R88). -/
def Obligations.PortsEnterService : Prop :=
  ∀ (s : State), live s = true →
    (∀ (p : PortNo) (skew : Nat), portState s p = 2 → portEnabled s p = true → portExists s p = true →
      let ls := (lanesOf s p).filter fun n => laneTrained s n && laneStep s n == portStep s p
      exec (.portEnterService p skew) s = .next (progress (
        match partnerFault s p with
        | some k => miswire s p k
        | none =>
          if ls.length < minWidth s p then setFld s (LNK_PORT_STATUS p) 2 0 1
          else if (if 256 ≤ p.val then 4096 else 1024) < skew then setLink s p { link s p with skewFail := true, checkAt := s.now }
          else enterService s p ls))) ∧
    (∀ p : PortNo, portState s p = 2 → (link s p).skewFail = true → (link s p).checkAt + 1000000000 ≤ s.now →
      let t := setFld (setLink s p { link s p with skewFail := false }) (LNK_PORT_STATUS p) 2 0 1
      exec (.checkingRetry p) s = .next (progress (forEach (lanesOf t p) t fun s n => if laneState s n = 5 then s else startDetect s n))) ∧
    (inService s 256 = true → twinActive s = 1 → (link s 257).replay = [] →
      exec .twinPortReturn s = .next (progress (setFld s LNK_TWIN_STATUS 1 0 0)))

/-- Electrical idle (R81, R82, R84, R88). IDLE_ENTRY sends EI_ENTER on every lane of the port's mask and goes silent. EI_ENTER_RECEIVE: the lane
is idle and its locks stand but for FEC lock. IDLE_EXIT, at least 80 ns after EI_ENTER, sends the burst and ALIGN on every lane.
TRAINING_BURST_RECEIVE: the lane is back and has the in-service time to regain FEC lock. IDLE_EXIT_FAIL: it has not; it has lost lock, and
IDLE_EXIT_FAIL is set. -/
def Obligations.ElectricalIdleEntersAndLeaves : Prop :=
  ∀ (s : State), live s = true →
    (∀ p : PortNo, inService s p = true →
      (txIdle s p = false → (hasToSend s p = false ∨ (link s p).stopHush = true) → idleDue s p = true →
        let silent := forEach (maskLanes s p) s fun s n => emit (sendBlock s n 0x4B 0) (.silent n)
        exec (.idleEntry p) s = .next (progress (lnkEv (setLink (setTxIdle silent p true) p { link silent p with idleAt := silent.now }) 10 1))) ∧
      (txIdle s p = true → hasToSend s p = true → (link s p).stopHush = false → heldIdle s p = false → (link s p).idleAt + 80 ≤ s.now →
        let first := ((portLanes s p).getD (0, 0)).1
        let sent := forEach (maskLanes s p) s fun s n => sendBlock (emit s (.burst n)) n 0x2D (n - first + portStep s p * 2 ^ 8)
        exec (.idleExit p) s = .next (progress (setLink (setTxIdle sent p false) p { link s p with busyAt := sent.now })))) ∧
    ∀ (n : LaneNo) (p i : Nat), portOfLane s n = some (p, i) →
      (inService s p = true → (lane s n).phase = .inPort → n.val ∈ maskLanes s p →
        exec (.eiEnterReceive n) s = .next (progress (noteRxIdle (setLaneState (setBitOf
          (setLane s n { lane s n with eiRx := true, idleDeadline := 0 }) (LNK_LANE_STATUS n) 5 false) n 4) p))) ∧
      (inService s p = true → (lane s n).eiRx = true →
        let w := wakeRun s
        exec (.trainingBurstReceive n) s = .next (progress (noteRxIdle (setLaneState
          (setLane w n { lane w n with eiRx := false, idleDeadline := w.now + burstTime (portStep w p) }) n 3) p))) ∧
      ((lane s n).idleDeadline ≠ 0 → (lane s n).idleDeadline ≤ s.now → bitOf s (LNK_LANE_STATUS n) 5 = false →
        exec (.idleExitFail n) s = .next (progress (lossOfLock
          (lnkEv (portEvent (setLane s n { lane s n with idleDeadline := 0 }) p 6) 11 1) n)))

/-- Width changes (R83, R85). WIDTH_RECEIVE in service takes the partner's mask where it is its first or carries a higher sequence number, and
answers with this side's own unless one is under way; an older one changes nothing. WIDTH_APPLY, when the later of the two boundaries has come,
applies the AND of the two masks, or takes the port out of service where that leaves fewer than MIN_WIDTH lanes. -/
def Obligations.WidthsChangeAtTheLaterBoundary : Prop :=
  ∀ (s : State) (p : PortNo), live s = true → inService s p = true →
    (∀ (sq mask : Byte) (boundary : BitVec 24),
      let l := link s p
      let newer : Prop := ∀ w, l.widthPeer = some w → sq ≠ w.seq ∧ (sq.toNat + 256 - w.seq.toNat) % 256 < 128
      let taken := setLink s p { l with widthPeer := some { seq := sq, mask := mask, boundary := boundary } }
      (newer → exec (.widthReceive p sq mask boundary) s = .next (progress (
        if l.widthMine.isSome then taken else announceWidth taken p (maskOfLanes taken p (offeredLanes taken p))))) ∧
      (¬newer → exec (.widthReceive p sq mask boundary) s = .next (progress s))) ∧
    ∀ a b, (link s p).widthMine = some a → (link s p).widthPeer = some b →
      sfReached s p (sfLater a.boundary.toNat b.boundary.toNat) = true →
      let ended := setLink s p { link s p with widthMine := none, widthPeer := none }
      let mask := (a.mask &&& b.mask).toNat
      exec (.widthApply p) s = .next (progress (if popMask mask < minWidth ended p then portDown ended p else applyMask ended p mask))

/-- The margin monitors (R90, R91). EYE_SEARCH_DONE of a lane in service with MANUAL at 0 writes the result with VALID and SEQ one higher;
EYE_MANUAL_DONE with MANUAL at 1 writes the count and VALID; OPTICAL_REFRESH writes the four readings of an optical lane; SUPPLY_DROOP keeps the
lowest voltage since RESET_MIN. A result below its LNK_MARGIN_CFG level is a warning. -/
def Obligations.MarginMonitorsReport : Prop :=
  ∀ (s : State), live s = true →
    (∀ (n : LaneNo) (w h : Byte) (eye : BitVec 2), laneState s n = 3 → bitOf s (LNK_LANE_EYE_CTRL n) 0 = false →
      let t := wr s (LNK_LANE_EYE_RESULT n) (w.toNat + h.toNat * 2 ^ 8 + eye.toNat * 2 ^ 16 + 2 ^ 18 +
        (fldOf s (LNK_LANE_EYE_RESULT n) 31 24 + 1) % 256 * 2 ^ 24)
      exec (.eyeSearchDone n w h eye) s = .next (progress (
        if w.toNat < fldOf t LNK_MARGIN_CFG 7 0 || h.toNat < fldOf t LNK_MARGIN_CFG 15 8 then marginWarn t 0 (6 + dieOfLane t n) n else t))) ∧
    (∀ (n : LaneNo) (count : BitVec 64), laneState s n = 3 → bitOf s (LNK_LANE_EYE_CTRL n) 0 = true →
      exec (.eyeManualDone n count) s = .next (progress (setBitOf (wr64 s (LNK_LANE_EYE_ERR n) count.toNat) (LNK_LANE_EYE_RESULT n) 18 true))) ∧
    (∀ (n : LaneNo) (rx oma bias laser : BitVec 16), isOptical s n = true → laneState s n ≠ 4 → laneState s n ≠ 5 →
      let t := wr (wr s (LNK_LANE_OPT_RX n) (rx.toNat + oma.toNat * 2 ^ 16)) (LNK_LANE_OPT_LASER n) (bias.toNat + laser.toNat * 2 ^ 16)
      exec (.opticalRefresh n rx oma bias laser) s = .next (progress (
        if signedBits 16 rx.toNat < -500 + 10 * (fldOf t LNK_MARGIN_CFG 31 24 : Int) then marginWarn t 2 (6 + dieOfLane t n) n else t))) ∧
    ∀ (d i : Fin 4) (mv margin : BitVec 12),
      let t := wr s (LNK_DROOP d i) (mv.toNat + margin.toNat * 2 ^ 12)
      let low := fldOf s (LNK_DROOP d i) 11 0
      (low = 0 ∨ mv.toNat < low →
        exec (.supplyDroop d i mv margin) s = .next (progress (
          if signedBits 12 margin.toNat < (fldOf t LNK_MARGIN_CFG 23 16 : Int) then marginWarn t 1 (6 + d.val) (1024 + 4 * d.val + i.val) else t))) ∧
      (low ≠ 0 → low ≤ mv.toNat → exec (.supplyDroop d i mv margin) s = .next (progress s))

/-! ## Flits and the switch core (chapters 4 and 5) -/

/-- A good flit at a port in service brings its trailer: STOP, both grants, the acknowledgement (R100, R106, R107); a sequenced one
(FVC 0 to 5) is then taken if it is the next one, and a control-only flit (FVC 7) ahead of the next one shows a loss. ACK_TIMEOUT_REPLAY starts a
replay once the oldest unacknowledged flit is T_ack old and no replay of it is under way (R102). C0_TOKEN_GRANT: a freed C0 cell takes a token from a
bucket that holds one, and raises the C0 grant (R148). A packet in sequence is accepted and one behind by up to 512 is a duplicate that changes
nothing; one ahead fails (R100). A replay that has been started 16 times for the same oldest flit retrains the port and writes
LINK_RETRY_EXHAUSTED; before that it goes out again from the oldest flit (R101, R102). -/
def Obligations.FlitsFollowTheirSequence : Prop :=
  (∀ (s : State) (p : PortNo), live s = true →
      (inService s p = true →
        (∀ f : Flit, f.crc = f.goodCrc → f.fvc.toNat ≤ 5 →
          exec (.flitReceive p f false) s = .next (progress (takeSequenced (takeTrailer s p f) p f))) ∧
        (∀ f : Flit, f.crc = f.goodCrc → f.fvc = 7 →
          let t := takeTrailer s p f
          let d := seqDist (link t p).rxNext f.seq
          exec (.flitReceive p f false) s = .next (progress (if d ≠ 0 ∧ d < 4096 - 512 then failFlit t p else t))) ∧
        (∀ e es, (link s p).replay = e :: es → (link s p).resend ≠ some 0 → e.sentAt + tAck (link s p) ≤ s.now →
          exec (.ackTimeoutReplay p) s = .next (progress (startReplay (lnkEv s 6 1) p)))) ∧
      ((link s p).waitTokens ≠ 0 → tokenUnit ≤ tokensNow s p →
        let l := link s p
        exec (.c0TokenGrant p) s = .next (progress (ev (setLink s p { l with
          tokens := tokensNow s p - tokenUnit, tokenAt := s.now, waitTokens := l.waitTokens - 1,
          freed := vset l.freed 0 (vget 0 l.freed 0 + 1), owed := max l.owed 1 }) 1247 1)))) ∧
  (∀ (s : State) (p : PortNo),
      (∀ f : Flit, let d := seqDist (link s p).rxNext f.seq
        (d ≠ 0 → d < 4096 - 512 → takeSequenced s p f = failFlit s p) ∧
        (4096 - 512 ≤ d → takeSequenced s p f = s) ∧
        (d = 0 → s.Canon → (link (takeSequenced s p f) p).rxNext = (link s p).rxNext + 1 ∧
          (link (takeSequenced s p f) p).rxFailed = false ∧ (takeSequenced s p f).homes = s.homes)) ∧
      (∀ e es, (link s p).replay = e :: es →
        ((link s p).oldestTries < 16 →
          startReplay s p = setLink s p { link s p with resend := some 0, oldestTries := (link s p).oldestTries + 1 }) ∧
        (16 ≤ (link s p).oldestTries →
          startReplay s p = portFault (retrain s p) 0x0108 3 p 0xFFFF 0 0 0 0 0)))

/-- PACKET_ARRIVE (R115, R118-R125, R135, R140, R385): a packet that has arrived is counted and sampled, then, in this order, refused by its
framing, charged its cells, refused as malformed, as coming from a source its down-port may not name, as of a partition its port does not
admit, or passed on to the lookup. -/
def Obligations.ArrivalsAreCheckedInOrder : Prop :=
  ∀ (s : State) (ing : Ingress) (p : Packet), live s = true → mayArrive s ing p = true → s.pwr.inReset.contains .hearthCore = false →
    dieDead s .hearth = false →
    let a := { s with arrivals := s.arrivals.erase (ing, p) }
    let a := if p.vc < 6 then ev (ev a (1192 + p.vc) 1) (1200 + p.vc) p.cells else a
    let m := mirrorSample a p ing
    let t := takeCells m p.cells
    (p.framing = true → exec (.packetArrive ing p) s = .next (progress (framingError m p ing))) ∧
    (p.framing = false → isMalformed p = true → exec (.packetArrive ing p) s = .next (progress (malformedPkt t p ing))) ∧
    (p.framing = false → isMalformed p = false →
      (∀ q : PortNo, ing = .port q → isDownPort t q = true →
        (sourceOk t p q = false → exec (.packetArrive ing p) s = .next (progress (spoofed t p ing))) ∧
        (sourceOk t p q = true → portAdmits t p q = false → exec (.packetArrive ing p) s = .next (progress (notAdmitted t p ing))) ∧
        (sourceOk t p q = true → portAdmits t p q = true → exec (.packetArrive ing p) s = .next (progress (pastIngress t p ing)))) ∧
      ((∀ q : PortNo, ing = .port q → isDownPort t q = false) →
        exec (.packetArrive ing p) s = .next (progress (pastIngress t p ing))))

/-- TRANSMIT_SLOT (R147): a slot of a port in service sends a flit by the order of R147, or counts as starved or empty while the port is in
electrical idle; nothing is sent on a port out of service or over a crossing held in reset. CONGESTION_NOTE (R153): a marked queue that still
holds MARK_CELLS sends one note per 1 µs to the source, Unit 0, of the packet that entered it last. TELEMETRY to the module's Unit 0 goes to the
management agent. -/
def Obligations.SlotsNotesAndTelemetry : Prop :=
  ∀ (s : State), live s = true →
    (∀ p : PortNo, crossingClosed s (.port p) = false →
      (inService s p = true → txIdle s p = false → exec (.transmitSlot (.port p)) s = .next (progress (portSlot s p))) ∧
      (inService s p = true → txIdle s p = true →
        exec (.transmitSlot (.port p)) s = .next (progress (slotIs s p (if portQueued s p then 3 else 2)))) ∧
      (inService s p = false → exec (.transmitSlot (.port p)) s = .next (progress s))) ∧
    (∀ eg : Egress, (∀ p, eg ≠ .port p) → crossingClosed s eg = false →
      exec (.transmitSlot eg) s = .next (progress (internalSlot s eg))) ∧
    (∀ eg : Egress, crossingClosed s eg = true → exec (.transmitSlot eg) s = .next (progress s)) ∧
    (∀ (q : PortNo) (c : Fin 5) (p : Packet), q.val < 256 → vget none (pswOf s q).lastIn c = some p →
      vget false (pswOf s q).marked c = true → vget 0 (pswOf s q).noteAt c ≠ s.now / 1000 + 1 →
      fldOf s (SWC_MARK q) 15 0 ≤ queueDepth s (egPort q) c →
      let t := setPsw s q { pswOf s q with noteAt := vset (pswOf s q).noteAt c (s.now / 1000 + 1) }
      let body := leBytes 1 1 ++ leBytes 1 c ++ leBytes 2 q ++ leBytes 4 (queueDepth s (egPort q) c) ++ leBytes 3 p.dest.toNat ++ leBytes 5 0
      exec (.congestionNote q c) s = .next (progress (sendPlain (ev t (1216 + c) 1)
        (mkPkt opTELEMETRY 5 (epcWithUnit p.src 0) (myEpc t 0) (opfS 0) body) .mgmt))) ∧
    ∀ d : Delivered, d.pkt.opcode = opTELEMETRY → isMine s d.pkt.dest = true → epcUnit d.pkt.dest = 0 →
      exec (.telemetry d) s = .next (progress (emit (takeInbox s d) (.mgmtTelemetry d.pkt)))

/-- The drain of R163. DRAIN_QUIESCED: with STATE 1, the affected queues and flits gone, and LIMIT not reached, STATE becomes 2 for SETTLE.
DRAIN_SETTLE_END: the shadow words become live in one step, STATE is 3, and the held packets are looked up again. HOLD_QUEUES_EMPTY: STATE
returns to 0. DRAIN_ABANDON at LIMIT: the old tables stay, the held packets are released on them, LAST_ABANDONED is set and DRAIN_ABANDONED
written; a port's own change is asked for again LIMIT later (R138). -/
def Obligations.DrainsRunTheirSteps : Prop :=
  ∀ (s : State) (d : Drain), live s = true → s.sw.drain = some d →
    let limit := fldOf s SWC_DRAIN_CFG 31 16 * 10000
    (fldOf s SWC_DRAIN_STATUS 1 0 = 1 → drainQuiet s = true → s.now < d.startAt + limit →
      exec .drainQuiesced s = .next (progress (setFld
        { s with sw := { s.sw with drain := some { d with settleAt := s.now + fldOf s SWC_DRAIN_CFG 15 0 * 100 } } } SWC_DRAIN_STATUS 1 0 2))) ∧
    (fldOf s SWC_DRAIN_STATUS 1 0 = 2 → d.settleAt ≤ s.now →
      exec .drainSettleEnd s = .next (progress (relinkHeld (drainGoLive s d)))) ∧
    (fldOf s SWC_DRAIN_STATUS 1 0 = 3 → (∀ e ∈ s.sw.queue, e.kind ≠ .hold) →
      exec .holdQueuesEmpty s = .next (progress (setFld { s with sw := { s.sw with drain := none } } SWC_DRAIN_STATUS 1 0 0))) ∧
    (fldOf s SWC_DRAIN_STATUS 1 0 = 1 → d.startAt + limit ≤ s.now →
      let t := fault0 (ev (relinkHeld (setBitOf (drainOver s) SWC_DRAIN_STATUS 2 true)) 1242 1) 0x0207 0 0
      (∀ p, d.owner = .port p → exec .drainAbandon s = .next (progress
        { t with sw := { t.sw with routeAdd := cset 0 t.sw.routeAdd p (t.now + limit + 1) } })) ∧
      (∀ w, d.owner = .request w → exec .drainAbandon s = .next (progress (ownerAbandoned t (.request w)))) ∧
      (∀ o, d.owner = o → (o = .commitJob ∨ o = .returnJob) → exec .drainAbandon s = .next (progress (jobAbandoned t o))))

/-- Upkeep of the switch core. ROUTE_ADD_REQUEST: a port in service, due and not yet enabled, starts the module's own drained change (R138).
BUF_AUDIT, every 50 ms of the local counter: cells in none of their places are missing, and those missing at two audits in a row return to the
free list (R159). MIRROR_RECORD_DELIVERED: the oldest record goes to Annex and its cell to the free list (R156). -/
def Obligations.SwitchUpkeep : Prop :=
  ∀ (s : State), live s = true →
    (∀ p : PortNo, p.val < 256 → inService s p = true → serving s = true → routeEn s p = false → cget 0 s.sw.routeAdd p ≠ 0 →
      cget 0 s.sw.routeAdd p ≤ s.now + 1 → s.sw.drain = none →
      exec (.routeAddRequest p) s = .next (progress (startDrain
        { s with sw := { s.sw with routeAdd := cset 0 s.sw.routeAdd p 0 } } (.port p) [] [p]))) ∧
    (∀ m rest, s.sw.mirror = m :: rest →
      exec .mirrorRecordDelivered s = .next (progress (emit
        (checkReserve { s with sw := { s.sw with mirror := rest, free := s.sw.free + 1 } }) (.mirrorRecord m.bytes)))) ∧
    ((s.sw.nextAudit + 1) * 50000000 ≤ s.now →
      let missing := 786432 - (s.sw.free + queuedCells s + heldCells s + s.sw.mirror.length)
      let back := min missing s.sw.lastMissing
      let t := { s with sw := { s.sw with nextAudit := s.now / 50000000, lastMissing := missing - back, free := s.sw.free + back } }
      let a := ev (setFld (setFld t SWC_AUDIT 15 0 (min missing 65535)) SWC_AUDIT 31 16 (fldOf t SWC_AUDIT 31 16 + 1)) 1244 1
      exec .bufAudit s = .next (progress (if back = 0 then a else forEach (List.range back)
        (ev (bumpSat (checkReserve a) SWC_AUDIT_RECLAIMED 31 0 back) 1245 back)
        fun s _ => takeFree (fault s 0x0206 1 0 (myEpc s 0) (det [(16, 4, freeVal s % 786432), (20, 4, freeVal s)])))))

/-! ## The end-to-end layer and the module's caches (chapters 4, 6 and 7) -/

/-- The source's timers (R117, R120, R122). The oldest outstanding request of a pair, 16 µs after its last transmission: it and every later one
are sent again; at its fourth timeout the pair ends and every outstanding request of it completes UNREACHABLE. A C0 request after 16 µs
completes UNREACHABLE and is never sent again. A pair with nothing outstanding and 2 ms without a send is closed. -/
def Obligations.SourcesRetryThenGiveUp : Prop :=
  ∀ (s : State), live s = true →
    (∀ (src dst : Epc) (r : OutReq), oldestOf s src dst = some r → r.last + 16000 ≤ s.now →
      (r.tries < 3 → exec (.e2eRetryTimeout src dst) s = .next (progress
        (forEach (outstanding s src dst) s fun s q => retransmit s q (q.n == r.n)))) ∧
      (3 ≤ r.tries → exec (.e2eRetryTimeout src dst) s = .next (progress (pump (forEach (outstanding s src dst)
        (setSrcPair s { srcPair s src dst with dead := true }) fun s q => endReq s q stUNREACHABLE))))) ∧
    (∀ (n : Nat) (r : OutReq), (s.e2e.outs.find? fun r => r.n == n && r.isSent && r.pkt.vc == 0 && !r.local_) = some r →
      r.last + 16000 ≤ s.now → exec (.c0RequestTimeout n) s = .next (progress (pump (endReq s r stUNREACHABLE)))) ∧
    (∀ (src dst : Epc), (srcPair s src dst).opened = true → (srcPair s src dst).lastSend + 2000000 ≤ s.now →
      (∀ q ∈ s.e2e.outs, ¬(q.pkt.src = (srcPair s src dst).src ∧ q.pkt.dest = (srcPair s src dst).dst ∧ q.pkt.vc = 1 ∧ q.st = .sent)) →
      exec (.pairClose src dst) s = .next (progress (pump (setSrcPair s { srcPair s src dst with opened := false, dead := false }))))

/-- Held requests go out (R175, R178, R182, R183). DEFERRED_RESEND, once the HINT of every deferred request of the pair and class has passed: each
becomes a new request with its TOKEN, in the order of issue. FLAGGED_WRITE_RELEASE: a held flagged write goes once all it counts has completed.
FENCE_COMPLETE: a fence that waits for nothing more ends with its report. -/
def Obligations.HeldRequestsAndFencesRelease : Prop :=
  ∀ (s : State), live s = true →
    (∀ (src dst : Epc) (c0 : Bool),
      let ds := s.e2e.outs.filter fun r => r.isDeferred && r.pkt.src == src && r.pkt.dest == dst && (r.pkt.vc == 0) == c0
      ds ≠ [] → (∀ r ∈ ds, ∀ t u, r.st = .deferred t u → u ≤ s.now) →
      exec (.deferredResend src dst c0) s = .next (progress (pump (sendReady
        (forEach ds s fun s r => match r.st with | .deferred t _ => readyAgain s r t | _ => s) (ds.map OutReq.n))))) ∧
    (∀ (n : Nat) (r : OutReq), (s.e2e.outs.find? fun r => r.n == n && r.isHeld && r.pkt.flag) = some r → maySend s r = true →
      exec (.flaggedWriteRelease n) s = .next (progress (pump (sendFirst s r)))) ∧
    (∀ (f : FenceId) (r : FenceRun), (s.e2e.fences.find? fun r => r.id == f) = some r → fenceWaits s r = false →
      (∀ j fn, f = .host j fn →
        let e := endFence s r
        exec (.fenceComplete f) s = .next (progress (msix (wr64 e.1 (HST_FN_FENCE_STATUS j fn)
          (e.2.1 % 16 * 2 ^ 4 + e.2.2.1 * 2 ^ 8 + e.2.2.2 % 2 ^ 32 * 2 ^ 32)) j fn 3))) ∧
      (∀ c k, f = .hall c → ((hctx s c).cmds.find? fun k => cOp k.body == 5 && !k.finished) = some k → k.started = true →
        let e := endFence s r
        exec (.fenceComplete f) s = .next (progress (setCmd
          (pWrite e.1 (cbits k.body 16 27 0) (leBytes 4 e.2.2.2 ++ leBytes 1 e.2.1 ++ leBytes 3 e.2.2.1 ++ leBytes 8 0)) c
          { k with finished := true }))))

/-- What a fence reports (R183): OK when every request its report covers completed OK; otherwise the status and destination of the earliest
failed one by issue order, and how many failed. A fence that starts covers the requests issued since the previous fence of the same owner. -/
def Obligations.FenceReportsEarliestFailure : Prop :=
  ∀ (s : State) (f : FenceRun),
    let fs := s.e2e.done.filter fun d => decide (f.since ≤ d.n) && decide (d.n < f.n) && (f.srcs.contains d.src || (f.fn.isSome && d.fn == f.fn))
    (fs = [] → (endFence s f).2 = (0, 0, 0)) ∧
    (∀ d ∈ fs, (∀ e ∈ fs, d.n ≤ e.n) → (∀ e ∈ fs, e.n = d.n → e = d) → (endFence s f).2 = (d.status.toNat, d.dest.toNat, fs.length)) ∧
    (endFence s f).1.e2e.done = s.e2e.done ∧
    (startFence s f.id f.srcs f.fn).e2e.fences =
      s.e2e.fences ++ [{ f with n := s.e2e.nextIssue, since := cget 0 s.e2e.lastFence (fenceKey f.id) }]

/-- COMP and DATA at a source of the module (R116, R117, R165, R169, R175). The response of an outstanding request: DEFERRED sets it aside for
2^HINT × 64 ns; UNREACHABLE of a C1 request completes it and ends its pair; any other status completes it. A response that answers nothing
outstanding is discarded. -/
def Obligations.ResponsesCompleteRequests : Prop :=
  ∀ (s : State) (d : Delivered) (c : Instr), live s = true →
    ((c = .comp d ∧ d.pkt.opcode = opCOMP) ∨ (c = .data d ∧ d.pkt.opcode = opDATA)) →
    let t := takeInbox s d
    let st := statusOf d.pkt
    (answered t d.pkt = none → exec c s = .next (progress t)) ∧
    ∀ r, answered t d.pkt = some r →
      (st = stDEFERRED → exec c s = .next (progress (noteDeferred t r d.pkt.token d.pkt.hint.toNat))) ∧
      (st ≠ stDEFERRED →
        let u := completeReq (retire t r st) r st d.pkt
        exec c s = .next (progress (pump (
          if st = stUNREACHABLE && r.pkt.vc == 1 && !r.local_ then pairDies u r.pkt.src r.pkt.dest else u))))

/-- C2 packets at the module's caches (R202). A packet to Unit 9 is answered by the Cupboard's slot that holds the line, one to Unit 10 or 11, or
to the seat of a host, by that host port's cache; a cache without the line answers as in I. -/
def Obligations.SnoopsReachTheirCache : Prop :=
  ∀ (s : State) (d : Delivered) (c : Instr), live s = true →
    ((c = .snoopInv d ∧ d.pkt.opcode = opSNOOP_INV) ∨ (c = .fwdShared d ∧ d.pkt.opcode = opFWD_SHARED) ∨
     (c = .fwdExcl d ∧ d.pkt.opcode = opFWD_EXCL) ∨ (c = .recall d ∧ d.pkt.opcode = opRECALL)) →
    let p := d.pkt
    let t := takeInbox s d
    (isMine s p.dest = true → epcUnit p.dest = 9 → exec c s = .next (progress (cupSnoop t p))) ∧
    (isMine s p.dest = true → ∀ j : Fin 2, epcUnit p.dest = 10 + j → exec c s = .next (progress (hostSnoop t j p))) ∧
    (isMine s p.dest = false → ∀ j, hostOf s p.dest = some j → exec c s = .next (progress (hostSnoop t j p)))

/-- The answer of a cache to a C2 packet by the state it holds the line in, row by row of R202: M (3), E (2), F (4), S (1), I (0); a line whose
announcement is outstanding answers as in I with EVICTING set. -/
def Obligations.SnoopAnswersByState : Prop :=
  (∀ (s : State) (self : Epc) (l : CacheLine) (p : Packet), l.evicting = true →
    let invalid := sendAnswer s self p opSNOOP_RESP p.src 0 false true []
    ((p.opcode = opSNOOP_INV ∨ p.opcode = opRECALL ∨ p.opcode = opFWD_EXCL) → answerC2 s self l p = (invalid, l.toI)) ∧
    (p.opcode = opFWD_SHARED → answerC2 s self l p = (invalid, l))) ∧
  ∀ (s : State) (self : Epc) (l : CacheLine) (p : Packet), l.evicting = false → l.state.toNat ≤ 4 →
    let bs := lineBytes l.data
    let home := p.src
    let a (op : Byte) (dest : Epc) (st : BitVec 3) (fwd : Bool) (body : List Byte) (t : State) := sendAnswer t self p op dest st fwd false body
    let goes (t : State) (st : BitVec 3) : State × CacheLine := (t, if st = 0 then l.toI else if st = l.state then l else { l with state := st })
    (p.opcode = opSNOOP_INV ∨ p.opcode = opRECALL →
      answerC2 s self l p = if l.state = 3 then goes (a opSNOOP_DATA home 0 false bs s) 0 else goes (a opSNOOP_RESP home 0 false [] s) 0) ∧
    (p.opcode = opFWD_SHARED → p.req ≠ p.src →
      answerC2 s self l p =
        if l.state = 3 then goes (a opSNOOP_DATA home 1 true bs (a opDATA p.req 4 false bs s)) 1
        else if l.state = 2 ∨ l.state = 4 then goes (a opSNOOP_RESP home 1 true [] (a opDATA p.req 4 false bs s)) 1
        else (a opSNOOP_RESP home l.state false [] s, l)) ∧
    (p.opcode = opFWD_SHARED → p.req = p.src →
      answerC2 s self l p =
        if l.state = 3 then goes (a opSNOOP_DATA home 4 false bs s) 4
        else if l.state = 2 then goes (a opSNOOP_RESP home 4 false [] s) 4
        else (a opSNOOP_RESP home l.state false [] s, l)) ∧
    (p.opcode = opFWD_EXCL →
      answerC2 s self l p =
        if l.state = 2 ∨ l.state = 3 then goes (a opSNOOP_RESP home 0 true [] (a opDATA p.req l.state false bs s)) 0
        else goes (a opSNOOP_RESP home 0 false [] s) 0)

/-! ## Homes, hot lines, twins' changes and memory devices (chapters 6, 7, 8 and R61) -/

/-- A request to Unit 1 at its home (R165, R170, R192, R200); to any other Unit it completes NOREGION (R44). A first arrival that no deferral of
its Unit turns away, and that crosses no snoop of the active transaction, is refused with the status of the checks of R170, or placed at the
tail of its line's queue. A GIVE or EVICT_NOTICE that crosses one is taken by that transaction (R194). -/
def Obligations.RequestsReachTheirHome : Prop :=
  ∀ (s : State) (d : Delivered) (c : Instr), live s = true →
    ((c = .read d ∧ d.pkt.opcode = opREAD) ∨ (c = .readVol d ∧ d.pkt.opcode = opREAD_VOL) ∨ (c = .write d ∧ d.pkt.opcode = opWRITE) ∨
     (c = .writeMask d ∧ d.pkt.opcode = opWRITE_MASK) ∨ (c = .atomic d ∧ d.pkt.opcode = opATOMIC) ∨
     (c = .takeShared d ∧ d.pkt.opcode = opTAKE_SHARED) ∨ (c = .takeExcl d ∧ d.pkt.opcode = opTAKE_EXCL) ∨
     (c = .give d ∧ d.pkt.opcode = opGIVE) ∨ (c = .evictNotice d ∧ d.pkt.opcode = opEVICT_NOTICE)) →
    let p := d.pkt
    let t := takeInbox s d
    let line := p.offset / 128
    let ann : Bool := p.opcode = opGIVE || p.opcode = opEVICT_NOTICE
    (epcUnit p.dest ≠ 1 → exec c s = .next (progress (respond t p stNOREGION 0 0 0 []))) ∧
    (epcUnit p.dest = 1 → d.dup = true → exec c s = .next (progress (dupRequest t line d))) ∧
    (epcUnit p.dest = 1 → d.dup = false → unitDeferral t line p = none →
      ((ann && crosses t line p.src) = true → exec c s = .next (progress (takeAnnounce t line p))) ∧
      ((ann && crosses t line p.src) = false →
        (homeStatus t p line ≠ stOK → exec c s = .next (progress (refuse t p (homeStatus t p line)))) ∧
        (homeStatus t p line = stOK → exec c s = .next (progress (placeRequest t line d)))))

/-- The checks of R170 in their order, at a module whose Store dies, devices and twin are as they should be: NOREGION without a region that
holds the line, PARTITION, KEYFAIL, PARTITION for a right the region does not give; a GIVE or EVICT_NOTICE of a recorded holder is never refused
by checks 2 to 4. -/
def Obligations.HomeChecksInOrder : Prop :=
  ∀ (s : State) (p : Packet) (line : Nat), dieDead s (.store 0) = false → dieDead s (.store 1) = false → servingTwin s = false →
    s.res.twin.handingOff = false → s.sec.keyWait = [] → deviceUp s (deviceOf s (line * 128)) = true →
    (regionAt s (line * 128) = none → homeStatus s p line = stNOREGION) ∧
    ∀ r, regionAt s (line * 128) = some r → r.standby = false →
      let reads := p.opcode ∈ [opREAD, opREAD_VOL, opTAKE_SHARED, opTAKE_EXCL, opATOMIC]
      let writes := p.opcode ∈ [opWRITE, opWRITE_MASK, opSTREAM_WRITE, opTAKE_EXCL, opATOMIC] ∨ (p.opcode = opGIVE ∧ p.length ≠ 0)
      let takes := p.opcode ∈ [opTAKE_SHARED, opTAKE_EXCL, opATOMIC]
      let announced := (p.opcode = opGIVE ∨ p.opcode = opEVICT_NOTICE) ∧ recorded s line p.src = true
      (announced → homeStatus s p line = stOK) ∧
      (¬announced → p.partition.toNat ≠ r.part → homeStatus s p line = stPARTITION) ∧
      (¬announced → p.partition.toNat = r.part → p.regionKey.toNat ≠ r.key → homeStatus s p line = stKEYFAIL) ∧
      (¬announced → p.partition.toNat = r.part → p.regionKey.toNat = r.key →
        ((reads ∧ r.rRight = false) ∨ (writes ∧ r.wRight = false) ∨ (takes ∧ r.bulk = true) → homeStatus s p line = stPARTITION) ∧
        (¬((reads ∧ r.rRight = false) ∨ (writes ∧ r.wRight = false) ∨ (takes ∧ r.bulk = true)) → homeStatus s p line = stOK))

/-- What the home takes on arrival (R164, R193, R194, R203, R215). A COMP_ACK ends the wait for its source's grant, and in a convoy for every
earlier member's. A SNOOP_DATA's data is written before anything else its answer does; an answer that no wait matches changes nothing. Every
line of a STREAM_WRITE is checked and placed by itself. -/
def Obligations.AnswersTakenOnArrival : Prop :=
  ∀ (s : State) (d : Delivered), live s = true →
    let p := d.pkt
    let t := takeInbox s d
    let line := p.offset / 128
    (p.opcode = opCOMP_ACK → ∀ x, (lctl t line).active = some x → (∃ g ∈ x.grants, g.who = p.src) →
      let left := if x.kind = .convoy then (x.grants.dropWhile fun g => g.who != p.src).drop 1
        else x.grants.eraseIdx (x.grants.findIdx fun g => g.who == p.src)
      exec (.compAck d) s = .next (progress (settle (modTxn t line fun x => { x with grants := left }) line))) ∧
    (∀ c : Instr, (c = .snoopResp d ∧ p.opcode = opSNOOP_RESP) ∨ (c = .snoopData d ∧ p.opcode = opSNOOP_DATA) →
      (findWait t line p = none → exec c s = .next (progress t)) ∧
      ∀ x w, (lctl t line).active = some x → findWait t line p = some w →
        (x.grants.find? fun g => g.who == p.src && g.recalled && w.opcode == opRECALL) = none →
        let forward : Bool := w.opcode == opFWD_SHARED || w.opcode == opFWD_EXCL
        let owner : Bool := x.own || recordedOwner t line p.src
        let u := if p.opcode = opSNOOP_DATA then storeLine t line p.payload else t
        ((p.lstate = 0 ∧ p.evicting = true ∧ (forward || owner) = true ∧ w.given = false) →
          exec c s = .next (progress (settle (modTxn u line fun x =>
            { x with snoops := x.snoops.map fun y => if y == w then { y with evict := true } else y }) line))) ∧
        (¬(p.lstate = 0 ∧ p.evicting = true ∧ (forward || owner) = true ∧ w.given = false) →
          let v := modTxn u line fun y => { y with
            snoops := y.snoops.filter (fun z => z != w),
            fwd := y.fwd || (forward && p.fwdData && y.kind == .request),
            gone := if p.lstate = 0 && p.evicting && !w.given then p.src :: y.gone else y.gone }
          exec c s = .next (progress (settle
            (if x.kind = .convoy && w.opcode = opFWD_EXCL then (if p.fwdData then v else convoyServe v line w)
             else noteAnswer v line p.src p.lstate.toNat) line)))) ∧
    (p.opcode = opSTREAM_WRITE → exec (.streamWrite d) s = .next (progress (forEach (List.range (p.length.toNat / 128)) t fun t i =>
      let q := { p with opf := opfS (p.offset + 128 * i), length := 128, payload := slice p.payload (128 * i) 128 }
      if homeStatus t q (q.offset / 128) ≠ stOK then refuse t q (homeStatus t q (q.offset / 128))
      else placeRequest t (q.offset / 128) { d with pkt := q })))

/-- Hot lines (R212-R218). HOT_RUN_SERVE with an empty queue lets the line return to normal service; with no transaction under way it serves the
request at the head by its kind: plain, Shared or convoy. TOKEN_LAPSE: a token whose 1 ms is over is outstanding no more. -/
def Obligations.HotLinesServeTheirRuns : Prop :=
  ∀ (s : State) (line : Nat), live s = true →
    ((lctl s line).hot = true →
      ((lctl s line).queue = [] → exec (.hotRunServe line) s = .next (progress (settle (exitHot s line) line))) ∧
      ∀ r rest, (lctl s line).queue = r :: rest → (lctl s line).active = none →
        let o := r.d.pkt.opcode
        let t := checkDir s line r.d.pkt.src
        (o ∈ [opREAD, opREAD_VOL, opWRITE, opWRITE_MASK, opSTREAM_WRITE] → exec (.hotRunServe line) s = .next (progress (servePlain t line r))) ∧
        (o = opTAKE_SHARED → exec (.hotRunServe line) s = .next (progress (serveShared t line r))) ∧
        (o = opTAKE_EXCL ∨ o = opATOMIC → exec (.hotRunServe line) s = .next (progress (serveConvoy t line r)))) ∧
    ∀ token : BitVec 16, (∃ t ∈ s.homes.tokens, t.line = line ∧ t.token = token ∧ t.lapse ≤ s.now) →
      let rest := s.homes.tokens.filter fun t => !(t.line == line && t.token == token && decide (t.lapse ≤ s.now))
      exec (.tokenLapse line token) s =
        .next (progress (settle (exitHot (noteHome { s with homes := { s.homes with tokens := rest } } (storeOf (line * 128))) line) line))

/-- A C2 packet without an answer is sent again with the same TAG, three times; then its holder is lost: it leaves the record, and a line it owned
is poisoned (R209). A grant whose COMP_ACK is missing brings a RECALL to its requester (R210). -/
def Obligations.HomesAskAgain : Prop :=
  ∀ (s : State) (line : Nat) (x : Txn), live s = true → (lctl s line).active = some x →
    (∀ (holder : Epc) (w : SnoopWait), (x.snoops.find? fun w => w.holder == holder && !w.evict) = some w →
      w.sentAt + fldOf s HOM_TIMEOUT 31 16 * 10000 ≤ s.now →
      (w.sends < 4 → exec (.snoopResendTimeout line holder) s = .next (progress (
        let t := modTxn s line fun t => { t with snoops := t.snoops.map fun y => if y == w then { y with sentAt := s.now, sends := y.sends + 1 } else y }
        homEv (sendC2 t line w.opcode w.holder w.tag w.req) line 19 1))) ∧
      (4 ≤ w.sends → exec (.snoopResendTimeout line holder) s = .next (progress (
        let owner : Bool := recordedOwner s line holder || (x.kind == .convoy && w.opcode == opFWD_EXCL)
        let t := modTxn s line fun t => { t with snoops := t.snoops.filter fun y => y != w }
        let t := cohErr (lineFault (if owner then poisonAndForget t line else dropHolder t line holder) 0x0302 3 line 0xFF 0 holder.toNat) 3 holder
        let t := modTxn t line fun t => { t with grants := t.grants.filter fun g => !(g.who == holder && g.recalled) }
        settle (convoyServe t line w) line)))) ∧
    ∀ (member : Epc) (g : GrantWait), (x.grants.find? fun g => g.who == member && !g.recalled) = some g →
      g.at_ + fldOf s HOM_TIMEOUT 15 0 * 10000 ≤ s.now →
      let r := snoopAll s line opRECALL [member]
      exec (.grantCheckTimeout line member) s = .next (progress (modTxn r.1 line fun t => { t with
        snoops := t.snoops ++ r.2, grants := t.grants.map fun y => if y == g then { y with recalled := true } else y }))

/-- Mirrored changes (R185-R187, R199). TWIN_MIRROR_RECEIVE of a line's data in a standby region writes the line and acknowledges it; in any other
region it is only acknowledged; a directory record replaces the line's in the standby directory. TWIN_MIRROR_ACK: the line's transaction waits
for its change no more. -/
def Obligations.MirroredChangesAreApplied : Prop :=
  ∀ (s : State) (line : Nat), live s = true →
    (∀ (v : Line) (ver : Nat),
      (∀ r, regionOfLine s line = some r → r.standby = true → r.sealed = false →
        exec (.twinMirrorReceive (.data line v ver)) s =
          .next (progress (emit (setDirBits (memWriteLine s line (lineBytes v)) line 0) (.twin .mirrorAck)))) ∧
      (∀ r, regionOfLine s line = some r → r.standby = false →
        exec (.twinMirrorReceive (.data line v ver)) s = .next (progress (emit s (.twin .mirrorAck)))) ∧
      (regionOfLine s line = none → exec (.twinMirrorReceive (.data line v ver)) s = .next (progress (emit s (.twin .mirrorAck))))) ∧
    (∀ (hs : List Epc) (owned : Bool),
      let rest := s.homes.standbyDir.filter fun r => r.line != line
      exec (.twinMirrorReceive (.dir line hs owned)) s = .next (progress (emit { s with homes := { s.homes with
        standbyDir := if hs = [] then rest else { line := line, owned := owned, fwd := false, holders := hs, granted := 0, extAt := 0 } :: rest } }
        (.twin .mirrorAck)))) ∧
    ∀ x, (lctl s line).active = some x → x.mir = true →
      exec (.twinMirrorAck line) s =
        .next (progress (settle (modTxn (homEv s line 24 (s.now - x.since)) line fun t => { t with mir := false }) line))

/-- Patrol scrub (R245): a read of a line of the Loft or the Cellar window that no transaction blocks and no cache owns counts its device's scrub
event and acts on what its check finds; the read of the Cellar's last line ends a pass. -/
def Obligations.ScrubReadsCheckTheirLine : Prop :=
  ∀ (s : State) (line : Nat) (obs : CheckResult), live s = true → bitOf s MEM_SCRUB_CFG 8 = true →
    (inLoft s (line * 128) || inCellar s (line * 128)) = true → (lctl s line).active = none →
    (∀ r, dirRec s line = some r → r.owned = false) → deviceUp s (deviceOf s (line * 128)) = true →
    let dev := deviceOf s (line * 128)
    let t := ev s (1576 + 8 * dev + 5) 1
    let u := match obs with
      | .clean => t
      | .corrected k row => correctedError t line k.val row
      | .uncorrectable k =>
        lineFault (poisonAndForget (errLast (ev (bump64 t (MEM_UE_COUNT k.val) 1) (1576 + 8 * k.val + 4) 1) (line * 128) 1 k.val) line)
          0x0402 2 line k.val 0 0
      | .tagFail =>
        let e := errLast (ev (bump64 t MEM_INTEG_FAIL 1) 1672 1) (line * 128) 2 (deviceOf t (line * 128))
        lineFault (poisonAndForget e line) 0x0403 2 line (deviceOf e (line * 128)) 0 0
      | .counterFail level counterLine =>
        let e := errLast (ev (bump64 t MEM_SEAL_FAIL 1) 1673 1) (line * 128) 3 (deviceOf t (line * 128))
        fault (sealFail e line level) 0x0404 2 (2 + storeOf (line * 128)) (agentEpc e (line * 128))
          (det [(16, 4, counterLine), (20, 1, level)])
    (inCellar u (line * 128) && !inCellar u (line * 128 + 128)) = false →
    exec (.patrolScrubRead line obs) s = .next (progress u)

/-- Memory devices and dies (R61, R240-R243). MEM_TRAINING_DONE: the device comes up, or is lost with the failure of its training.
MEM_DEVICE_LOST: a device that was up is lost. POISON_MARKING_DONE: the tier's lines wait no more. EVAC_RESTORE_DONE: the region's saved lines
are back. DIE_LOST: the die is out of service, the record is written, and what it did ends. -/
def Obligations.DevicesAndDiesComeAndGo : Prop :=
  ∀ (s : State), live s = true →
    (∀ (dev : Fin 12) (stored : Bool), 2 ≤ phase s → deviceExists s dev = true → vget false s.homes.trained dev = false → pwrState s = 0 →
      let t := { s with homes := { s.homes with trained := vset s.homes.trained dev true } }
      ((stored = true → vget false s.homes.storedMem dev = true ∧ bitOf s MEM_TRAIN_CFG 0 = false) →
        exec (.memTrainingDone dev true stored) s = .next (progress (setBitOf (setBitOf
          { t with homes := { t.homes with storedMem := vset t.homes.storedMem dev true } } MEM_STATUS dev true) MEM_TRAIN_STATUS dev stored))) ∧
      exec (.memTrainingDone dev false false) s = .next (progress (deviceLost (setBitOf t MEM_TRAIN_STATUS (12 + dev) true) dev 0x0408))) ∧
    (∀ dev : Fin 12, deviceUp s dev = true → exec (.memDeviceLost dev) s = .next (progress (deviceLost s dev 0x0409))) ∧
    (∀ cellar : Bool, bitOf s MEM_STATUS (if cellar then 13 else 12) = true → tierTrained s cellar = true →
      let t := setBitOf s MEM_STATUS (if cellar then 13 else 12) false
      exec (.poisonMarkingDone cellar) s = .next (progress (forEach (waitingLines t) t settle))) ∧
    (∀ i : Fin 16384, bitOf s MEM_STATUS 14 = true → bitOf s MEM_STATUS 12 = false → tierTrained s false = true →
      (validRegions s).contains i.val = true →
      let t := forEach (s.homes.evacSaved.filter fun l => (regionOf s i).holds (l * 128)) s restoreLine
      exec (.evacRestoreDone i) s = .next (progress (if t.homes.evacSaved = [] then setBitOf t MEM_STATUS 14 false else t))) ∧
    ∀ d : Die, dieDead s d = false →
      let t := { s with res := { s.res with deadDies := s.res.deadDies ++ [d] } }
      exec (.dieLost d) s = .next (progress (updateService (dieEffects
        (fault t 0x0701 (if d = .hearth then 4 else 3) 13 (myEpc t 0) (det [(16, 1, dieNum d)])) d)))

/-! ## The module register space as commands (R6-R18, R45, R80, R90-R92, R252, R283, R348, R367, R371, R408-R418, R422-R428, R449, R453, R460, R470-R474) -/

/-- Writes that store (R12, R90, R460, R474): IDN_SCRATCH, a lane's LNK_LANE_EYE_CTRL with no reserved encoding (with MANUAL at 1 the result's
VALID goes to 0), the event of a view slot, and by I3C a 64-bit register as one value. A write's 32-bit value reaches the writable fields alone. -/
def Obligations.WritesReachTheirFields : Prop :=
  (∀ (s : State) (p : Path) (v : BitVec 64), v.toNat < 2 ^ 32 → MayPut s p IDN_SCRATCH v.toNat →
    exec (.registerWrite p (BitVec.ofNat 26 IDN_SCRATCH) 4 v) s = .next (progress (setFld (hostTouch s p) IDN_SCRATCH 31 0 v.toNat))) ∧
  (∀ (s : State) (p : Path) (n : LaneNo) (v : Word), MayPut s p (LNK_LANE_EYE_CTRL n) v.toNat →
    10 ≤ bits v.toNat 7 2 → bits v.toNat 7 2 ≤ 40 → bits v.toNat 25 24 ≤ 2 →
    let r := LNK_LANE_EYE_CTRL n
    let t := setFld (setFld (setFld (setFld (setFld (hostTouch s p) r 0 0 (bits v.toNat 0 0)) r 7 2 (bits v.toNat 7 2))
      r 15 8 (bits v.toNat 15 8)) r 23 16 (bits v.toNat 23 16)) r 25 24 (bits v.toNat 25 24)
    exec (.eyeCtrlWrite p n v) s = .next (progress (if bit v.toNat 0 then setBitOf t (LNK_LANE_EYE_RESULT n) 18 false else t))) ∧
  (∀ (s : State) (p : Path) (k : Fin 64) (e : BitVec 12), MayPut s p (CNT_SLOT_CFG k) e.toNat →
    exec (.slotEventWrite p k e) s = .next (progress (setFld (hostTouch s p) (CNT_SLOT_CFG k) 11 0 e.toNat))) ∧
  ∀ (s : State) (v : BitVec 64), MayPut s .i3c (SEC_W_BUF 3) v.toNat →
    exec (.i3cWrite8 (BitVec.ofNat 32 (SEC_W_BUF 3)) v) s =
      .next (progress (setFld (setFld s (SEC_W_BUF 3) 31 19 (bits v.toNat 31 19)) (SEC_W_BUF 3 + 4) 7 0 (bits (v.toNat / 2 ^ 32) 7 0)))

/-- Accesses that have no effect but their error (R9-R11, R18): a misaligned one or one of another size, a write of a word where no register is,
and a direct write of a field that only Clasp changes, each recorded by its kind in IDN_ACCESS_ERR; a read outside a path's view reads zero. -/
def Obligations.RefusedAccessesAreRecorded : Prop :=
  ∀ (s : State) (p : Path) (off size v : Nat),
    (islandOnly s = false ∨ blockOf off = 0 ∨ blockOf off = 2) →
    (off % size ≠ 0 ∨ (size ≠ 4 ∧ size ≠ 8) →
      mrsWrite s p off size v = (accessErr s p off 1, false) ∧ mrsRead s p off size = (0, accessErr s p off 1, false)) ∧
    (off % 4 = 0 → findReg s.part.hz7134 off = none →
      mrsWrite s p off 4 v = (accessErr s p off 0, false) ∧ mrsRead s p off 4 = (0, accessErr s p off 0, false)) ∧
    (∀ r is, off % 4 = 0 → findReg s.part.hz7134 off = some (r, is, 0) →
      ((∃ f ∈ r.fields, f.word = 0 ∧ f.acc = .rwc) → pathProposes s p off = true →
        mrsWrite s p off 4 v = (accessErr s p off 2, false)) ∧
      (mayRead s p off = false → mrsRead s p off 4 = (0, accessErr s p off 3, true)))

/-- The link registers that act when written (R80, R91, R92): LNK_LANE_ALIGN.MANUAL, SLIP with MANUAL as it is, LNK_DROOP.RESET_MIN, which clears
the site's minimum, and LNK_PORT_CMD.RETRAIN. -/
def Obligations.LinkRegistersAct : Prop :=
  ∀ (s : State) (path : Path),
    (∀ (n : LaneNo) (on : Bool), MayPut s path (LNK_LANE_ALIGN n) (b2n on) →
      exec (.laneAlignManual path n on) s = .next (progress (manualWritten (hostTouch s path) n on))) ∧
    (∀ n : LaneNo, MayPut s path (LNK_LANE_ALIGN n) (2 + fldOf s (LNK_LANE_ALIGN n) 0 0) →
      exec (.slip path n) s =
        .next (progress (slipWritten (manualWritten (hostTouch s path) n (bitOf s (LNK_LANE_ALIGN n) 0)) n))) ∧
    (∀ d i : Fin 4, MayPut s path (LNK_DROOP d i) (2 ^ 31) →
      exec (.droopResetMin path d i) s = .next (progress (wr (hostTouch s path) (LNK_DROOP d i) 0))) ∧
    ∀ p : PortNo, MayPut s path (LNK_PORT_CMD p) 1 → exec (.retrain path p) s = .next (progress (retrain (hostTouch s path) p))

/-- The Hall's registers that act when written (R252, R283): an ADD to a semaphore, which may wake the module; START, STOP, and the list's
address of a context. -/
def Obligations.HallRegistersAct : Prop :=
  ∀ (s : State) (path : Path),
    (∀ (k : Fin 256) (v : Word), MayPut s path (HAL_SEM_ADD k) v.toNat →
      exec (.halSemAdd path k v) s = .next (progress (halSemAdd (wakeRun (hostTouch s path)) k v.toNat))) ∧
    ∀ c : Fin 16,
      (MayPut s path (HAL_CTX_CTRL c) 1 →
        exec (.ctxStart path c) s = .next (progress (ctxStart (hostTouch s path) c)) ∧
        (bitOf (hostTouch s path) (HAL_CTX_CFG c) 10 = false →
          exec (.ctxStart path c) s = .next (progress (setBitOf (hostTouch s path) (HAL_CTX_STATUS c) 3 true)))) ∧
      (MayPut s path (HAL_CTX_CTRL c) 2 → exec (.ctxStop path c) s = .next (progress (ctxStop (hostTouch s path) c))) ∧
      ∀ va : BitVec 64, MayPut s path (HAL_CTX_LIST c) va.toNat →
        let t := hostTouch s path
        exec (.halCtxListWrite path c va) s = .next (progress (
          if ctxState t c = 0 then wr64 t (HAL_CTX_LIST c) (bits va.toNat 47 7 * 128) else setBitOf t (HAL_CTX_STATUS c) 3 true))

/-- The fault registers that act when written (R348, R367): HANDOFF; POP, which removes the oldest queued record while the ring is disabled; TAIL,
unless it passes HEAD; LOST of a source, with which its COUNT and MAX_SEV go to zero. -/
def Obligations.FaultRegistersAct : Prop :=
  ∀ (s : State) (path : Path),
    let t := hostTouch s path
    (MayPut s path FLT_TWIN_CMD 1 → exec (.handoff path) s = .next (progress (startHandoff t))) ∧
    (MayPut s path FLT_QUEUE_POP 1 → exec (.fltQueuePop path) s = .next (progress (
      if bitOf t FLT_RING_CFG 0 then t else noteQueue { t with res := { t.res with queue := t.res.queue.drop 1 } }))) ∧
    (∀ v : Word, MayPut s path FLT_RING_TAIL v.toNat → exec (.fltRingTailWrite path v) s = .next (progress (
      if (rd t FLT_RING_HEAD + 2 ^ 32 - v.toNat) % 2 ^ 32 ≤ 65536 then wr t FLT_RING_TAIL v.toNat else t))) ∧
    ∀ k : Fin 16, MayPut s path (FLT_OVF k) (2 ^ 24) → exec (.fltOvfClear path k) s = .next (progress (wr t (FLT_OVF k) 0))

/-- SEC_W_CMD and CFG_CMD (R371, R381, R391, R408-R418): a window's request, Locket request or key grant goes to Clasp; each command of CFG_CMD
does what its OP names. -/
def Obligations.ClaspAndConfigurationCommands : Prop :=
  ∀ (s : State) (path : Path),
    let t := hostTouch s path
    let me := requesterOf path
    (∀ (w : Fin 5) (count : Byte), 1 ≤ count.toNat → count.toNat ≤ 128 → MayPut s path (SEC_W_CMD w) (1 + 4 * count.toNat) →
      let u := setFld (setFld (setWState t w 1) (SEC_W_STATUS w) 7 3 0) (SEC_W_STATUS w) 15 8 0
      exec (.windowRequest path w count) s = .next (progress (enqueue u (.request w (windowItems t w count.toNat) me)))) ∧
    (∀ (w : Fin 5) (scope : Bool) (part : Byte), MayPut s path (SEC_W_CMD w) (2 + 2 ^ 10 * b2n scope + 2 ^ 11 * part.toNat) →
      exec (.locketRequest path w scope part) s = .next (progress (windowCmd t w 2 0 scope part.toNat me))) ∧
    (∀ w : Fin 5, MayPut s path (SEC_W_CMD w) 3 → exec (.keyGrant path w) s = .next (progress (windowCmd t w 3 0 false 0 me))) ∧
    (MayPut s path CFG_CMD 1 → exec (.stage path) s = .next (progress (stageCmd t))) ∧
    (∀ annex : Bool, MayPut s path CFG_CMD (7 + 16 * b2n annex) → exec (.stageFw path annex) s = .next (progress (stageFwCmd t annex))) ∧
    (∀ reset : Bool, MayPut s path CFG_CMD (2 + 8 * b2n reset) → exec (.commit path reset) s = .next (progress (commitCmd t reset))) ∧
    (MayPut s path CFG_CMD 3 → exec (.confirm path) s = .next (progress (confirmCmd t))) ∧
    (MayPut s path CFG_CMD 4 → exec (.returnCmd path) s = .next (progress (returnCmd t))) ∧
    (MayPut s path CFG_CMD 5 → exec (.readSummary path) s = .next (progress (summaryCmd t false))) ∧
    (MayPut s path CFG_CMD 6 → exec (.clearSummary path) s = .next (progress (summaryCmd t true)))

/-- PWR_CMD and PWR_CAP (R422, R425, R428, R438): RUN wakes; the others wake from Poise and Hush first; an entry is asked for from Run alone; a
reset is asked for from everywhere. I3C writes PWR_CAP as any path does (R460). -/
def Obligations.PowerCommandsAct : Prop :=
  ∀ (s : State) (path : Path),
    let t := hostTouch s path
    let i3c := path == .i3c
    (MayPut s path PWR_CMD 1 → exec (.pwrCmdRun path) s = .next (progress (cmdRun t i3c))) ∧
    (MayPut s path PWR_CMD 3 → exec (.enterStill path) s = .next (progress (startEntry (wakeRun t) 3))) ∧
    (MayPut s path PWR_CMD 4 → exec (.enterVigil path) s = .next (progress (startEntry (wakeRun t) 4))) ∧
    (MayPut s path PWR_CMD 8 → exec (.moduleReset path) s = .next (progress (requestReset (wakeRun t) 5))) ∧
    (∀ w : BitVec 16, MayPut s path PWR_CAP w.toNat → exec (.pwrCapWrite path w) s = .next (progress (setPwr (wr t PWR_CAP w.toNat)
      { t.pwr with capRaised := w.toNat == 0 || (fldOf t PWR_CAP 15 0 != 0 && decide (fldOf t PWR_CAP 15 0 < w.toNat)) }))) ∧
    ∀ v : Word, MayPut s .i3c PWR_CAP v.toNat →
      exec (.i3cWrite4 (BitVec.ofNat 32 PWR_CAP) v) s = .next (progress (capWritten s v.toNat))

/-- The host's and the counters' registers that act when written (R449, R453, R466, R470-R474): an aperture's base in the module's own plane and
its controls; a fence; the notices' tail, unless it passes the head; a snapshot of the slots a path may write; CLEAR of an event the path may
select; CLEAR_ALL; and the chain bits of 32 pairs. -/
def Obligations.HostAndCounterRegistersAct : Prop :=
  ∀ (s : State) (path : Path),
    let t := hostTouch s path
    (∀ (j : Fin 2) (f : Fin 128),
      (∀ (a : Fin 4) (v : BitVec 64), MayPut s path (HST_AP_BASE j f a) v.toNat →
        exec (.hstApBaseWrite path j f a v) s = .next (progress (
          if epcPlane (BitVec.ofNat 24 (v.toNat / 2 ^ 40)) ≠ myPlane t then fnErr t j f 2
          else wr64 t (HST_AP_BASE j f a) (v.toNat / 2 ^ 36 % 2 ^ 28 * 2 ^ 36)))) ∧
      (∀ (a : Fin 4) (v : Word), MayPut s path (HST_AP_CTRL j f a) v.toNat →
        exec (.hstApCtrlWrite path j f a v) s = .next (progress (
          if bit v.toNat 3 && !bitOf t (HST_FN_CFG j f) 14 then fnErr t j f 2 else wr t (HST_AP_CTRL j f a) (v.toNat % 16)))) ∧
      (MayPut s path (HST_FN_FENCE j f) 1 → exec (.hstFnFence path j f) s = .next (progress (
        if bitOf t (HST_FN_FENCE_STATUS j f) 0 then t
        else startFence (wr64 t (HST_FN_FENCE_STATUS j f) 1) (.host j f) (fnSrcs t j f) (some (j, f))))) ∧
      (∀ v : Word, MayPut s path (HST_FN_NOTE_TAIL j f) v.toNat → exec (.hostNoteTailWrite path j f v) s = .next (progress (
        if (rd t (HST_FN_NOTE_HEAD j f) + 2 ^ 32 - v.toNat) % 2 ^ 32 ≤ 256 then wr t (HST_FN_NOTE_TAIL j f) v.toNat else t)))) ∧
    (∀ mask : BitVec 64, MayPut s path CNT_SNAP mask.toNat → exec (.cntSnap path mask) s = .next (progress (snapWrite t path mask.toNat))) ∧
    (∀ e : BitVec 12, MayPut s path CNT_CMD (1 + 4 * e.toNat) → exec (.clear path e) s = .next (progress (
      if maySelect t path e.toNat then cntOp (countGap t) (.clear e.toNat) else t))) ∧
    (MayPut s path CNT_CMD 2 → exec (.clearAll path) s = .next (progress (clearEvery t))) ∧
    ∀ (w : Fin 48) (v : Word), MayPut s path (CNT_CHAIN w) v.toNat →
      exec (.cntChainWrite path w v) s = .next (progress (forEach (List.range 32) (countGap t) fun u b => cntOp u (.chain (32 * w + b) (bit v.toNat b))))

/-- Reads answer by the path they came by (R8, R443, R460, R470): the value that `mrsRead` gives, zero where the island alone is served
and the register is not of it; PWR_COUNTER reads as the local counter's low word and latches the high word for the path's next read of it. The
register window (R45): REG_READ and REG_WRITE of ASIZE bytes at Unit 31 by the source's own view; PARTITION outside it, NOREGION past the space; a
duplicate of a write performed is only checked again (R119). -/
def Obligations.ReadsAndWindowAccessesAnswer : Prop :=
  (∀ (s : State) (path : Path), live s = true →
      let t := hostTouch s path
      (pathThere s path = true →
        (∀ (off : BitVec 26) (size : Nat),
          let r := mrsRead t path off.toNat size
          exec (.registerRead path off size) s = .next (progress (emit r.2.1 (.readData path (BitVec.ofNat 64 r.1))))) ∧
        (∀ (k : Fin 64) (size : Nat),
          let r := mrsRead t path (CNT_LIVE k) size
          exec (.liveRead path k size) s = .next (progress (emit r.2.1 (.readData path (BitVec.ofNat 64 r.1))))) ∧
        (mayRead t path PWR_COUNTER = true →
          exec (.localCounterRead path) s = .next (progress (emit (setPwr t { t.pwr with
            counterLatch := (path, BitVec.ofNat 32 (t.now / 2 ^ 32)) :: t.pwr.counterLatch.filter fun e => e.1 != path })
            (.readData path (BitVec.ofNat 64 (t.now % 2 ^ 32))))))) ∧
      (∀ off : Word,
        (let r := mrsRead s .i3c off.toNat 4
         exec (.i3cRead4 off) s = .next (progress (emit r.2.1 (.readData .i3c (BitVec.ofNat 64 r.1))))) ∧
        (let r := mrsRead s .i3c off.toNat 8
         exec (.i3cRead8 off) s = .next (progress (emit r.2.1 (.readData .i3c (BitVec.ofNat 64 r.1))))))) ∧
  (∀ (s : State) (d : Delivered), live s = true →
      let p := d.pkt
      let t := takeInbox s d
      (p.opcode = opREG_READ →
        (2 ^ 26 ≤ p.offset → exec (.regRead d) s = .next (progress (respond t p stNOREGION 0 0 0 []))) ∧
        (p.offset < 2 ^ 26 →
          let r := mrsRead t (.window p.src) p.offset (2 ^ p.asize)
          exec (.regRead d) s = .next (progress (
            if r.2.2 then respond r.2.1 p stPARTITION 0 0 0 [] else respond r.2.1 p stOK 0 0 0 (leBytes (2 ^ p.asize) r.1))))) ∧
      (p.opcode = opREG_WRITE →
        (2 ^ 26 ≤ p.offset → exec (.regWrite d) s = .next (progress (respond t p stNOREGION 0 0 0 []))) ∧
        (p.offset < 2 ^ 26 →
          let r := mrsWrite t (.window p.src) p.offset (2 ^ p.asize) (leAt p.payload 0 (2 ^ p.asize))
          exec (.regWrite d) s = .next (progress (respond (if d.dup then t else r.1) p (if r.2 then stPARTITION else stOK) 0 0 0 [])))))

/-! ## The Hall (chapters 9 and 10) -/

/-- Dispatch (R248, R249, R251, R281). The fetched command of the context its core chooses: one that fails a check of R281 halts the context with
that error; any other is queued under a number of its own, HAL_CTX_LIST moves on by 128, the dispatch is counted, a FENCE's count starts, and
what may begin begins. The row is the one of the command's opcode and, for DMA, KIND. -/
def Obligations.CommandsAreDispatched : Prop :=
  ∀ (s : State) (c : Fin 16) (l : Line) (i : Instr), live s = true → (hctx s c).fetched = some l → coreChoice s (c % 2) = some c.val →
    ((i = .array c ∧ cOp l = 1) ∨ (i = .vector c ∧ cOp l = 2) ∨ (i = .dmaLoad c ∧ cOp l = 3 ∧ dKind l = 0) ∨
     (i = .dmaStore c ∧ cOp l = 3 ∧ dKind l = 1) ∨ (i = .dmaCopy c ∧ cOp l = 3 ∧ dKind l = 2) ∨ (i = .dmaTakeS c ∧ cOp l = 3 ∧ dKind l = 3) ∨
     (i = .dmaTakeX c ∧ cOp l = 3 ∧ dKind l = 4) ∨ (i = .dmaGive c ∧ cOp l = 3 ∧ dKind l = 5) ∨ (i = .dmaCupOut c ∧ cOp l = 3 ∧ dKind l = 6) ∨
     (i = .dmaCupIn c ∧ cOp l = 3 ∧ dKind l = 7) ∨ (i = .dmaAtomic c ∧ cOp l = 3 ∧ dKind l = 8) ∨ (i = .signal c ∧ cOp l = 4) ∨
     (i = .fence c ∧ cOp l = 5) ∨ (i = .loop c ∧ cOp l = 6) ∨ (i = .tlbInv c ∧ cOp l = 7) ∨ (i = .endCmd c ∧ cOp l = 8)) →
    let va := rd64 s (HAL_CTX_LIST c)
    (dispatchErr s c l ≠ 0 → exec i s = .next (progress (haltCtx s c (dispatchErr s c l) va))) ∧
    (dispatchErr s c l = 0 →
      let k : HCmd := { id := s.hall.nextId, va := BitVec.ofNat 48 va, body := l, inst := instOf c l }
      let t := setHall s { s.hall with nextId := s.hall.nextId + 1, turn := vset s.hall.turn (c % 2) c }
      let t := wr64 (setHctx t c { hctx t c with fetched := none, cmds := (hctx t c).cmds ++ [k] }) (HAL_CTX_LIST c) ((va + 128) % 2 ^ 48)
      let t := ev (ev t 1725 1) (1800 + 4 * c + 1) 1
      let t := if cOp l = 5 then startFence t (.hall c) [hallEpc t] none else t
      exec i s = .next (progress (startFetch (startAll t c true) c none)))

/-- Commands go on (R249, R251, R279, R283, R291). A satisfied wait gives STATE 1. A command that has completed leaves its context with its
SIG_ADD; one that ended with an error halts it first. RELEASE_POINT_REACHED lets commands that waited for it begin. CONTEXT_CONFIG_APPLY waits
for STATE 0. -/
def Obligations.HallCommandsGoOn : Prop :=
  ∀ (s : State) (c : Fin 16), live s = true →
    (∀ l, (hctx s c).fetched = some l → ctxState s c = 2 → waitOk s c l = true → hallOn s = true →
      let t := setCtxState s c 1
      exec (.semaphoreWaitSatisfied c) s = .next (progress (if coreChoice t (c % 2) = some c.val then dispatch t c else t))) ∧
    exec (.releasePointReached c) s = .next (progress (startAll s c true)) ∧
    (∀ id k, findCmd s c id = some k → cmdFinished s c k = true →
      let t := if k.err = 0 then s else haltCtx s c k.err k.va.toNat
      exec (.commandComplete c id) s = .next (progress (startFetch (startAll (removeCmd t c k) c false) c none))) ∧
    ((hctx s c).pendingCfg ≠ [] → ctxState s c ≠ 0 → exec (.contextConfigApply c) s = .next (progress s)) ∧
    ((hctx s c).pendingCfg ≠ [] → ctxState s c = 0 → (hctx s c).cmds = [] →
      let t := forEach (hctx s c).pendingCfg s fun s e => wr s e.1 e.2.toNat
      let u := setHctx (dropTranslations t c) c { hctx t c with pendingCfg := [] }
      rd u (HAL_CTX_PANTRY c) = rd s (HAL_CTX_PANTRY c) → fldOf u (HAL_CTX_CFG c) 7 0 = fldOf s (HAL_CTX_CFG c) 7 0 →
      exec (.contextConfigApply c) s = .next (progress u))

/-- A completed command's SIG_ADD is added to its semaphore, modulo 2^32, and the rest of the semaphores stay; one that ended with an error adds
nothing (R251, R252). -/
def Obligations.CompletedCommandsSignal : Prop :=
  ∀ (s : State) (c : Fin 16) (k : HCmd), s.Canon →
    let sem := ctxSem s c (cby k.body 8 1)
    let t := removeCmd s c k
    (k.err = 0 → cbit k.body 9 0 = true →
      rd t (HAL_SEM sem) = (rd s (HAL_SEM sem) + cby k.body 12 4) % 2 ^ 32 ∧
      ∀ n, n < 256 → n ≠ sem → rd t (HAL_SEM n) = rd s (HAL_SEM n)) ∧
    ((k.err ≠ 0 ∨ cbit k.body 9 0 = false) → ∀ n, n < 256 → rd t (HAL_SEM n) = rd s (HAL_SEM n))

/-- TRANSLATION_WALK_DONE (R274-R276): a walk that has its entry ends; a VALID leaf is cached unless the translations of its context were dropped
since; the DMA commands and the fetch of its context that waited go on with the result. -/
def Obligations.WalksEndInTranslations : Prop :=
  ∀ (s : State) (c : Fin 16) (va : BitVec 48) (w : Walk) (pte : BitVec 128), live s = true →
    (s.hall.walks.find? fun w => w.ctx == c.val && w.va.toNat == va.toNat && w.pte.isSome) = some w → w.pte = some pte →
    let big := w.level == 1
    let leaf := bit pte.toNat 0 && bit pte.toNat 1
    let entry : TlbEntry := { ctx := c, vaPage := if big then va.toNat / 2 ^ 32 else va.toNat / 2 ^ 26, big := big, pte := pte }
    let tlb := if leaf && !w.stale then
        (s.hall.tlb.filter fun u => !(u.ctx == entry.ctx && u.vaPage == entry.vaPage && u.big == entry.big)) ++ [entry]
      else s.hall.tlb
    let t := setHall s { s.hall with walks := s.hall.walks.erase w, tlb := tlb.drop (tlb.length - 8192) }
    let res : WalkResult := (va.toNat / 2 ^ 26, if leaf then some (big, pte) else none)
    exec (.translationWalkDone c va) s =
      .next (progress (startFetch (forEach (hctx t c).cmds t fun s k => runDma s c k.id (some res)) c (some res)))

/-- The array (R255, R258-R261). A pass whose residues agree is added into its bank; one that fails runs again at most twice, then its command ends
with RESIDUE. A spill saves the bank's rows and a restore brings them back; an epilogue writes the tile and frees its bank; a share frame starts
with no use. -/
def Obligations.ArrayPassesAndBanks : Prop :=
  ∀ (s : State), live s = true →
    (∀ r, s.hall.run = some r → s.hall.stopped = false → r.pass < nPasses (runBody s r) →
      let l := runBody s r
      let cost := max (rowsOfTile s l r.tile).2 (colsOfTile s l r.tile).2
      let charged (ok : Bool) : State :=
        setHctx (countPass s r ok) r.ctx { hctx (countPass s r ok) r.ctx with shareUsed := (hctx (countPass s r ok) r.ctx).shareUsed + cost }
      (let q := { r with bank := addPass (charged true) l r, pass := r.pass + 1, tries := 0 }
       let t := setHall (charged true) { (charged true).hall with run := some q }
       exec (.arrayPassEnd true) s = .next (progress (
         if nPasses l ≤ r.pass + 1 then outputTileEnds t q else if (r.pass + 1) % aKP l = 0 then tileBoundary t q else t))) ∧
      (r.tries < 2 →
        let t := ev (halErr (charged false) 1) 1716 1
        let t := setHall t { t.hall with run := some { r with tries := r.tries + 1 } }
        exec (.arrayPassEnd false) s = .next (progress (
          if onceSince t 0x0501 1000000000 then fault (noteSince t 0x0501) 0x0501 1 4 (hallEpc t) (det [(16, 1, r.ctx)]) else t))) ∧
      (2 ≤ r.tries → ∀ k,
        let t := fault (halErr (charged false) 2) 0x0501 3 4 (hallEpc (charged false)) (det [(16, 1, r.ctx)])
        let t := setHall t { t.hall with run := none }
        runCmd t r = some k →
        exec (.arrayPassEnd false) s = .next (progress (chooseOp (setCmd t r.ctx { k with err := 11, fullyIssued := true, finished := true }))))) ∧
    (∀ r, s.hall.spilling = some r →
      let l := runBody s r
      let n := (colsOfTile s l r.tile).2
      let t := forEach (List.range (rowsOfTile s l r.tile).2) (countGap s) fun s i =>
        pWrite s (saveArea (ctxPrio s r.ctx) + i * arrayCols s * 4)
          ((List.range n).flatMap fun j => leBytes 4 (cget (0 : Word) r.bank (bankAt i j)).toNat)
      exec .spillComplete s =
        .next (progress (chooseOp (setHall t { t.hall with spilling := none, spilled := t.hall.spilled ++ [{ r with bank := [] }] })))) ∧
    (∀ r, s.hall.restoring = some r →
      let l := runBody s r
      let bank := (List.range (rowsOfTile s l r.tile).2).foldl (fun b i => (List.range (colsOfTile s l r.tile).2).foldl (fun b j =>
        cset (0 : Word) b (bankAt i j) (BitVec.ofNat 32 (leNat (pRead s (saveArea (ctxPrio s r.ctx) + (i * arrayCols s + j) * 4) 4)))) b) []
      let t := ev (countGap s) 1718 1
      exec .restoreComplete s =
        .next (progress (tileBoundary (setHall t { t.hall with restoring := none, run := some { r with bank := bank } }) { r with bank := bank }))) ∧
    (∀ e, s.hall.epilogue = some e →
      let l := runBody s e
      let t := writeTile (countGap s) l e
      let t := setHall t { t.hall with epilogue := none }
      t.hall.run = none →
      (e.tile + 1 ≠ nTiles t l → exec .epilogueComplete s = .next (progress (chooseOp t))) ∧
      ∀ k, e.tile + 1 = nTiles t l → runCmd t e = some k →
        let u := setCmd (spoilOverlap t (arrayOuts l) (arrayClash l)) e.ctx { k with finished := true }
        exec .epilogueComplete s = .next (progress (match u.hall.run with
          | some r => if nPasses (runBody u r) ≤ r.pass then outputTileEnds u r else u
          | none => chooseOp u))) ∧
    exec .sliceFrameEnd s =
      .next (progress (
        let t := forEach (List.range 16) s fun s c => setHctx s c { hctx s c with shareUsed := 0 }
        setHall t { t.hall with frameAt := t.now }))

/-! ## Collectives (chapter 11) -/

/-- C4 packets at the collective engine (R44, R313, R316, R319, R328, R334). One of no group of the module, or for a role it does not have, is
unroutable; a piece that is not its group's is malformed; an input of a step that is not open here, or was closed, counts as a duplicate; every
other is held, written or forwarded. -/
def Obligations.CollectivePacketsAtTheirRole : Prop :=
  ∀ (s : State) (d : Delivered), live s = true →
    let p := d.pkt
    let g := p.group
    let x := takeHearth (takeInbox s d) d
    let t := x.1
    let period := x.2.1
    let cells := x.2.2
    (p.opcode = opCOLL_PUSH →
      ((gValid t g = false ∨ gLeaf t g = false ∨ 2 < gKind t g) → exec (.collPush d) s = .next (progress (strayInput t d period cells))) ∧
      (gValid t g = true → gLeaf t g = true → gKind t g ≤ 2 →
        (pieceFits t p (gFmtIn t g) = false → exec (.collPush d) s = .next (progress (malformedInput t d period cells))) ∧
        (pieceFits t p (gFmtIn t g) = true → pushOpen t p = false → exec (.collPush d) s = .next (progress (duplicateInput t d period cells))) ∧
        (pieceFits t p (gFmtIn t g) = true → pushOpen t p = true →
          exec (.collPush d) s = .next (progress (holdInput (ev t 1960 1) d period cells))))) ∧
    (p.opcode = opCOLL_PARTIAL → gValid t g = true → gSpine t g = true → gKind t g ≤ 2 → (gLeaves t g).contains p.src = true →
      pieceFits t p 0 = true →
      (stepClosed t g p.step = true → exec (.collPartial d) s = .next (progress (duplicateInput t d period cells))) ∧
      (stepClosed t g p.step = false →
        exec (.collPartial d) s = .next (progress (holdInput (ev (openStep t g p.step) 1962 1) d period cells)))) ∧
    (p.opcode = opCOLL_RESULT → gValid t g = true → p.mcast = false → gOwner t g = true → (gKind t g = 1 ∨ gKind t g = 2) →
      (myChunks t g).contains p.chunk.toNat = true → pieceFits t p (gFmtOut t g) = true →
      let u := dropInput t d period cells
      exec (.collResult d) s = .next (progress (if stepClosed u g p.step then u else ownerResult u p))) ∧
    (p.opcode = opCOLL_A2A → ∀ src dst, memberOf t g p.src = some src → memberOf t g p.dest = some dst → a2aLeaf t p = true →
      p.fmt = 15 → p.piece = 0 → p.strand = false → gRecord t g ≠ 0 → p.length.toNat % gRecord t g = 0 → stepClosed t g p.step = false →
      exec (.collA2a d) s = .next (progress (
        if gCountMode t g then countRecords t d period cells dst (p.length.toNat / gRecord t g)
        else padRecords t d period cells src dst (p.length.toNat / gRecord t g)))) ∧
    (p.opcode = opREVOKE →
      let i := takeInbox s d
      gValid i g = true → ¬(p.src = myEpc i 12 ∧ p.mcast = true) →
      let u := noticeAll (ev (bump64 i COL_REVOKES 1) 1972 1) (gPart i g) g 0x11 p.step.toNat p.chunk.toNat 0
      (actsSteward u g = true → exec (.revoke d) s = .next (progress (revokeAtSteward u p))) ∧
      (actsSteward u g = false → fromSteward u p = true → stepClosed u g p.step = false →
        exec (.revoke d) s = .next (progress (revokeHere u g p.step p.chunk))))

/-- COLL_COUNT by its KIND, with FMT 15 (R325, R326, R329, R330, R332): a leaf's votes and an owner's vote are counted once and commit a step
that is complete; COMMITTED and RELEASE act when they come from the steward or its twin; arrivals are summed to MEMBERS. Another FMT is
malformed. -/
def Obligations.CountMessagesByKind : Prop :=
  ∀ (s : State) (d : Delivered), live s = true → d.pkt.opcode = opCOLL_COUNT →
    let p := d.pkt
    let g := p.group
    let t := takeInbox s d
    let kind := leAt p.payload 0 1
    (∀ c : Instr, (c = .vote d ∧ kind = 1) ∨ (c = .committed d ∧ kind = 2) ∨ (c = .arrived d ∧ kind = 3) ∨ (c = .release d ∧ kind = 4) ∨
        (c = .reissue d ∧ kind = 5) ∨ (c = .regather d ∧ kind = 6) ∨ (c = .a2aEnd d ∧ kind = 7) ∨ (c = .a2aCount d ∧ kind = 8) →
      p.fmt ≠ 15 → exec c s = .next (progress (malformedInput t d 0 0))) ∧
    (p.fmt = 15 → 16 ≤ p.length.toNat →
      (kind = 1 → actsSteward t g = true → stepClosed t g p.step = false → gKind t g ≠ 5 →
        let y := tallyOf t g p.step
        (argOf p = 0xFFFFFFFF → (gLeaves t g).contains p.src = true → y.leaves.contains p.src = false →
          exec (.vote d) s =
            .next (progress (commitIfComplete (setTally t { y with leaves := p.src :: y.leaves, votes := y.votes + countOf p }) g p.step))) ∧
        (argOf p < gOwners t g → argOf p ≠ 0xFFFFFFFF → ownerEpc t g (argOf p) = p.src → y.owners.contains (argOf p) = false →
          exec (.vote d) s = .next (progress (commitIfComplete (setTally t { y with owners := argOf p :: y.owners }) g p.step)))) ∧
      (kind = 2 → gValid t g = true → fromSteward t p = true → stepClosed t g p.step = false →
        exec (.committed d) s = .next (progress (commitHere t g p.step))) ∧
      (kind = 3 → actsSteward t g = true → stepClosed t g p.step = false →
        (gKind t g = 5 ∨ ((gKind t g = 3 ∨ gKind t g = 4) ∧ gSource1 t g = false)) → (gLeaves t g).contains p.src = true →
        (tallyOf t g p.step).arrivedFrom.contains p.src = false →
        let y := tallyOf t g p.step
        let y := { y with arrivedFrom := p.src :: y.arrivedFrom, arrived := y.arrived + countOf p }
        let u := setTally t y
        exec (.arrived d) s = .next (progress (if y.arrived = gMembers u g then releaseStep u g p.step else u))) ∧
      (kind = 4 → gValid t g = true → fromSteward t p = true → stepClosed t g p.step = false → gKind t g = 5 → gLeaf t g = true →
        exec (.release d) s = .next (progress (barrierHere t g p.step))) ∧
      (kind = 5 → gValid t g = true → (gLeaf t g = true ∨ gSpine t g = true) → stepClosed t g p.step = false → gKind t g ≤ 2 →
        halfPieces t g p.chunk.toNat p.strand ≠ [] → p.chunk.toNat < gChunks t g → findHalf t g p.step p.chunk p.strand = none →
        let u := { t with coll := { t.coll with sentHalves := t.coll.sentHalves.filter fun h =>
          !(h.g == g && h.step == p.step && h.chunk == p.chunk && h.strand == p.strand) } }
        exec (.reissue d) s = .next (progress (reissueAll u g p.step p.chunk p.strand))) ∧
      (kind = 6 → gValid t g = true → gOwner t g = true → (memberOf t g p.src).isSome = true → (myChunks t g).contains p.chunk.toNat = true →
        ∀ r, stepRec t g p.step = some r → r.published = true →
        let ps := (List.range 16).filter fun q => bit (argOf p) q && decide (0 < pieceElems t g p.chunk.toNat q)
        exec (.regather d) s = .next (progress (beginGathers t (ps.map fun q =>
          { g := g, step := p.step, chunk := p.chunk.toNat, piece := q, member := some p.src, slot := slotNew t g })))) ∧
      (∀ src dst, memberOf t g p.src = some src → memberOf t g p.dest = some dst → a2aLeaf t p = true → stepClosed t g p.step = false →
        (kind = 7 → gCountMode t g = false →
          exec (.a2aEnd d) s =
            .next (progress (padProgress (setA2a t { a2aPair t g p.step src dst with expect := some (countOf p) }) g p.step src dst))) ∧
        (kind = 8 → gCountMode t g = true → a2aTold t g p.step dst = false →
          let u := setA2a t { a2aPair t g p.step src dst with count := some (countOf p) }
          let all : Bool := (List.range (gMembers u g)).all fun i => (a2aPair u g p.step i dst).count.isSome
          exec (.a2aCount d) s = .next (progress (
            if all then
              releaseA2a (tellA2a u g p.step dst 0x09 ((List.range (gMembers u g)).map fun i => ((a2aPair u g p.step i dst).count).getD 0))
                g p.step dst
            else u)))))

/-- The engine's own events (R308, R317-R321, R323, R333, R337): a group's change applies when no step of it is open and is abandoned
COL_TIMEOUT.VOTE after it began; a piece whose inputs are all here passes its check or fails it; an owner whose shard is written votes or writes
its step record; a combiner asks for what it lacks; a step without its votes is revoked; a leaf that loses a member revokes the open steps of
the group, which is degraded. -/
def Obligations.CollectiveTimersAct : Prop :=
  ∀ (s : State) (g : Fin 1024), live s = true →
    (∀ c, (s.coll.changes.find? fun c => c.g == g.val) = some c →
      (openSteps s g = [] →
        let t := forEach c.words s fun s e => wr s e.1 e.2.toNat
        let t := if c.words.any fun w => isMemberWord w.1 then setBitOf t (COL_GSTATE g 2) 2 false else t
        let t := forEach (swappedSeats s c.words) t retireSeat
        exec (.groupChangeApply g) s =
          .next (progress (releaseStarts (noteGState { t with coll := { t.coll with changes := t.coll.changes.erase c } } g) g))) ∧
      (c.since + fldOf s COL_TIMEOUT 31 16 * 10000000 ≤ s.now → c.owner ≠ .commitJob → c.owner ≠ .returnJob →
        let t := fault s 0x0602 0 1 (myEpc s 12) (det [(16, 2, g)])
        exec (.groupChangeAbandon g) s =
          .next (progress (releaseStarts (noteGState { t with coll := { t.coll with changes := t.coll.changes.erase c } } g) g)))) ∧
    (∀ (step chunk : Word) (strand : Bool) (h : Half), findHalf s g step chunk strand = some h →
      (∀ (piece : Fin 16), pieceReady s h piece = true → (∀ x ∈ h.done, x.1 ≠ piece.val) →
        let adds := (h.inputs.filter fun x => x.piece == piece.val).length - 1
        let t := ev (ev s (1964 + combNo h.combiner) 1) (1966 + combNo h.combiner) (adds * pieceElems s g chunk.toNat piece)
        exec (.pieceCombineDone g step chunk strand piece true) s = .next (progress (piecePasses t h piece)) ∧
        exec (.pieceCombineDone g step chunk strand piece false) s = .next (progress (pieceFails t h piece))) ∧
      (let srcs := (halfSources s h.g h.step).filter fun src => lackMask s h src ≠ 0
       max h.firstAt h.reissuedAt + fldOf s COL_TIMEOUT 15 0 * 100000 ≤ s.now → srcs ≠ [] →
       exec (.reissueTimeout g step chunk strand) s = .next (progress (forEach srcs (setHalf s { h with reissuedAt := s.now }) fun s src =>
         sendReissue s h.g h.step h.chunk h.strand src (lackMask s h src) ((memberOf s h.g src).getD 0xFFFF))))) ∧
    (∀ (step : Word) (r : StepRec), stepRec s g step = some r → gOwner s g = true → gKind s g = 2 → r.shardDone = false →
      shardWritten s r = true → openBefore s g r = false →
      exec (.shardRelease g step) s = .next (progress (writeStepRec (setStep s { r with shardDone := true }) g step 1 0xFFFFFFFF))) ∧
    (∀ r : StepRec, openSteps s g = [r] → (∀ t ∈ s.coll.tallies, t.g ≠ g.val) → r.firstAt ≤ s.now → actsSteward s g = true → gKind s g ≠ 5 →
      r.firstAt + fldOf s COL_TIMEOUT 31 16 * 10000000 ≤ s.now →
      exec (.voteTimeout g) s = .next (progress (stewardRevoke s g r.step 0xFFFFFFFF (myEpc s 12)))) ∧
    ∀ i, gValid s g = true → gLeaf s g = true → isLocalSeat s (memberEpc s g i) = true → i < gMembers s g → degraded s g = false →
      (memberPort s g i < 258 → inService s (memberPort s g i) = false →
        (link s (memberPort s g i)).outAt + fldOf s COL_TIMEOUT 15 0 * 100000 ≤ s.now →
        let t := markDegraded (forEach (openSteps s g) s fun s r => revokeToSteward s g r.step 0xFFFFFFFF) g
        exec (.memberLost g i) s = .next (progress (
          if fldOf t FLT_SUSPECT_CFG 20 20 = 1 && !seatRetired t (memberEpc s g i) then proposeSwap t (memberEpc s g i) else t)))

/-! ## Failure handling (chapter 12) -/

/-- The twin's supervision (R237, R341, R342, R344, R348, R350). CONFIRM with no twin port in service declares the twin lost where
TWIN_PRSNT_N is high, and else reads its IDN_PART; takeover clears STANDBY on the synchronised entries once every record is loaded; a handoff
whose lines are quiet goes out and makes its entries STANDBY; a resynchronisation mirrors the marked blocks and ends; a digest that differs is
reported once. -/
def Obligations.TwinSupervision : Prop :=
  ∀ s : State, live s = true →
    (pwrState s = 0 → twinUp s = false → s.res.twin.lost = false → ∀ down, s.res.twin.downAt = some down → down + confirmNs s ≤ s.now →
      (bitOf s PWR_INPUTS 4 = false →
        exec .twinConfirmTimeout s = .next (progress (startTakeover
          (fault (noteActivePath (setTwin s { s.res.twin with lost := true, probeAt := none })) 0x0702 0 5 (twinEpc s 0) 0)))) ∧
      (bitOf s PWR_INPUTS 4 = true → (∀ r ∈ s.e2e.outs, r.agent ≠ .probe) → (∀ t, s.res.twin.probeAt = some t → t ≤ s.now) →
        exec .twinConfirmTimeout s = .next (progress
          (issue s (mkPkt opREG_READ 1 (twinEpc s 31) (myEpc s 0) (opfM IDN_PART 2 0 0 0) []) .probe none)))) ∧
    (s.res.twin.stage = 1 →
      let u := forEach (s.homes.standbyDir.filter fun r => (regionOfLine s r.line).isSome) s loadRecord
      (∀ r ∈ u.homes.standbyDir, regionOfLine u r.line = none) →
      let rs := syncedEntries u
      let u1 := forEach rs u fun s r => wr s (HOM_REGION r.i 0) (setBits (setBits (rd s (HOM_REGION r.i 0)) 23 23 0) 22 22 1)
      (u.res.twin.returning = false →
        let u2 := fault (setTwin u1 { u1.res.twin with stage := 2, returning := false, taken := rs.map Region.i }) 0x0703 3 5
          (myEpc (setTwin u1 { u1.res.twin with stage := 2, returning := false, taken := rs.map Region.i }) 0) (det [(16, 2, rs.length)])
        let u3 := setAlias (setBitOf u2 FLT_STATUS 8 true) true
        exec .takeoverDirectoryLoaded s = .next (progress (forEach (waitingLines u3) u3 settle)))) ∧
    (∀ due rest, s.res.twin.aliasDue = due :: rest → due ≤ s.now →
      exec .aliasBroadcast s = .next (progress (broadcastAlias (setTwin s { s.res.twin with aliasDue := rest })))) ∧
    (s.res.twin.handingOff = true → twinUp s = true → handoffQuiet s = true →
      let rs := ((validRegions s).map (regionOf s)).filter (handRegion s)
      let gone (l : Nat) : Bool := rs.any fun r => r.holds (l * 128)
      let recs := s.homes.dir.filter fun r => gone r.line
      let u := forEach recs (emit s (.twin .handoff)) fun s r => setDirBits s r.line 0
      let u := { u with homes := { u.homes with dir := u.homes.dir.filter (fun r => !(gone r.line)), standbyDir := u.homes.standbyDir ++ recs } }
      let u := forEach rs (noteDir (noteDir u 0) 1) fun s r => setBitOf s (HOM_REGION r.i 0) 23 true
      let u := setTwin u { u.res.twin with handingOff := false, stage := 0, taken := [] }
      let u := if aliasActive u then setAlias (setBitOf u FLT_STATUS 8 false) false else u
      u.res.twin.handingOff = false →
      exec .handoffComplete s = .next (progress (pwrProgress
        (if u.pwr.target = 5 || u.pwr.target = 6 then setPwr u { u.pwr with handedOver := true } else u)))) ∧
    exec .twinHandoffReceive s =
      .next (progress (startTakeover (setTwin s { s.res.twin with syncAtLoss := !s.res.twin.peerResync && !s.res.twin.mismatch }))) ∧
    (bitOf s FLT_STATUS 10 = true → twinUp s = true →
      (∀ e ∈ s.homes.lines, e.2.active.isSome = true → s.res.twin.changeMap.contains (e.1 / 8192) = false) →
      let u := forEach s.res.twin.changeMap s fun s b => forEach (blockLines s b) s fun s l =>
        homEv (emit s (.twin (.mirror (.data l (memLine s l) (lineVersion s l))))) l 18 1
      let u := forEach (u.homes.dir.filter fun r => twinnedHere u r.line) u fun s r => emit s (.twin (.mirror (.dir r.line r.holders r.owned)))
      let u := setFld (setTwin u { u.res.twin with changeMap := [] }) FLT_RESYNC 19 0 0
      exec .resyncDone s = .next (progress (fault0 (emit (setBitOf u FLT_STATUS 10 false) (.twin .resyncEnd)) 0x0705 0 5))) ∧
    (∀ started, exec (.resyncSignalReceive started) s = .next (progress (setTwin s { s.res.twin with peerResync := started }))) ∧
    ∀ d : BitVec 256, (d ≠ myDigest s → s.res.twin.mismatch = false → hasTwinned s = true →
        exec (.twinDigestReceive d) s = .next (progress (fault0 (setTwin s { s.res.twin with mismatch := true }) 0x0306 3 5))) ∧
      (d = myDigest s → s.res.twin.mismatch = false →
        exec (.twinDigestReceive d) s = .next (progress (setTwin s { s.res.twin with mismatch := false })))

/-- Foresight and the fault records (R354, R360, R362, R363, R365). The oldest window that has ended is scored, port by port; the oldest record the ring has
room for that none of its own source precedes goes to the ring in a WRITE_MASK of its 32 bytes, again 1 ms after one that failed; the summary
block takes the waiting records at most once in 10 s, the newest 64 of all. -/
def Obligations.FaultRecordsReachRingAndSummary : Prop :=
  ∀ s : State, live s = true →
    (let w := fldOf s FLT_WINDOW 15 0 * 1000000
     let k := min s.res.nextWindow (s.now / max w 1)
     w ≠ 0 → (k + 1) * w ≤ s.now →
     let all := s.res.lates
     let ch := charges s ((k + 1) * w)
     let part (p : Nat) : List (Nat × Nat) :=
       ((all.filter fun a => a.port == p && a.stamp / w == k).map fun a => if a.n ≤ 1 then (0, 1) else (lateRank all a, a.n - 1)) ++
       ((ch.filter fun c => memberPort s c.1.g c.2 == p).map fun _ => (1, 1))
     let u := forEach (allPorts s) s fun s p => scorePort s p (if isDownPort s p then part p else [])
     let u := forEach ch u fun s e => match stepRec s e.1.g e.1.step with
       | some r => setStep s { r with late := r.late ++ [e.2] }
       | none => s
     exec .windowEvaluate s = .next (progress { u with res := { u.res with
       nextWindow := k + 1, lates := u.res.lates.filter fun a => decide ((k + 1) * w ≤ a.stamp) || (stepRec u a.g a.step).isSome } })) ∧
    (bitOf s FLT_RING_CFG 0 = true → s.res.ringWrite = none → ∀ r, drainChoice (ringFree s) [] s.res.queue = some r →
      let a := rd64 s FLT_RING_BASE + 32 * (rd s FLT_RING_HEAD % 65536)
      let p := { mkPkt opWRITE_MASK 1 (myEpc s 1) (myEpc s 0) (opfM (a / 128 * 128) 0 0 0 0)
        (leBytes 16 ((2 ^ 32 - 1) * 2 ^ (a % 128)) ++ splice (List.replicate 128 0) (a % 128) (recBytes r)) with regionKey := regionKeyAt s a }
      let t := issue { s with res := { s.res with ringWrite := some r, ringRetryAt := 0 } } p .ring none
      (s.res.ringRetryAt = 0 → exec .faultQueueDrain s = .next (progress t)) ∧
      (s.res.ringRetryAt ≠ 0 → s.res.ringRetryAt ≤ s.now → exec .ringWriteRetry s = .next (progress t))) ∧
    (s.res.summaryPend ≠ [] → (∀ t, s.res.summaryAt = some t → t + 10000000000 ≤ s.now) →
      let u := writeSummary s ((s.res.summary ++ s.res.summaryPend).drop ((s.res.summary ++ s.res.summaryPend).length - 64))
      exec .faultSummaryWrite s = .next (progress { u with res := { u.res with summaryPend := [], summaryAt := some u.now } }))

/-! ## Security and configuration (chapters 13 and 14) -/

/-- Clasp's queue, its Lockets and its deliveries (R372, R378, R383, R393). The head of the queue is validated in its order; a Locket is refused to a window
that may not ask for it and waits for the start sequence and its rate; a request not begun in 2 s ends in its own result; a key goes to each
end point as ten WRITEs and one flagged WRITE_MASK; the start sequence goes on in order. -/
def Obligations.ClaspServesItsQueue : Prop :=
  ∀ s : State, live s = true →
    (∀ w items by_ rest, s.sec.queue = .request w items by_ :: rest →
      exec .claspRequestValidated s = .next (progress (takeRequest (popQueue s) w items))) ∧
    (∀ items gs rest, s.sec.queue = .swap items gs :: rest →
      exec .claspRequestValidated s = .next (progress (takeRequest (popQueue s) 5 items))) ∧
    (∀ w scope p nonce start rest, s.sec.queue = .locket w scope p nonce start :: rest →
      ((w = 4 ∨ (w = 3 ∧ scope = true)) → exec .claspRequestValidated s = .next (progress (refuseReq (popQueue s) w 5 0))) ∧
      (w ≠ 4 → ¬(w = 3 ∧ scope = true) → areaOk s (windowBuf s w) (2 ^ 19) = false →
        exec .claspRequestValidated s = .next (progress (refuseReq (popQueue s) w 3 0))) ∧
      (w ≠ 4 → ¬(w = 3 ∧ scope = true) → areaOk s (windowBuf s w) (2 ^ 19) = true → bitOf s SEC_STATUS 8 = true → maySign s = true →
        exec .claspRequestValidated s = .next (progress
          (noteSigning (setWState (popQueue (setSec s { s.sec with signing := some (w, scope, p, nonce, start) })) w 3)))) ∧
      (∀ v : Fin 5, v.val = w → start + 2000000000 ≤ s.now →
        exec (.locketRateTimeout v) s = .next (progress (refuseReq (noteHead (setSec s { s.sec with queue := rest })) w 12 0)))) ∧
    (∀ w t rest, s.sec.queue = .grant w t :: rest → bitOf s SEC_STATUS 8 = true → s.sec.delivery = none →
      exec .claspRequestValidated s = .next (progress (takeGrant (popQueue s) w))) ∧
    (∀ w scope p nonce t, s.sec.signing = some (w, scope, p, nonce, t) →
      let x := makeLocket (setSec s { s.sec with signing := none }) scope p.toNat nonce
      exec .locketSigned s = .next (progress (claspWrite (wr x.2 (SEC_W_LEN w) x.1.length) (windowBuf x.2 w) x.1 w))) ∧
    (∀ (d : Delivery) (e : Epc) (box : BitVec 40) (ek : List Byte), s.sec.delivery = some d → d.sent = 0 →
      d.entries[d.index]? = some (e, box, ek) →
      let x := Config.kemSeal ek (Config.free s.freeIdx)
      let g := Config.gcmSeal x.2 0 [] (leBytes 32 d.key.key.toNat)
      let u := takeFree s
      let bytes := leBytes 2 1 ++ leBytes 2 d.key.job.toNat ++ leBytes 1 d.key.epoch.toNat ++ leBytes 1 d.key.partition.toNat ++ leBytes 2 0 ++
        leBytes 3 (myEpc u 0).toNat ++ leBytes 5 0 ++ slice x.1 0 1088 ++ slice g.1 0 32 ++ leBytes 16 g.2.toNat ++ List.replicate 128 0
      let u := forEach (List.range 10) (setSec u { u.sec with delivery := some { d with sent := 11 } }) fun s n =>
        issue s { mkPkt opWRITE 1 e (myEpc s 0) (opfM (box.toNat + 128 * n) 0 0 0 0) (slice bytes (128 * n) 128) with
          partition := d.key.partition } (.delivery d.index) none
      let flag := leBytes 4 (d.key.job.toNat + d.key.epoch.toNat * 2 ^ 16) ++ List.replicate 124 0
      exec .keyDelivery s = .next (progress (ev (issue u
        { mkPkt opWRITE_MASK 1 e (myEpc u 0) (opfM (box.toNat + 1280) 0 0 0 0) (leBytes 16 255 ++ flag) with
          partition := d.key.partition, flag := true } (.delivery d.index) none) 2038 1))) ∧
    ∀ n : Fin 3, 2 ≤ phase s → s.sec.bootStep = n.val →
      let u := setSec s { s.sec with bootStep := n.val + 1 }
      (n = 0 → let x := draw256 u
        let u := setSec x.2 { x.2.sec with kemSeed := x.1, identity := Config.hkdfIdentity u.part.seed u.part.serial (bitOf u SEC_STATUS 3) }
        exec (.claspBootStep n) s = .next (progress (setBitOf (setBitOf u SEC_STATUS 1 true) SEC_STATUS 8 true))) ∧
      (n = 1 → exec (.claspBootStep n) s = .next (progress (chooseAnnex u))) ∧
      (n = 2 → maySign s = true → let x := makeLocket (noteSigning u) false 0 0
        let u := setSec x.2 { x.2.sec with bootLocket := x.1 }
        exec (.claspBootStep n) s = .next (progress (if twinUp u then twinLocketSend u else u)))

/-- Keys and debug (R388, R389, R394). The twin's Locket is verified, and then the keys of every partition in use go to it; keys that agree
end the wait for them, keys that do not write TWIN_KEY_FAIL; 1 s without them a module draws its own; a debug token is accepted only in Waking
after a power-on reset, for this module and this boot, and destroys every key. -/
def Obligations.KeysAndDebugTokens : Prop :=
  ∀ s : State, live s = true →
    (∀ l : List Byte, twinUp s = true →
      let t := setTwin s { s.res.twin with locketOk := true, peerKem := slice l 256 1184 }
      exec (.twinLocketReceive l) s = .next (progress
        (if sigForm l 5 && Config.twinCertOk (sigKey l) && leAt l 0 4 == 1 && leAt l 240 3 == (twinEpc s 0).toNat && leAt l 16 4 == idnPart s
         then forEach (partsUsed t) t sendKeys else s))) ∧
    (∀ (p : Byte) (check : BitVec 64) (ct wrapped : List Byte) (tag : BitVec 128), s.res.twin.locketOk = true →
      let done (s : State) : State := setSec s { s.sec with keyWait := s.sec.keyWait.filter fun k => k.1.toNat != p.toNat }
      (∀ k, memKey s p.toNat = some k → Config.keyCheck k.enc = check →
        exec (.twinKeyReceive p true check ct wrapped tag) s = .next (progress (done s))) ∧
      (∀ k, memKey s p.toNat = some k → Config.keyCheck k.enc ≠ check →
        exec (.twinKeyReceive p true check ct wrapped tag) s = .next (progress (keyFail (done s) p.toNat))) ∧
      (memKey s p.toNat = none →
        let opened := Config.gcmOpen (Config.kemOpen s.sec.kemSeed ct) 0 [] wrapped tag
        let keys (bs : List Byte) : MemKey := { id := p, enc := BitVec.ofNat 256 (leAt bs 0 32), mac := BitVec.ofNat 256 (leAt bs 32 32) }
        exec (.twinKeyReceive p true check ct wrapped tag) s = .next (progress
          ((opened.map fun bs => if Config.keyCheck (keys bs).enc = check then done (setMemKey s (keys bs)) else keyFail s p.toNat).getD
            (keyFail s p.toNat)))) ∧
      (memKey s p.toNat = none → lowerSeat s = true →
        exec (.twinKeyReceive p false check ct wrapped tag) s = .next (progress (sendKeys (done (makeMemKey s p.toNat)) p.toNat)))) ∧
    (∀ (p : Byte) (t : Nat), (s.sec.keyWait.find? fun k => k.1.toNat == p.toNat) = some (p, t) → t + 1000000000 ≤ s.now →
      exec (.partitionKeyTimeout p) s = .next (progress (keyFail (sendKeys
        (makeMemKey (setSec s { s.sec with keyWait := s.sec.keyWait.erase (p, t) }) p.toNat) p.toNat) p.toNat))) ∧
    ∀ (tok : List Byte) (k : Nat), debugLeft s = some k → phase s = 0 → bitOf s PWR_RESET_CAUSE 0 = true → bit s.part.fuse.toNat 0 = false →
      let u := setJobKeys s []
      let u := setSec u { u.sec with memKeys := [], keyMismatch := [], kemSeed := 0,
                                     identity := Config.hkdfIdentity u.part.seed u.part.serial true }
      let u := { u with part := { u.part with fuse := BitVec.ofNat 32 (setBits u.part.fuse.toNat (16 + k) (16 + k) 1) } }
      exec (.debugToken tok) s = .next (progress
        (if sigValid tok 6 (fwAccepted s) = true ∧ (sigBody tok).length = 12 ∧ leAt (sigBody tok) 0 8 = s.part.serial.toNat ∧
            leAt (sigBody tok) 8 4 = s.cfg.boots.toNat
         then fault0 (setBitOf u SEC_STATUS 3 true) 0x0807 3 11 else s))

/-- Configuration jobs end in their results (R408-R411, R413, R414, R418). Staging writes the slot, checks what it wrote and sets the slot's
state; firmware goes to the slot not running once its signature and its floor hold; a commit with an image that passes its checks starts its
job, or with RESET is applied by the reset it asks for; 30 s without a failing event end probation, and a port out of service for 1 s that the
configuration names ends it the other way; the summary is copied to memory or emptied. -/
def Obligations.ConfigurationJobsEnd : Prop :=
  ∀ s : State, live s = true →
    (cfgState s = 1 → s.cfg.roles.stgState = 1 →
      let img := areaBytes s (cfgBuf s) s.cfg.stageLen
      let u := nvmWrite s (cfgSlotAt s.cfg.roles.staged) img
      let cur := match slotImage u u.cfg.roles.current with | some i => imgVersion i | none => 0
      (let v := nvmError u
       let v := setCfgState (setResult (setRoles v { v.cfg.roles with stgState := 3 }) 15 0) 0
       exec (.stagingComplete true) s = .next (progress (showRoles (fault v 0x0904 0 11 (myEpc v 0) (det [(16, 1, 15)]))))) ∧
      (let chk := if (imageCheck u img false).1 = 1 ∧ imgVersion img ≤ cur then (5, 0) else imageCheck u img false
       let v := setCfgState (setResult (setRoles u { u.cfg.roles with stgState := if chk.1 = 1 then 2 else 3 }) chk.1 chk.2) 0
       exec (.stagingComplete false) s = .next (progress (showRoles
         (if chk.1 = 1 then fault0 v 0x0903 0 11 else fault v 0x0904 0 11 (myEpc v 0) (det [(16, 1, chk.1)])))))) ∧
    (cfgState s = 1 → s.cfg.roles.stgState ≠ 1 →
      let kind := if s.cfg.fwAnnex then 2 else 1
      let running := if s.cfg.fwAnnex then fldOf s SEC_STATUS 7 6 else fldOf s SEC_STATUS 5 4
      let slot := 2 * (kind - 1) + (if running = 1 then 1 else 0)
      let size := if kind = 1 then 0x80000 else 0x2000000
      let img := areaBytes s (cfgBuf s) s.cfg.stageLen
      let u := setCfgState s 0
      exec (.stageFwDone true) s = .next (progress (setResult (nvmError u) 15 0)) ∧
      let v := nvmWrite (nvmErase u (fwSlotAt slot) (fwSlotAt slot + size)) (fwSlotAt slot) img
      exec (.stageFwDone false) s = .next (progress
        (if areaOk u (cfgBuf u) img.length = false ∨ size < img.length then setResult u 6 0
         else if fwBad u kind img = 0 then setResult (setCfg v { v.cfg with fwLen := cset 0 v.cfg.fwLen slot img.length }) 1 0
         else if fwBad u kind img = 1 then setResult u 2 0 else setResult u 5 0))) ∧
    (∀ reset rest, s.sec.queue = .commitImage reset :: rest → s.sw.drain = none → s.cfg.job = none →
      let u := popQueue s
      (jobImage u .commit = none → exec .commitApply s = .next (progress (commitFails u 13 0))) ∧
      ∀ img, jobImage u .commit = some img →
        let chk := imageCheck u img (!reset)
        let v := setCfg u { u.cfg with before := u.cfg.roles }
        let v := setRoles v (committedRoles v.cfg.roles .commit true)
        exec .commitApply s = .next (progress
          (if chk.1 ≠ 1 then commitFails u chk.1 chk.2
           else if reset then requestReset (setCfgState (setResult (showRoles v) 1 0) 0) 6
           else if needsReset (imageDiff u (some img)) || creditsDiffer u img then commitFails u 9 0
           else startJob u .commit))) ∧
    (s.cfg.roles.probation = true → s.cfg.job = none → s.cfg.probEnd ≠ 0 →
      (s.cfg.probEnd ≤ s.now → probationVerdict s = 0 → exec .probationPass s = .next (progress (probationEnds s))) ∧
      (∀ p : PortNo, bitOf s CFG_PROBATION 0 = true → s.cfg.probPorts.contains p.val = true → portEnabled s p = true → inService s p = false →
        (link s p).outAt + 1000000000 ≤ s.now →
        exec (.probationPortTimeout p) s = .next (progress (startJob (setCfgState (setResult s 0 0) 4) (.back 1))))) ∧
    (cfgState s = 5 →
      let u := setCfgState s 0
      exec (.summaryOpDone true) s = .next (progress (setResult (nvmError u) 15 0)) ∧
      (u.cfg.summaryClear = true → exec (.summaryOpDone false) s = .next (progress (setResult (fault0 (writeSummary u []) 0x090B 0 11) 1 0))) ∧
      (u.cfg.summaryClear = false → areaOk u (cfgBuf u) 4096 = true →
        exec (.summaryOpDone false) s = .next (progress
          (setResult (claspWrite u (cfgBuf u) (nvmRead u (sumBlockAt (u.res.summarySeq % 16)) 4096) 6) 1 0))))

/-! ## Power states, resets, start-up, inputs and the cap (chapter 15) -/

/-- Power states and wake events (R422-R427). Poise and Hush are entered after their dwell where AUTO allows; any wake event ends them; Still and
Vigil end on their own wake events and hold the others; an entry is abandoned on one that its state accepts; the state is entered once every
cached line is recalled. -/
def Obligations.PowerStatesComeAndGo : Prop :=
  ∀ s : State, live s = true →
    (∀ e : WakeEvent,
      ((pwrState s = 1 ∨ pwrState s = 2) → exec (.wake e) s = .next (progress (wakeRun s))) ∧
      ((pwrState s = 3 ∨ pwrState s = 4) → deepWake e = false →
        exec (.wake e) s = .next (progress (setPwr s { s.pwr with heldWakes := s.pwr.heldWakes ++ [e] }))) ∧
      (pwrState s = 0 → entering s = true → deepWake e = false →
        exec (.wake e) s = .next (progress (setPwr s { s.pwr with heldWakes := s.pwr.heldWakes ++ [e] }))) ∧
      (pwrState s = 0 → entering s = true → deepWake e = true →
        let u := setPwr (setBitOf s PWR_STATUS 10 false) { s.pwr with target := 0, entryStep := 0 }
        exec (.wake e) s = .next (progress (fault0 (if s.pwr.entryStep = 4 then portsUp u else u) 0x0A09 0 13))) ∧
      (pwrState s = 3 → deepWake e = true → ∀ c : Instr, c = .wake e ∨ c = .stillExit e →
        let u := setPwrState s 0
        let u := setPwr u { s.pwr with idleSince := s.now, heldWakes := [] }
        let t := Vector.ofFn fun (i : Fin 12) => decide (4 ≤ i.val) && vget false u.homes.trained i.val
        let u := setBitOf { u with homes := { u.homes with trained := t } } MEM_STATUS 12 true
        exec c s = .next (progress (portsUp (contentLost (setBitOf u MEM_STATUS 14 (u.homes.evacSaved != [])) 0)))) ∧
      (pwrState s = 4 → deepWake e = true → ∀ c : Instr, c = .wake e ∨ c = .vigilExit e →
        let u := resetState s 1 4 (s.homes.dirBits.map (·.1)).contains
        let u := setPwr u { u.pwr with heldWakes := [] }
        exec c s = .next (progress (contentLost (contentLost (setBitOf u MEM_STATUS 14 (u.homes.evacSaved != [])) 0) 1)))) ∧
    (let u := pwrProgress s
     entering u = true → u.pwr.entryStep = 4 → noneCached u (fun _ => true) = true →
      exec .powerStateEntered s = .next (progress (enterDeep u))) ∧
    (pwrState s = 0 → s.pwr.target = 0 → (autoIdle s = 1 ∨ autoIdle s = 2) → poiseReady s = true → idleFrom s + poiseDwell s ≤ s.now →
      let u := setPwrState s 1
      let u := ev (setPwr u { s.pwr with idleSince := s.now }) 8 1
      exec .poiseEntry s = .next (progress (if u.pwr.heldWakes = [] then u else wakeRun (setPwr u { u.pwr with heldWakes := [] })))) ∧
    (pwrState s = 1 → autoIdle s = 2 → hushReady s = true → idleFrom s + hushDwell s ≤ s.now →
      let u := forEach ((allPorts s).filter (inService s)) s fun s p =>
        sendControl (setLink s p { link s p with stopTx := true, stopHush := true }) p
      exec .hushEntry s = .next (progress (ev (setPwrState u 2) 9 1)))

/-- Resets, trips and the phases of start-up (R421, R437-R441, R488). Power-on reset, a lockout and the loss of PWRGOOD give every domain its
Reset values; a thermal trip records itself and powers down, and its restart is a module reset; a domain's reset writes DOMAIN_RESET and its
crossing resumes; each phase ends by starting the next; Serving that comes late is reported once. -/
def Obligations.ResetsTripsAndPhases : Prop :=
  ∀ s : State,
    exec .powerOnReset s = .next (powerOn s) ∧
    (s.pwr.off = false → exec .undervoltageLockout s = .next (switchOff s) ∧ exec .overvoltageLockout s = .next (switchOff s)) ∧
    (s.pwr.off = false → s.pwr.dark = true → bitOf s PWR_INPUTS 0 = true → exec .thermalRestart s = .next (resetState s 0 3 fun _ => false)) ∧
    (live s = true →
      (∀ d : Die,
        (s.pwr.tripped = true → exec (.thermalTrip d) s = .next (progress (setPwr s { s.pwr with dark := true }))) ∧
        (s.pwr.tripped = false →
          let u := fault s 0x0A08 4 13 (myEpc s 0) (det [(16, 1, dieNum d)])
          exec (.thermalTrip d) s = .next (progress (setPwr u { u.pwr with tripped := true, dark := true })))) ∧
      (∀ d : Domain,
        (domainExists s d = true →
          let u := setPwr s { s.pwr with inReset := d :: s.pwr.inReset.filter (· ≠ d) }
          exec (.internalDomainReset d) s =
            .next (progress (fault (domainEffects u d) 0x0A05 1 13 (myEpc u 0) (det [(16, 1, domainNum d)])))) ∧
        (let u := setPwr s { s.pwr with inReset := s.pwr.inReset.filter (· ≠ d) }
         exec (.crossingResume d) s = .next (progress (if d = .hallEngines || d = .hallArray then hallKick u else u)))) ∧
      (pwrState s = 0 →
        (phase s = 0 →
          let u := setBitOf (setBitOf s SEC_STATUS 0 true) HAL_STATUS 0 (!dieDead (setBitOf s SEC_STATUS 0 true) .hall)
          let u := wr u COL_STATUS (if dieDead u .hearth then 0 else 7)
          exec .phaseEnd s = .next (progress (notePhase (setPwr u { u.pwr with tripped := false }) 0))) ∧
        (phase s = 1 →
          let u := setBitOf (setBitOf (readConfig (chooseClasp s)) MEM_STATUS 12 true) MEM_STATUS 13 true
          exec .phaseEnd s = .next (progress (notePhase (forEach (allPorts u) u bringUpPort) 1))) ∧
        (phase s = 2 → tierTrained s false = true → tierTrained s true = true → exec .phaseEnd s = .next (progress (notePhase s 2))) ∧
        (phase s = 3 → exec .phaseEnd s = .next (progress (notePhase (if twinUp s then sendDigest s else s) 3))) ∧
        (phase s = 4 → bitOf s MEM_STATUS 12 = false → bitOf s MEM_STATUS 13 = false → floorUp s = true →
          exec .phaseEnd s = .next (progress (startServing s)))) ∧
      (phase s = 4 → floorUp s = false → s.pwr.lateSent = false → s.pwr.startAt + 1200000000 ≤ s.now →
        exec .startupLate s = .next (progress (fault0 (setPwr s { s.pwr with lateSent := true }) 0x0A07 3 13))))

/-- Inputs and the power cap (R428-R434). A new level of an input is noted and acts, unless the input is damped; in Off only a rise of PWRGOOD
acts; an input active for 10 s is reported once; damping ends 1 s after its last three changes; CAP_LOW_N throttles and its release ends
that; a measured power above the cap applies one measure more, and a raised cap lets one go. -/
def Obligations.InputsAndCapAct : Prop :=
  ∀ s : State,
    (∀ (i : Sys2Proof.Input) (active : Bool),
      (s.pwr.off = true → i = .pwrgood → active = true → exec (.inputAccept i active) s = .next (setBitOf (powerOn s) PWR_INPUTS 0 true)) ∧
      (s.pwr.off = true → ¬(i = .pwrgood ∧ active = true) → exec (.inputAccept i active) s = .next s) ∧
      (s.pwr.off = false → bitOf s PWR_INPUTS (inputBit i) ≠ active →
        ((inputOf s i).damped = false ∨ (inputOf s i).lastChange + 10000000 ≤ s.now ∨ (i = .capLow ∧ active = true)) →
        exec (.inputAccept i active) s = .next (inputActs (wakeRun (noteChange s i active)) i active)) ∧
      (s.pwr.off = false → (inputOf s i).damped = true → s.now < (inputOf s i).lastChange + 10000000 → ¬(i = .capLow ∧ active = true) →
        exec (.inputAccept i active) s = .next s)) ∧
    (∀ i : Sys2Proof.Input, s.pwr.off = false → i ≠ .pwrgood → i ≠ .twinPrsnt → bitOf s PWR_INPUTS (inputBit i) = true →
      (inputOf s i).stuckSent = false → (inputOf s i).activeSince + 10000000000 ≤ s.now →
      let u := setInput s i { inputOf s i with stuckSent := true }
      exec (.inputStuck i) s = .next (fault (alertEdge u (setBitOf u PWR_INPUTS (8 + inputBit i) true)) 0x0A03 0 13 (myEpc u 0) (det [(16, 1, inputBit i)]))) ∧
    (∀ i : Sys2Proof.Input, s.pwr.off = false → (inputOf s i).damped = true → (inputOf s i).tripleAt + 1000000000 ≤ s.now →
      exec (.dampingEnd i) s = .next (setInput s i { inputOf s i with damped := false })) ∧
    (live s = true →
      (bitOf s PWR_INPUTS 3 = true → bitOf s PWR_STATUS 6 = false →
        exec .capLowAssert s = .next (progress (fault0 (setPwrBit (countGap s) 6 true) 0x0A02 0 13))) ∧
      (bitOf s PWR_INPUTS 3 = false → bitOf s PWR_STATUS 6 = true →
        exec .capLowRelease s = .next (progress (hallKick (setPwrBit (countGap s) 6 false)))) ∧
      ∀ watts : BitVec 16,
        let u := takeFree (wr s PWR_MEASURE (watts.toNat % 2 ^ 16 + freeVal s % 2 ^ 16 * 2 ^ 16))
        let look (v : State) : State := forEach (allPorts v) v fun s p =>
          if inService s p then setLink s p { link s p with sentBase := evGet s (32 + 4 * p) } else s
        let cap := fldOf s PWR_CAP 15 0
        (pwrState u = 0 → cap ≠ 0 → cap < watts.toNat → exec (.capControl watts) s = .next (progress (look (tighten u watts.toNat)))) ∧
        (pwrState u = 0 → (cap = 0 ∨ watts.toNat ≤ cap) → u.pwr.capRaised = true →
          exec (.capControl watts) s = .next (progress (look (release1 u)))) ∧
        ((pwrState u ≠ 0 ∨ ((cap = 0 ∨ watts.toNat ≤ cap) ∧ u.pwr.capRaised = false)) →
          exec (.capControl watts) s = .next (progress (look u))))

/-! ## The host ports and the counters (chapters 16 and 17) -/

/-- Accesses of a host (R422, R444, R449, R450, R452). Each ends Poise and Hush. A BAR2 access is cut at line boundaries into requests of its
aperture; one that its aperture cannot serve makes none, is recorded, and a read of it answers all ones; an atomic of an allowed size is an ATOMIC
on the port's line, or is applied to the line it holds; another is malformed. -/
def Obligations.HostAccessesMakeRequests : Prop :=
  ∀ (s : State) (j : Fin 2) (fn : Fin 128) (x : BitVec 38), live s = true → linkUp s j = true →
    let u := wakeRun (hostBusy s)
    linkUp u j = true → fnThere u j fn = true →
    let v := hostBusy u
    let st := apFails v j fn x.toNat
    (∀ data : List Byte,
      (st = 0 → exec (.bar2Write j fn x data) s = .next (progress
        (forEach (cutLines (data.length / 128 + 2) x.toNat data.length) v fun s e =>
          ev (issue s (bar2Pkt s j fn e.1 e.2 (some (slice data (e.1 - x.toNat) e.2))) (.bar j fn e.1 e.2 false) (some (j.val, fn.val)))
            (2040 + 4 * j.val) 1))) ∧
      (st ≠ 0 → exec (.bar2Write j fn x data) s = .next (progress
        (forEach (cutLines (data.length / 128 + 2) x.toNat data.length) v fun s e => fnFail s j fn 1 st (apAddr s j fn e.1))))) ∧
    (∀ len : Nat,
      (st = 0 → exec (.bar2Read j fn x len) s = .next (progress
        (forEach (cutLines (len / 128 + 2) x.toNat len) v fun s e =>
          ev (issue s (bar2Pkt s j fn e.1 e.2 none) (.bar j fn e.1 e.2 true) (some (j.val, fn.val))) (2040 + 4 * j.val) 1))) ∧
      (st ≠ 0 → exec (.bar2Read j fn x len) s = .next (progress
        (forEach (cutLines (len / 128 + 2) x.toNat len) v fun s e =>
          fnFail (emit s (.pcieData j fn e.1 (List.replicate e.2 0xFF))) j fn 0 st (apAddr s j fn e.1))))) ∧
    ∀ (c : Instr) (size aop : Nat) (operand compare : BitVec 128),
      (c = .bar2Fetchadd j fn x size operand ∧ aop = 0 ∧ compare = 0) ∨ (c = .bar2Swap j fn x size operand ∧ aop = 7 ∧ compare = 0) ∨
        (c = .bar2Cas j fn x size compare operand ∧ aop = 8) →
      (let ok := (size = 4 ∨ size = 8 ∨ (size = 16 ∧ aop = 8)) ∧ x.toNat % size = 0
       (¬ok → exec c s = .next (progress (hostTlpErr v j false))) ∧
       (ok → st ≠ 0 → exec c s = .next (progress (fnFail v j fn 1 st (apAddr v j fn x.toNat)))) ∧
       (ok → st = 0 → exec c s = .next (progress (hostAtomic v
          { j := j, fn := fn, x := x.toNat, size := size, aop := aop, operand := operand, compare := compare,
            src := fnSrc v j fn (apEpc v j fn x.toNat), dest := apEpc v j fn x.toNat, off := apOff v j fn x.toNat, part := fnPart v j fn,
            key := BitVec.ofNat 32 (rd v (HST_AP_KEY j fn (apOf x.toNat))) }))))

/-- Requests to a host and the port's events (R444, R446, R452, R454, R457, R458, R460, R473). Requests are checked in the order of R454; data from
the host answers the read that asked for it, and 10 ms without it UNREACHABLE; a vector held off goes out once when its time has passed; the
link's loss is recorded, its training sets the rate and width; the controller's address is kept; a capture is complete with value, status and stamp. -/
def Obligations.HostPortsAnswer : Prop :=
  ∀ (s : State) (j : Fin 2), live s = true →
    (∀ d : Delivered, d.pkt.opcode ≠ opCOLL_COUNT → d.pkt.opcode ≠ opTELEMETRY →
      let p := d.pkt
      let t := takeInbox s d
      hostOf t p.dest = some j.val →
      (linkUp t j = false → exec (.hostInboundRequest d) s = .next (progress (inboundRefused t j p stUNREACHABLE))) ∧
      (linkUp t j = true →
        (boundFns t j p.partition.toNat = [] → exec (.hostInboundRequest d) s = .next (progress (inboundRefused t j p stPARTITION))) ∧
        ∀ f fs, boundFns t j p.partition.toNat = f :: fs →
          let k := rd t (HST_FN_INKEY j f)
          let a := (rd64 t (HST_IN_BASE j) + p.offset) % 2 ^ 64
          let v := ev (bump64 (hostBusy t) (HST_IN_COUNT j) 1) (2040 + 4 * j.val + 1) 1
          (k ≠ 0 → k ≠ p.regionKey.toNat → exec (.hostInboundRequest d) s = .next (progress (inboundRefused t j p stKEYFAIL))) ∧
          ((k = 0 ∨ k = p.regionKey.toNat) →
            ((p.opcode = opREAD ∨ p.opcode = opREAD_VOL) → exec (.hostInboundRequest d) s = .next (progress
              (emit (setHosts v { v.hosts with
                  nextN := t.hosts.nextN + 1, inbound := t.hosts.inbound ++ [{ j := j, n := t.hosts.nextN, d := d, at_ := t.now }] })
                (.dmaRead j f t.hosts.nextN a 128)))) ∧
            ((p.opcode = opWRITE ∨ p.opcode = opWRITE_MASK) → exec (.hostInboundRequest d) s = .next (progress
              (respond (if d.dup then v else hostStore v j f a p) p stOK 0 0 0 []))) ∧
            (p.opcode = opSTREAM_WRITE → exec (.hostInboundRequest d) s = .next (progress (hostStore v j f a p)))))) ∧
    (∀ (n : Nat) (i : Inbound),
      (∀ data : List Byte, linkUp s j = true → findInbound (wakeRun (hostBusy s)) j n = some i →
        exec (.hostDmaComplete j n data) s =
          .next (progress (respond (hostBusy (dropInbound (wakeRun (hostBusy s)) i)) i.d.pkt stOK 0 0 0 (slice data 0 128)))) ∧
      (findInbound s j n = some i → i.at_ + 10000000 ≤ s.now →
        exec (.hostDmaTimeout j n) s = .next (progress (respond
          (fault (hostErr (dropInbound s i) j 3) 0x0B02 2 10 i.d.pkt.src (det [(16, 1, j), (17, 5, i.d.pkt.offset)]))
          i.d.pkt stUNREACHABLE 0 0 0 [])))) ∧
    (∀ (fn : Fin 128) (vec : Fin 4), bitOf s (HST_PBA j fn) vec = true → bitOf s (HST_MSIX j fn (4 * vec + 3)) 0 = false →
      cget 0 s.hosts.msixAt ((j.val * 128 + fn.val) * 4 + vec.val) + 1000 ≤ s.now + 1 →
      exec (.msixHoldoffEnd j fn vec) s = .next (progress (msix (setBitOf s (HST_PBA j fn) vec false) j fn vec))) ∧
    (linkUp s j = true →
      let u := wakeRun (hostBusy s)
      (linkUp u j = true → ∀ (on : Bool) (n : BitVec 7), exec (.vfEnable j on n) s = .next (progress
        (setFld (setBitOf u (HST_PORT_STATUS j) 17 on) (HST_PORT_STATUS j) 16 10 n.toNat))) ∧
      (linkUp u j = true → ∀ poisoned : Bool,
        let v := hostErr (hostBusy u) j (if poisoned then 2 else 1)
        (onceSince v (0x0B0400 + j.val) 1000000 = true → exec (.hostTlpErr j poisoned) s = .next (progress
          (fault (noteSince v (0x0B0400 + j.val)) 0x0B04 2 10 (myEpc v 0) (det [(16, 1, j), (17, 1, b2n poisoned)])))) ∧
        (onceSince v (0x0B0400 + j.val) 1000000 = false → exec (.hostTlpErr j poisoned) s = .next (progress v))) ∧
      exec (.hostLinkDown j) s = .next (progress (fault (hostErr (hostLinkGone s j) j 0) 0x0B01 2 10 (myEpc s 0) (det [(16, 1, j)])))) ∧
    (let u := hostLinkGone s j
     let u := forEach ((u.regs.map (·.1)).filter (perstWord j)) u fun s o => wr s o (regReset o).toNat
     let u := forEach ((u.regs.map (·.1)).filter (fnErrWord j)) u fun s o => setFld s o 3 0 0
     let u := setFld (setBitOf u (HST_PORT_STATUS j) 17 false) (HST_PORT_STATUS j) 16 10 0
     exec (.hostPerst j) s =
       .next (progress (setHosts u { u.hosts with msixAt := u.hosts.msixAt.filter fun e => e.1 / 512 != j.val }))) ∧
    (∀ (rate : BitVec 3) (width : BitVec 4), bitOf s PWR_INPUTS (1 + j) = false → bitOf s (HST_PORT_CFG j) 0 = true →
      dieDead s (.port 0) = false → rate ≠ 0 → rate ≠ 7 →
      exec (.hostLinkUp j rate width) s = .next (progress (wakeRun (noteActivePath (hostBusy
        (setFld s (HST_PORT_STATUS j) 8 0 (1 + rate.toNat * 2 + width.toNat % 16 * 16 + b2n (rate.toNat == 6) * 256))))))) ∧
    (∀ addr : BitVec 7, exec (.i3cAddressAssign addr) s = .next { s with hosts := { s.hosts with i3cAddr := addr } }) ∧
    ∀ (slot : Fin 64) r v c d,
      ((captureDue s).cnt.snaps.find? fun r => r.slot == slot.val) = some r → r.taken = some (v, c, d) →
      let u := captureDue s
      let u := setCnt u { u.cnt with snaps := u.cnt.snaps.filter fun q => q.slot != slot.val }
      let u := wr (wr64 u (CNT_SNAP_LO slot) (v % 2 ^ 64)) (CNT_SNAP_HI slot) (v / 2 ^ 64)
      exec (.snapshotCapture slot) s = .next (progress
        (wr64 (wr u (CNT_SNAP_STATUS slot) (r.event + b2n c * 2 ^ 12 + 2 ^ 13 + b2n d * 2 ^ 14)) (CNT_SNAP_STAMP slot) r.stamp))

/-! ## The block as a whole -/

/-- A step runs the command at the front of the queue on the state with the queue's rest, and with none waiting lets a nanosecond pass (the
model's choice: log entry 18). -/
def Obligations.StepRunsTheFrontCommand : Prop :=
  (∀ (s : State) (c : Instr) (rest : List Instr), step { s with pending := c :: rest } = exec c { s with pending := rest }) ∧
  ∀ s : State, s.pending = [] → step s = .next (tick s)

/-- What reset leaves (R15, R48, R92, R142, R438, R443): the words with a Reset value other than zero at it, the counter at zero, every buffer cell free, no
command waiting, the stores in canonical form; power-on reset leaves that and the NVM and fuses as they were; a module reset keeps the counter,
keys, stored training, root counters, BOOTS and NVM. That the sparse stores list nothing is the model's form. -/
def Obligations.ResetLeavesResetValues : Prop :=
  let r := State.reset
  r.Canon ∧ r.pending = [] ∧ r.now = 0 ∧ r.sw.free = 786432 ∧ r.sec.memKeys = [] ∧ rd r LNK_TWIN_STATUS = 3 ∧ rd r LNK_MARGIN_CFG = 0x141E0A0D ∧
  rd r PWR_RESET_CAUSE = 1 ∧ (∀ off, rd r off = (regReset off).toNat) ∧
  (∀ s : State, ∃ t, exec .powerOnReset s = .next t ∧ (∀ off, rd t off = rd r off) ∧ t.now = 0 ∧ t.sec.memKeys = [] ∧ t.sec.jobKeys = [] ∧
    t.homes = r.homes ∧ t.hall = r.hall ∧ t.part = s.part ∧ t.cfg.nvm = s.cfg.nvm ∧ t.cfg.roles = s.cfg.roles ∧ t.pending = s.pending) ∧
  ∀ (s : State) (cause : Nat) (kept : Nat → Bool), s.Canon → cause < 32 →
    let t := resetState s 0 cause kept
    t.now = s.now ∧ t.part = s.part ∧ t.sec.memKeys = s.sec.memKeys ∧ t.sec.jobKeys = [] ∧ t.homes.mem = s.homes.mem ∧ t.homes.roots = s.homes.roots ∧
    t.homes.storedMem = s.homes.storedMem ∧ t.cfg.boots = s.cfg.boots ∧ t.cfg.nvm = s.cfg.nvm ∧ t.hall = {} ∧ t.coll = {} ∧ t.pending = s.pending ∧
    phase t = 0 ∧ pwrState t = 0 ∧ bitOf t PWR_RESET_CAUSE cause = true ∧ rd t SWC_AUDIT_RECLAIMED = rd s SWC_AUDIT_RECLAIMED

/-- HST_ALERT_STATE holds 1 in each bit while the condition of R464 holds, and a read of it that its view allows gives that; STATUS is encoded as R114
says, and a requester takes a reserved value as UNREACHABLE. -/
def Obligations.AlertLevelsAndStatus : Prop :=
  (∀ s : State,
    let a := alertState s
    a < 2 ^ 6 ∧ bit a 0 = bitOf s PWR_STATUS 6 ∧ bit a 1 = (bitOf s PWR_STATUS 7 || bitOf s PWR_STATUS 8) ∧ bit a 2 = bitOf s PWR_STATUS 9 ∧
    (bit a 3 = true ↔ ∃ i, i < 5 ∧ (bitOf s PWR_INPUTS (8 + i) = true ∨ bitOf s PWR_INPUTS (16 + i) = true)) ∧
    (bit a 4 = true ↔ ∃ k, k < 16 ∧ bitOf s (FLT_OVF k) 24 = true) ∧
    (bit a 5 = true ↔ serving s = true ∧ (bitOf s FLT_STATUS 1 = false ∨ bitOf s FLT_STATUS 2 = false))) ∧
  (∀ (s : State) (p : Path), (readWord s p HST_ALERT_STATE).2.2 = false → (readWord s p HST_ALERT_STATE).1 = alertState s) ∧
  (stOK = 0 ∧ stDEFERRED = 1 ∧ stPOISON = 2 ∧ stKEYFAIL = 3 ∧ stNOREGION = 4 ∧ stPARTITION = 5 ∧ stUNREACHABLE = 6 ∧ stRETIRED = 7) ∧
  ∀ p : Packet, (p.status.toNat < 8 → statusOf p = p.status.toNat) ∧ (8 ≤ p.status.toNat → statusOf p = stUNREACHABLE)

/-- Off retains nothing and does nothing (R421): until power comes on or PWRGOOD rises, no command changes any state, and every one goes on. -/
def Obligations.NothingHappensInOff : Prop :=
  ∀ (s : State) (c : Instr), s.pwr.off = true → c ≠ .powerOnReset → c ≠ .inputAccept .pwrgood true → exec c s = .next s

/-- Memory and keys (R42, R240). What a line is written with is what it reads as, and every byte of another line reads as it read; a command
that acts on links, lanes, monitors, inputs and records alone leaves every byte of memory and of the Pantry, and every key, as it was, when no
change of Clasp's or of the configuration is under way. -/
def Obligations.MemoryReadsBackAndStays : Prop :=
  (∀ (s : State) (line : Nat) (bs : List Byte), Memory.wf s.homes.mem = true → 128 ≤ bs.length →
    let t := memWriteLine s line bs
    lineBytes (memLine t line) = bs.take 128 ∧ Memory.wf t.homes.mem = true ∧
    ∀ a, a / 128 ≠ line → cellGet t.homes.mem a = cellGet s.homes.mem a) ∧
  ∀ (s t : State) (c : Instr), settled s → memoryAside c = true → exec c s = .next t →
    (∀ a, cellGet t.homes.mem a = cellGet s.homes.mem a) ∧ (∀ a, cellGet t.hall.pantry a = cellGet s.hall.pantry a) ∧
    t.homes.dirBits = s.homes.dirBits ∧ t.sec.memKeys = s.sec.memKeys ∧ t.sec.jobKeys = s.sec.jobKeys

/-- Every step goes on, and keeps what every state is to keep: the stores' canonical form, the part, the commands behind the front one in their
order, the outputs and free values so far. No command is refused. -/
def Obligations.EveryStepGoesOnAndKeepsForm : Prop :=
  ∀ s : State, s.Canon → ∃ t, step s = .next t ∧ t.Canon ∧ s.part.Same t.part ∧ t.pending = s.pending.tail ∧ s.out <+: t.out ∧ s.freeIdx ≤ t.freeIdx
end

