-- ==== Sys2Proof/Laws/Sparse.lean ====
section
/-! SUPPORT. Sparse tables: a read after a write, and the canonical form kept by every operation; then the same of memory cells. -/

namespace Sys2Proof.Machine

variable {α : Type}

theorem sget_sput_same (d : Nat → α) (k : Nat) (v : α) (m : SMap α) : sget d (sput k v m) k = v := by
  induction m with
  | nil => simp [sput, sget]
  | cons e m ih =>
    obtain ⟨a, w⟩ := e
    simp only [sput]
    split
    · simp [sget]
    · split
      · simp [sget]
      · simp [sget, ih, Ne.symm ‹_›]

theorem sget_sput_other (d : Nat → α) {k j : Nat} (h : k ≠ j) (v : α) (m : SMap α) : sget d (sput k v m) j = sget d m j := by
  induction m with
  | nil => simp [sput, sget, h]
  | cons e m ih =>
    obtain ⟨a, w⟩ := e
    simp only [sput]
    split
    · simp [sget, h]
    · split
      · subst_vars; simp [sget, h]
      · simp only [sget]; split <;> simp_all

theorem sAbove_trans {k j : Nat} {m : SMap α} (h : k ≤ j) (hm : sAbove j m = true) : sAbove k m = true := by
  simp only [sAbove, List.all_eq_true, decide_eq_true_eq] at *
  exact fun e he => lt_of_le_of_lt h (hm e he)

theorem sget_of_above (d : Nat → α) {k : Nat} {m : SMap α} (h : sAbove k m = true) : sget d m k = d k := by
  induction m with
  | nil => rfl
  | cons e m ih =>
    obtain ⟨a, w⟩ := e
    simp only [sAbove, List.all_cons, Bool.and_eq_true, decide_eq_true_eq] at h
    have : a ≠ k := by omega
    simp only [sget, this, if_false]
    exact ih (by simpa [sAbove] using h.2)

theorem sAbove_sput {k j : Nat} {v : α} {m : SMap α} (h : j < k) (hm : sAbove j m = true) : sAbove j (sput k v m) = true := by
  induction m with
  | nil => simpa [sput, sAbove] using h
  | cons e m ih =>
    obtain ⟨a, w⟩ := e
    simp only [sAbove, List.all_cons, Bool.and_eq_true, decide_eq_true_eq] at hm
    have hr : sAbove j m = true := by simpa [sAbove] using hm.2
    simp only [sput]
    split
    · simpa [sAbove, h, hm.1] using hr
    · split
      · simpa [sAbove, h] using hr
      · simpa [sAbove, hm.1] using ih hr

theorem sAbove_sdel {k j : Nat} {m : SMap α} (hm : sAbove j m = true) : sAbove j (sdel k m) = true := by
  induction m with
  | nil => simp [sdel, sAbove]
  | cons e m ih =>
    obtain ⟨a, w⟩ := e
    simp only [sAbove, List.all_cons, Bool.and_eq_true, decide_eq_true_eq] at hm
    have hr : sAbove j m = true := by simpa [sAbove] using hm.2
    simp only [sdel]
    split
    · exact hr
    · simpa [sAbove, hm.1] using ih hr

theorem sAbove_filter {k : Nat} {m : SMap α} (p : Nat × α → Bool) (hm : sAbove k m = true) : sAbove k (m.filter p) = true := by
  simp only [sAbove, List.all_eq_true, decide_eq_true_eq] at *
  exact fun e he => hm e (List.mem_of_mem_filter he)

section
variable [DecidableEq α]

theorem swf_sput (d : Nat → α) {k : Nat} {v : α} (hv : v ≠ d k) {m : SMap α} (h : swf d m = true) : swf d (sput k v m) = true := by
  induction m with
  | nil => simp [sput, swf, sAbove, hv]
  | cons e m ih =>
    obtain ⟨a, w⟩ := e
    simp only [swf, Bool.and_eq_true, decide_eq_true_eq] at h
    simp only [sput]
    split
    · rename_i hk
      simp only [swf, Bool.and_eq_true, decide_eq_true_eq]
      refine ⟨⟨hv, ?_⟩, h⟩
      have := sAbove_trans (Nat.le_of_lt hk) h.1.2
      simpa [sAbove, hk] using this
    · split
      · subst_vars; simp [swf, hv, h.1.2, h.2]
      · simp only [swf, Bool.and_eq_true, decide_eq_true_eq]
        exact ⟨⟨h.1.1, sAbove_sput (by omega) h.1.2⟩, ih h.2⟩

theorem swf_sdel (d : Nat → α) {k : Nat} {m : SMap α} (h : swf d m = true) : swf d (sdel k m) = true := by
  induction m with
  | nil => simp [sdel, swf]
  | cons e m ih =>
    obtain ⟨a, w⟩ := e
    simp only [swf, Bool.and_eq_true, decide_eq_true_eq] at h
    simp only [sdel]
    split
    · exact h.2
    · simp only [swf, Bool.and_eq_true, decide_eq_true_eq]
      exact ⟨⟨h.1.1, sAbove_sdel h.1.2⟩, ih h.2⟩

theorem swf_filter (d : Nat → α) (p : Nat × α → Bool) {m : SMap α} (h : swf d m = true) : swf d (m.filter p) = true := by
  induction m with
  | nil => rfl
  | cons e m ih =>
    obtain ⟨a, w⟩ := e
    simp only [swf, Bool.and_eq_true, decide_eq_true_eq] at h
    simp only [List.filter_cons]
    split
    · simp only [swf, Bool.and_eq_true, decide_eq_true_eq]
      exact ⟨⟨h.1.1, sAbove_filter p h.1.2⟩, ih h.2⟩
    · exact ih h.2

/-- A write keeps the canonical form. -/
theorem swf_sset (d : Nat → α) (m : SMap α) (k : Nat) (v : α) (h : swf d m = true) : swf d (sset d m k v) = true := by
  unfold sset
  split
  · exact swf_sdel d h
  · exact swf_sput d ‹_› h

theorem sget_sdel_other (d : Nat → α) {k j : Nat} (h : k ≠ j) (m : SMap α) : sget d (sdel k m) j = sget d m j := by
  induction m with
  | nil => rfl
  | cons e m ih =>
    obtain ⟨a, w⟩ := e
    simp only [sdel]
    split
    · subst_vars; simp [sget, h]
    · simp only [sget]; split <;> simp_all

theorem sget_sdel_same (d : Nat → α) {k : Nat} {m : SMap α} (h : swf d m = true) : sget d (sdel k m) k = d k := by
  induction m with
  | nil => rfl
  | cons e m ih =>
    obtain ⟨a, w⟩ := e
    simp only [swf, Bool.and_eq_true, decide_eq_true_eq] at h
    simp only [sdel]
    split
    · subst_vars; exact sget_of_above d h.1.2
    · simp only [sget, ‹¬ a = k›, if_false]; exact ih h.2

/-- A read of the key just written gives the value written. -/
theorem sget_sset_same (d : Nat → α) {m : SMap α} (k : Nat) (v : α) (h : swf d m = true) : sget d (sset d m k v) k = v := by
  unfold sset
  split
  · rw [sget_sdel_same d h, ‹v = d k›]
  · exact sget_sput_same d k v m

/-- A write leaves every other key as it was. -/
theorem sget_sset_other (d : Nat → α) (m : SMap α) {k j : Nat} (h : k ≠ j) (v : α) : sget d (sset d m k v) j = sget d m j := by
  unfold sset
  split
  · exact sget_sdel_other d h m
  · exact sget_sput_other d h v m

theorem cget_cset_other (d : α) (m : SMap α) {k j : Nat} (h : k ≠ j) (v : α) : cget d (cset d m k v) j = cget d m j :=
  sget_sset_other _ m h v

theorem cget_cset_same (d : α) {m : SMap α} (k : Nat) (v : α) (h : swf (fun _ => d) m = true) : cget d (cset d m k v) k = v :=
  sget_sset_same _ k v h

end

/-! ## Memory cells -/

theorem Memory.wf_nil : Memory.wf [] = true := rfl

theorem cellSet_wf (m : List Host.Cell) (a : Nat) (b : Byte) (h : Memory.wf m = true) : Memory.wf (cellSet m a b) = true :=
  swf_sset _ m a b h

theorem cellWrite_wf (bs : List Byte) : ∀ (m : List Host.Cell) (a : Nat), Memory.wf m = true → Memory.wf (cellWrite m a bs) = true := by
  induction bs with
  | nil => exact fun m a h => h
  | cons b bs ih => exact fun m a h => ih _ _ (cellSet_wf m a b h)

theorem cellErase_wf (m : List Host.Cell) (lo hi : Nat) (h : Memory.wf m = true) : Memory.wf (cellErase m lo hi) = true :=
  swf_filter _ _ h

theorem cellGet_cellSet_other (m : List Host.Cell) {a c : Nat} (h : a ≠ c) (b : Byte) : cellGet (cellSet m a b) c = cellGet m c :=
  sget_sset_other _ m h b

theorem cellGet_cellSet_same {m : List Host.Cell} (a : Nat) (b : Byte) (h : Memory.wf m = true) : cellGet (cellSet m a b) a = b :=
  sget_sset_same _ a b h

/-- A byte outside the bytes written reads as before. -/
theorem cellGet_cellWrite_outside (bs : List Byte) : ∀ (m : List Host.Cell) (a c : Nat),
    (c < a ∨ a + bs.length ≤ c) → cellGet (cellWrite m a bs) c = cellGet m c := by
  induction bs with
  | nil => exact fun m a c _ => rfl
  | cons b bs ih =>
    intro m a c h
    simp only [List.length_cons] at h
    rw [cellWrite, ih _ _ _ (by omega)]
    exact cellGet_cellSet_other m (by omega) b

/-- A byte just written reads as written. -/
theorem cellGet_cellWrite_inside (bs : List Byte) : ∀ (m : List Host.Cell) (a i : Nat) (hi : i < bs.length), Memory.wf m = true →
    cellGet (cellWrite m a bs) (a + i) = bs[i] := by
  induction bs with
  | nil => intro m a i hi; simp at hi
  | cons b bs ih =>
    intro m a i hi hm
    cases i with
    | zero =>
      rw [cellWrite, cellGet_cellWrite_outside _ _ _ _ (by omega)]
      exact cellGet_cellSet_same a b hm
    | succ i =>
      have := ih (cellSet m a b) (a + 1) i (by simpa using hi) (cellSet_wf m a b hm)
      rw [cellWrite]
      simpa [Nat.add_assoc, Nat.add_comm 1 i] using this

/-- What is read back is what was written. -/
theorem cellRead_cellWrite (bs : List Byte) : ∀ (m : List Host.Cell) (a : Nat), Memory.wf m = true →
    cellRead (cellWrite m a bs) a bs.length = bs := by
  induction bs with
  | nil => intro m a _; rfl
  | cons b bs ih =>
    intro m a hm
    rw [List.length_cons, cellRead]
    congr 1
    · exact cellGet_cellWrite_inside (b :: bs) m a 0 (by simp) hm
    · exact ih _ _ (cellSet_wf m a b hm)

end Sys2Proof.Machine
end

