-- ==== Sys2Proof/Laws/KeepsBase.lean ====
section
/-! SUPPORT. What every effect keeps to (Keeps): the rules by which a composite effect is seen to keep to it. Each lemma `f_keeps` says it
of one function of the model; the files KeepsSwitch to KeepsCommands go through them in the model's order. -/

namespace Sys2Proof.Machine

theorem PartInfo.Same.refl (p : PartInfo) : p.Same p := ⟨rfl, rfl, rfl, rfl, rfl, rfl, rfl⟩
theorem PartInfo.Same.trans {p q r : PartInfo} (h : p.Same q) (k : q.Same r) : p.Same r :=
  ⟨k.1.trans h.1, k.2.trans h.2, k.3.trans h.3, k.4.trans h.4, k.5.trans h.5, k.6.trans h.6, k.7.trans h.7⟩

theorem Keeps.refl (s : State) : Keeps s s := ⟨PartInfo.Same.refl _, rfl, List.prefix_refl _, Nat.le_refl _, Or.inl rfl, id⟩

theorem Keeps.trans {s t u : State} (h : Keeps s t) (k : Keeps t u) : Keeps s u where
  part := h.part.trans k.part
  pending := k.pending.trans h.pending
  out := h.out.trans k.out
  free := h.free.trans k.free
  now := by rcases k.now with e | e <;> rcases h.now with e' | e' <;> simp [e, e']
  canon := fun c => k.canon (h.canon c)

section
variable {s₀ s : State} {r : SMap Word} {l : SMap Lane} {li : SMap PortLink} {ps : SMap PortSw} {sw : Switch} {e2 : E2E}
  {ho : Homes} {ha : Hall} {co : Coll} {re : Res} {se : Sec} {cf : Cfg} {pw : Pwr} {hs : Hosts} {c : Counters}
  {ar : List (Ingress × Packet)} {ib : List Delivered} {fi : Nat} {ou : List OutEvent}

theorem mk_keeps_wf (h : Keeps s₀ s) (hr : swf regReset s.regs = true → swf regReset r = true)
    (hl : swf (fun _ => ({} : Lane)) s.lanes = true → swf (fun _ => ({} : Lane)) l = true)
    (hi : swf (fun _ => ({} : PortLink)) s.links = true → swf (fun _ => ({} : PortLink)) li = true)
    (hm : Memory.wf s.homes.mem = true → Memory.wf ho.mem = true) (hp : Memory.wf s.hall.pantry = true → Memory.wf ha.pantry = true)
    (he : swf (fun _ => (0 : BitVec 48)) s.cnt.ev = true → swf (fun _ => (0 : BitVec 48)) c.ev = true)
    (hf : s.freeIdx ≤ fi) (hu : s.out <+: ou) :
    Keeps s₀ ⟨s.part, s.now, r, l, li, ps, sw, e2, ho, ha, co, re, se, cf, pw, hs, c, ar, ib, fi, ou, s.pending⟩ :=
  h.trans ⟨PartInfo.Same.refl _, rfl, hu, hf, Or.inl rfl, fun k => ⟨hr k.regs, hl k.lanes, hi k.links, hm k.mem, hp k.pantry, he k.ev⟩⟩

theorem mk_keeps (h : Keeps s₀ s) (hm : ho.mem = s.homes.mem) (hp : ha.pantry = s.hall.pantry) (he : c.ev = s.cnt.ev) :
    Keeps s₀ ⟨s.part, s.now, s.regs, s.lanes, s.links, ps, sw, e2, ho, ha, co, re, se, cf, pw, hs, c, ar, ib, s.freeIdx, s.out, s.pending⟩ :=
  mk_keeps_wf h id id id (fun k => hm ▸ k) (fun k => hp ▸ k) (fun k => he ▸ k) (Nat.le_refl _) (List.prefix_refl _)

theorem emit_keeps (h : Keeps s₀ s) {e : OutEvent} : Keeps s₀ (emit s e) :=
  mk_keeps_wf h id id id id id id (Nat.le_refl _) (List.prefix_append _ _)
theorem takeFree_keeps (h : Keeps s₀ s) : Keeps s₀ (takeFree s) :=
  mk_keeps_wf h id id id id id id (Nat.le_succ _) (List.prefix_refl _)
theorem part_keeps (h : Keeps s₀ s) {p : PartInfo} (hp : s.part.Same p) : Keeps s₀ { s with part := p } :=
  h.trans ⟨hp, rfl, List.prefix_refl _, Nat.le_refl _, Or.inl rfl, fun k => { k with }⟩
theorem freeMore_keeps (h : Keeps s₀ s) {k : Nat} : Keeps s₀ { s with freeIdx := s.freeIdx + k } :=
  mk_keeps_wf h id id id id id id (Nat.le_add_right _ _) (List.prefix_refl _)
theorem setLane_keeps (h : Keeps s₀ s) {n : Nat} {x : Lane} : Keeps s₀ (setLane s n x) :=
  mk_keeps_wf h id (fun k => swf_sset _ _ _ _ k) id id id id (Nat.le_refl _) (List.prefix_refl _)
theorem setLink_keeps (h : Keeps s₀ s) {n : Nat} {x : PortLink} : Keeps s₀ (setLink s n x) :=
  mk_keeps_wf h id id (fun k => swf_sset _ _ _ _ k) id id id (Nat.le_refl _) (List.prefix_refl _)
end

theorem forEach_keeps {α : Type} {s₀ : State} {f : State → α → State} (hf : ∀ s, Keeps s₀ s → ∀ x, Keeps s₀ (f s x)) :
    ∀ {xs : List α} {s : State}, Keeps s₀ s → Keeps s₀ (forEach xs s f) := by
  intro xs
  induction xs with
  | nil => exact fun h => h
  | cons x xs ih => exact fun h => ih (hf _ h x)

theorem foldl_keeps {α : Type} {s₀ : State} {f : State → α → State} (hf : ∀ s, Keeps s₀ s → ∀ x, Keeps s₀ (f s x)) :
    ∀ {xs : List α} {s : State}, Keeps s₀ s → Keeps s₀ (xs.foldl f s) := by
  intro xs
  induction xs with
  | nil => exact fun h => h
  | cons x xs ih => exact fun h => ih (hf _ h x)

theorem fold1_keeps {α β : Type} {s₀ : State} {f : State × β → α → State × β} (hf : ∀ b, Keeps s₀ b.1 → ∀ x, Keeps s₀ (f b x).1) :
    ∀ {xs : List α} {b : State × β}, Keeps s₀ b.1 → Keeps s₀ (xs.foldl f b).1 := by
  intro xs
  induction xs with
  | nil => exact fun h => h
  | cons x xs ih => exact fun h => ih (hf _ h x)

theorem fold2_keeps {α β : Type} {s₀ : State} {f : β × State → α → β × State} (hf : ∀ b, Keeps s₀ b.2 → ∀ x, Keeps s₀ (f b x).2) :
    ∀ {xs : List α} {b : β × State}, Keeps s₀ b.2 → Keeps s₀ (xs.foldl f b).2 := by
  intro xs
  induction xs with
  | nil => exact fun h => h
  | cons x xs ih => exact fun h => ih (hf _ h x)

theorem fold3_keeps {α β γ : Type} {s₀ : State} {f : β × γ × State → α → β × γ × State}
    (hf : ∀ b, Keeps s₀ b.2.2 → ∀ x, Keeps s₀ (f b x).2.2) :
    ∀ {xs : List α} {b : β × γ × State}, Keeps s₀ b.2.2 → Keeps s₀ (xs.foldl f b).2.2 := by
  intro xs
  induction xs with
  | nil => exact fun h => h
  | cons x xs ih => exact fun h => ih (hf _ h x)

theorem act_keeps {s₀ s : State} {f : State → State} (hf : ∀ s, Keeps s₀ s → Keeps s₀ (f s)) (h : Keeps s₀ s) : Keeps s₀ (act s f) := by
  unfold act aside
  split
  · have := hf s h
    exact ⟨this.part, h.pending, this.out, this.free, this.now, fun c => { this.canon c with }⟩
  · exact h

section
variable {s₀ s : State}
theorem wr_keeps (h : Keeps s₀ s) {o v : Nat} : Keeps s₀ (wr s o v) :=
  mk_keeps_wf h (fun k => swf_sset _ _ _ _ k) id id id id id (Nat.le_refl _) (List.prefix_refl _)
theorem regSet_keeps (h : Keeps s₀ s) {o : Nat} {v : Word} : Keeps s₀ { s with regs := sset regReset s.regs o v } :=
  mk_keeps_wf h (fun k => swf_sset _ _ _ _ k) id id id id id (Nat.le_refl _) (List.prefix_refl _)
theorem evSet_keeps (h : Keeps s₀ s) {n v : Nat} : Keeps s₀ (evSet s n v) :=
  mk_keeps_wf h id id id id id (fun k => swf_sset _ _ _ _ k) (Nat.le_refl _) (List.prefix_refl _)
theorem memWriteLine_keeps (h : Keeps s₀ s) {a : Nat} {bs : List Byte} : Keeps s₀ (memWriteLine s a bs) :=
  mk_keeps_wf h id id id (fun k => cellWrite_wf _ _ _ k) id id (Nat.le_refl _) (List.prefix_refl _)
theorem pWrite_keeps (h : Keeps s₀ s) {a : Nat} {bs : List Byte} : Keeps s₀ (pWrite s a bs) :=
  mk_keeps_wf h id id id id (fun k => cellWrite_wf _ _ _ k) id (Nat.le_refl _) (List.prefix_refl _)
end

end Sys2Proof.Machine
end

