-- ==== Sys2Proof/Laws/KeepsSwitch.lean ====
section
/-! SUPPORT. Keeps, function by function: registers, counters and fault records, the switch core, the end-to-end layer, levels, regions. -/

set_option linter.unusedTactic false
set_option linter.unreachableTactic false
set_option linter.unusedVariables false

namespace Sys2Proof.Machine

theorem setFld_keeps {s₀ s : State} (hk : Keeps s₀ s) {off hi lo v : Nat} : Keeps s₀ (setFld s off hi lo v) := by
  unfold setFld
  try dsimp only
  repeat' first
    | with_reducible assumption
    | with_reducible apply wr_keeps
    | split

theorem setBitOf_keeps {s₀ s : State} (hk : Keeps s₀ s) {off n : Nat} {b : Bool} : Keeps s₀ (setBitOf s off n b) := by
  unfold setBitOf
  try dsimp only
  repeat' first
    | with_reducible assumption
    | with_reducible apply setFld_keeps
    | split

theorem wr64_keeps {s₀ s : State} (hk : Keeps s₀ s) {off v : Nat} : Keeps s₀ (wr64 s off v) := by
  unfold wr64
  try dsimp only
  repeat' first
    | with_reducible assumption
    | with_reducible apply wr_keeps
    | split

theorem bump64_keeps {s₀ s : State} (hk : Keeps s₀ s) {off k : Nat} : Keeps s₀ (bump64 s off k) := by
  unfold bump64
  try dsimp only
  repeat' first
    | with_reducible assumption
    | with_reducible apply wr64_keeps
    | split

theorem bumpSat_keeps {s₀ s : State} (hk : Keeps s₀ s) {off hi lo k : Nat} : Keeps s₀ (bumpSat s off hi lo k) := by
  unfold bumpSat
  try dsimp only
  repeat' first
    | with_reducible assumption
    | with_reducible apply setFld_keeps
    | split

theorem setOvf_keeps {s₀ s : State} (hk : Keeps s₀ s) {n : Nat} : Keeps s₀ (setOvf s n) := by
  unfold setOvf
  try dsimp only
  repeat' first
    | with_reducible assumption
    | with_reducible apply setBitOf_keeps
    | split

theorem ev_keeps {s₀ s : State} (hk : Keeps s₀ s) {n k : Nat} : Keeps s₀ (ev s n k) := by
  unfold ev
  try dsimp only
  repeat' first
    | with_reducible assumption
    | with_reducible apply setOvf_keeps
    | with_reducible apply evSet_keeps
    | split

theorem alertEdge_keeps {s₀ b s : State} (hk : Keeps s₀ s) : Keeps s₀ (alertEdge b s) := by
  unfold alertEdge
  split
  · exact emit_keeps hk
  · exact hk

theorem noteWindow_keeps {s₀ s : State} (hk : Keeps s₀ s) {key period : Nat} : Keeps s₀ (noteWindow s key period) := by
  unfold noteWindow
  try dsimp only
  repeat' first
    | with_reducible assumption
    | split
    | with_reducible rfl
    | (with_reducible refine mk_keeps ?_ ?_ ?_ ?_; first | with_reducible assumption | split)

theorem msix_keeps {s₀ s : State} (hk : Keeps s₀ s) {j fn vec : Nat} : Keeps s₀ (msix s j fn vec) := by
  unfold msix
  try dsimp only
  repeat' first
    | with_reducible assumption
    | with_reducible apply setBitOf_keeps
    | with_reducible apply emit_keeps
    | split
    | with_reducible rfl
    | (with_reducible refine mk_keeps ?_ ?_ ?_ ?_; first | with_reducible assumption | with_reducible apply setBitOf_keeps | with_reducible apply emit_keeps | split)

theorem noteQueue_keeps {s₀ s : State} (hk : Keeps s₀ s) : Keeps s₀ (noteQueue s) := by
  unfold noteQueue
  try dsimp only
  repeat' first
    | with_reducible assumption
    | with_reducible apply setFld_keeps
    | split

theorem noteProbation_keeps {s₀ s : State} (hk : Keeps s₀ s) {code sev : Nat} : Keeps s₀ (noteProbation s code sev) := by
  unfold noteProbation
  try dsimp only
  repeat' first
    | with_reducible assumption
    | split
    | with_reducible rfl
    | (with_reducible refine mk_keeps ?_ ?_ ?_ ?_; first | with_reducible assumption | split)

theorem fault_keeps {s₀ s : State} (hk : Keeps s₀ s) {code sev source : Nat} {epc : Epc} {details : BitVec 128} : Keeps s₀ (fault s code sev source epc details) := by
  unfold fault
  try dsimp only
  repeat' first
    | with_reducible assumption
    | with_reducible apply bumpSat_keeps
    | with_reducible apply noteQueue_keeps
    | with_reducible apply setBitOf_keeps
    | with_reducible apply alertEdge_keeps
    | with_reducible apply noteProbation_keeps
    | with_reducible apply setFld_keeps
    | with_reducible apply ev_keeps
    | with_reducible apply msix_keeps
    | split
    | with_reducible rfl
    | (with_reducible refine mk_keeps ?_ ?_ ?_ ?_; first | with_reducible assumption | with_reducible apply bumpSat_keeps | with_reducible apply noteQueue_keeps | with_reducible apply setBitOf_keeps | with_reducible apply alertEdge_keeps | with_reducible apply noteProbation_keeps | with_reducible apply setFld_keeps | with_reducible apply ev_keeps | with_reducible apply msix_keeps | split)

theorem fault0_keeps {s₀ s : State} (hk : Keeps s₀ s) {code sev source : Nat} : Keeps s₀ (fault0 s code sev source) := by
  unfold fault0
  try dsimp only
  repeat' first
    | with_reducible assumption
    | with_reducible apply fault_keeps
    | split

theorem faultLimited_keeps {s₀ s : State} (hk : Keeps s₀ s) {key period code sev source : Nat} {epc : Epc} {details : BitVec 128} : Keeps s₀ (faultLimited s key period code sev source epc details) := by
  unfold faultLimited
  try dsimp only
  repeat' first
    | with_reducible assumption
    | with_reducible apply noteWindow_keeps
    | with_reducible apply fault_keeps
    | split

theorem accessErr_keeps {s₀ s : State} (hk : Keeps s₀ s) {path : Path} {off cause : Nat} : Keeps s₀ (accessErr s path off cause) := by
  unfold accessErr
  try dsimp only
  repeat' first
    | with_reducible assumption
    | with_reducible apply setBitOf_keeps
    | with_reducible apply setFld_keeps
    | with_reducible apply wr_keeps
    | with_reducible apply ev_keeps
    | split

theorem setPsw_keeps {s₀ s : State} (hk : Keeps s₀ s) {e : Nat} {x : PortSw} : Keeps s₀ (setPsw s e x) := by
  unfold setPsw
  try dsimp only
  repeat' first
    | with_reducible assumption
    | split
    | with_reducible rfl
    | (with_reducible refine mk_keeps ?_ ?_ ?_ ?_; first | with_reducible assumption | split)

theorem grantFreed_keeps {s₀ s : State} (hk : Keeps s₀ s) {ing : Ingress} {period c n : Nat} : Keeps s₀ (grantFreed s ing period c n) := by
  unfold grantFreed
  try dsimp only
  repeat' first
    | with_reducible assumption
    | with_reducible apply setLink_keeps
    | split

theorem checkReserve_keeps {s₀ s : State} (hk : Keeps s₀ s) : Keeps s₀ (checkReserve s) := by
  unfold checkReserve
  try dsimp only
  repeat' first
    | with_reducible assumption
    | with_reducible apply fault0_keeps
    | with_reducible apply setLink_keeps
    | (with_reducible refine forEach_keeps (fun _ _ _ => ?_) ?_)
    | split
    | with_reducible rfl
    | (with_reducible refine mk_keeps ?_ ?_ ?_ ?_; first | with_reducible assumption | with_reducible apply fault0_keeps | with_reducible apply setLink_keeps | (with_reducible refine forEach_keeps (fun _ _ _ => ?_) ?_) | split)

theorem freeCells_keeps {s₀ s : State} (hk : Keeps s₀ s) {ing : Ingress} {period c n : Nat} : Keeps s₀ (freeCells s ing period c n) := by
  unfold freeCells
  try dsimp only
  repeat' first
    | with_reducible assumption
    | with_reducible apply checkReserve_keeps
    | with_reducible apply grantFreed_keeps
    | split
    | with_reducible rfl
    | (with_reducible refine mk_keeps ?_ ?_ ?_ ?_; first | with_reducible assumption | with_reducible apply checkReserve_keeps | with_reducible apply grantFreed_keeps | split)

theorem takeCells_keeps {s₀ s : State} (hk : Keeps s₀ s) {n : Nat} : Keeps s₀ (takeCells s n) := by
  unfold takeCells
  try dsimp only
  repeat' first
    | with_reducible assumption
    | with_reducible apply checkReserve_keeps
    | split
    | with_reducible rfl
    | (with_reducible refine mk_keeps ?_ ?_ ?_ ?_; first | with_reducible assumption | with_reducible apply checkReserve_keeps | split)

theorem pick_keeps {s₀ s : State} (hk : Keeps s₀ s) {p : Packet} {l : PortList} : Keeps s₀ (pick s p l).2 := by
  unfold pick
  dsimp only
  split
  · exact hk
  · split
    · exact hk
    · split
      · rename_i e
        refine mk_keeps ?_ rfl rfl rfl
        split at e <;> rw [← (Prod.mk.inj e).2]
        · exact hk
        · exact ev_keeps hk
      · rename_i e
        split at e <;> rw [← (Prod.mk.inj e).2]
        · exact hk
        · exact ev_keeps hk
theorem pick_keeps_eq {s₀ s : State} (hk : Keeps s₀ s) {p : Packet} {l : PortList} {x t} (heq : pick s p l = (x, t)) : Keeps s₀ t := by
  have := pick_keeps (s₀ := s₀) (s := s) hk (p := p) (l := l)
  rw [heq] at this
  exact this

theorem pickHop_keeps {s₀ s : State} (hk : Keeps s₀ s) {p : Packet} {l : PortList} : Keeps s₀ (pickHop s p l).2 := by
  unfold pickHop
  try dsimp only
  repeat' first
    | with_reducible assumption
    | with_reducible apply pick_keeps
    | (with_reducible refine pick_keeps_eq ?_ (by assumption))
    | split
theorem pickHop_keeps_eq {s₀ s : State} (hk : Keeps s₀ s) {p : Packet} {l : PortList} {x0 x1} (heq : pickHop s p l = (x0, x1)) : Keeps s₀ x1 := by
  have := pickHop_keeps (s₀ := s₀) (s := s) hk (p := p) (l := l)
  rw [heq] at this; exact this

theorem route_keeps {s₀ s : State} (hk : Keeps s₀ s) {p : Packet} {ing : Ingress} : Keeps s₀ (route s p ing).2 := by
  unfold route
  try dsimp only
  repeat' first
    | with_reducible assumption
    | with_reducible apply unroutable_keeps
    | with_reducible apply pickHop_keeps
    | (with_reducible refine pickHop_keeps_eq ?_ (by assumption))
    | split
theorem route_keeps_eq {s₀ s : State} (hk : Keeps s₀ s) {p : Packet} {ing : Ingress} {x0 x1} (heq : route s p ing = (x0, x1)) : Keeps s₀ x1 := by
  have := route_keeps (s₀ := s₀) (s := s) hk (p := p) (ing := ing)
  rw [heq] at this; exact this

theorem pushEntry_keeps {s₀ s : State} (hk : Keeps s₀ s) {e : QEntry} : Keeps s₀ (pushEntry s e) := by
  unfold pushEntry
  try dsimp only
  repeat' first
    | with_reducible assumption
    | split
    | with_reducible rfl
    | (with_reducible refine mk_keeps ?_ ?_ ?_ ?_; first | with_reducible assumption | split)

theorem markQueue_keeps {s₀ s : State} (hk : Keeps s₀ s) {eg : Egress} {p : Packet} : Keeps s₀ (markQueue s eg p) := by
  unfold markQueue
  try dsimp only
  repeat' first
    | with_reducible assumption
    | with_reducible apply setPsw_keeps
    | split

theorem c5Drop_keeps {s₀ s : State} (hk : Keeps s₀ s) {eg : Egress} {col : Colour} : Keeps s₀ (c5Drop s eg col).2 := by
  unfold c5Drop
  try dsimp only
  repeat' first
    | with_reducible assumption
    | with_reducible apply setPsw_keeps
    | with_reducible apply ev_keeps
    | with_reducible apply takeFree_keeps
    | split
theorem c5Drop_keeps_eq {s₀ s : State} (hk : Keeps s₀ s) {eg : Egress} {col : Colour} {x0 x1} (heq : c5Drop s eg col = (x0, x1)) : Keeps s₀ x1 := by
  have := c5Drop_keeps (s₀ := s₀) (s := s) hk (eg := eg) (col := col)
  rw [heq] at this; exact this

theorem discardCells_keeps {s₀ s : State} (hk : Keeps s₀ s) {p : Packet} {ing : Ingress} : Keeps s₀ (discardCells s p ing) := by
  unfold discardCells
  try dsimp only
  repeat' first
    | with_reducible assumption
    | with_reducible apply freeCells_keeps
    | split

theorem linkOut_keeps {s₀ s : State} (hk : Keeps s₀ s) {p : Packet} {ing : Ingress} {eg : Egress} {col : Colour} {dup : Bool} : Keeps s₀ (linkOut s p ing eg col dup) := by
  unfold linkOut
  try dsimp only
  repeat' first
    | with_reducible assumption
    | with_reducible apply c5Drop_keeps
    | with_reducible apply pushEntry_keeps
    | with_reducible apply discardCells_keeps
    | with_reducible apply markQueue_keeps
    | (with_reducible refine c5Drop_keeps_eq ?_ (by assumption))
    | split

theorem toInbox_keeps {s₀ s : State} (hk : Keeps s₀ s) {p : Packet} {ing : Ingress} {dup : Bool} : Keeps s₀ (toInbox s p ing dup) := by
  unfold toInbox
  try dsimp only
  repeat' first
    | with_reducible assumption
    | with_reducible apply discardCells_keeps
    | split
    | with_reducible rfl
    | (with_reducible refine mk_keeps ?_ ?_ ?_ ?_; first | with_reducible assumption | with_reducible apply discardCells_keeps | split)

theorem deliverDead_keeps {s₀ s : State} (hk : Keeps s₀ s) {p : Packet} {ing : Ingress} {eg : Egress} {dup : Bool} : Keeps s₀ (deliverDead s p ing eg dup) := by
  unfold deliverDead
  try dsimp only
  repeat' first
    | with_reducible assumption
    | with_reducible apply toInbox_keeps
    | with_reducible apply discardCells_keeps
    | split

theorem deliverLocal_keeps {s₀ s : State} (hk : Keeps s₀ s) {p : Packet} {ing : Ingress} {u : Nat} {col : Colour} {dup : Bool} : Keeps s₀ (deliverLocal s p ing u col dup) := by
  unfold deliverLocal
  try dsimp only
  repeat' first
    | with_reducible assumption
    | with_reducible apply linkOut_keeps
    | with_reducible apply pushEntry_keeps
    | with_reducible apply deliverDead_keeps
    | with_reducible apply toInbox_keeps
    | split
    | with_reducible rfl
    | (with_reducible refine mk_keeps ?_ ?_ ?_ ?_; first | with_reducible assumption | with_reducible apply linkOut_keeps | with_reducible apply pushEntry_keeps | with_reducible apply deliverDead_keeps | with_reducible apply toInbox_keeps | split)

theorem takeHearth_keeps {s₀ s : State} (hk : Keeps s₀ s) {d : Delivered} : Keeps s₀ (takeHearth s d).1 := by
  unfold takeHearth
  try dsimp only
  repeat' first
    | with_reducible assumption
    | split
    | with_reducible rfl
    | (with_reducible refine mk_keeps ?_ ?_ ?_ ?_; first | with_reducible assumption | split)
theorem takeHearth_keeps_eq {s₀ s : State} (hk : Keeps s₀ s) {d : Delivered} {x0 x1 x2} (heq : takeHearth s d = (x0, x1, x2)) : Keeps s₀ x0 := by
  have := takeHearth_keeps (s₀ := s₀) (s := s) hk (d := d)
  rw [heq] at this; exact this

theorem noteHeld_keeps {s₀ s : State} (hk : Keeps s₀ s) : Keeps s₀ (noteHeld s) := by
  unfold noteHeld
  try dsimp only
  repeat' first
    | with_reducible assumption
    | with_reducible apply setFld_keeps
    | split

theorem withShadow_keeps {s₀ s : State} (hk : Keeps s₀ s) {d : Drain} : Keeps s₀ (withShadow s d) := by
  unfold withShadow
  refine forEach_keeps (fun _ h _ => setBitOf_keeps h) (forEach_keeps (fun _ h x => ?_) hk)
  exact regSet_keeps h

theorem linkHold_keeps {s₀ s : State} (hk : Keeps s₀ s) {p : Packet} {ing : Ingress} {col : Colour} : Keeps s₀ (linkHold s p ing col) := by
  unfold linkHold
  try dsimp only
  repeat' first
    | with_reducible assumption
    | with_reducible apply noteHeld_keeps
    | with_reducible apply pushEntry_keeps
    | with_reducible apply ev_keeps
    | split

theorem discDead_keeps {s₀ s : State} (hk : Keeps s₀ s) {p : Packet} {ing : Ingress} : Keeps s₀ (discDead s p ing) := by
  unfold discDead
  try dsimp only
  repeat' first
    | with_reducible assumption
    | with_reducible apply bump64_keeps
    | with_reducible apply discardCells_keeps
    | with_reducible apply ev_keeps
    | split

theorem discUnroute_keeps {s₀ s : State} (hk : Keeps s₀ s) {p : Packet} {ing : Ingress} : Keeps s₀ (discUnroute s p ing) := by
  unfold discUnroute
  try dsimp only
  repeat' first
    | with_reducible assumption
    | with_reducible apply bump64_keeps
    | with_reducible apply discardCells_keeps
    | with_reducible apply ev_keeps
    | split

theorem limitedAt_keeps {s₀ s : State} (hk : Keeps s₀ s) {ing : Ingress} {code sev source : Nat} {epc : Epc} : Keeps s₀ (limitedAt s ing code sev source epc) := by
  unfold limitedAt
  try dsimp only
  repeat' first
    | with_reducible assumption
    | with_reducible apply faultLimited_keeps
    | split

theorem openPkt_keeps {s₀ s : State} (hk : Keeps s₀ s) {p : Packet} : Keeps s₀ (openPkt s p).2 := by
  unfold openPkt
  try dsimp only
  repeat' first
    | with_reducible assumption
    | with_reducible apply ev_keeps
    | split
theorem openPkt_keeps_eq {s₀ s : State} (hk : Keeps s₀ s) {p : Packet} {x0 x1} (heq : openPkt s p = (x0, x1)) : Keeps s₀ x1 := by
  have := openPkt_keeps (s₀ := s₀) (s := s) hk (p := p)
  rw [heq] at this; exact this

theorem jobKeyFail_keeps {s₀ s : State} (hk : Keeps s₀ s) {p : Packet} {ing : Ingress} : Keeps s₀ (jobKeyFail s p ing) := by
  unfold jobKeyFail
  try dsimp only
  repeat' first
    | with_reducible assumption
    | with_reducible apply setBitOf_keeps
    | with_reducible apply limitedAt_keeps
    | with_reducible apply discardCells_keeps
    | with_reducible apply ev_keeps
    | split

theorem placeLocal_keeps {s₀ s : State} (hk : Keeps s₀ s) {p : Packet} {ing : Ingress} {u : Nat} {col : Colour} : Keeps s₀ (placeLocal s p ing u col) := by
  unfold placeLocal
  try dsimp only
  repeat' first
    | with_reducible assumption
    | with_reducible apply deliverLocal_keeps
    | with_reducible apply discUnroute_keeps
    | with_reducible apply discardCells_keeps
    | split

theorem forward_keeps {s₀ s : State} (hk : Keeps s₀ s) {p : Packet} {ing : Ingress} {col : Colour} : Keeps s₀ (forward s p ing col) := by
  unfold forward
  try dsimp only
  repeat' first
    | with_reducible assumption
    | with_reducible apply linkHold_keeps
    | with_reducible apply openPkt_keeps
    | with_reducible apply linkOut_keeps
    | with_reducible apply route_keeps
    | with_reducible apply unroutable_keeps
    | with_reducible apply discUnroute_keeps
    | with_reducible apply discDead_keeps
    | with_reducible apply placeLocal_keeps
    | with_reducible apply jobKeyFail_keeps
    | (with_reducible refine openPkt_keeps_eq ?_ (by assumption))
    | (with_reducible refine route_keeps_eq ?_ (by assumption))
    | split

theorem mcastTargets_keeps {s₀ s : State} (hk : Keeps s₀ s) {p : Packet} {ing : Ingress} : Keeps s₀ (mcastTargets s p ing).2.2 := by
  unfold mcastTargets
  try dsimp only
  repeat' first
    | with_reducible assumption
    | with_reducible apply pick_keeps
    | (with_reducible refine pick_keeps_eq ?_ (by assumption))
    | (with_reducible refine foldl_keeps (fun _ _ _ => ?_) ?_)
    | (with_reducible refine fold1_keeps (fun _ _ _ => ?_) ?_)
    | (with_reducible refine fold2_keeps (fun _ _ _ => ?_) ?_)
    | (with_reducible refine fold3_keeps (fun _ _ _ => ?_) ?_)
    | split
theorem mcastTargets_keeps_eq {s₀ s : State} (hk : Keeps s₀ s) {p : Packet} {ing : Ingress} {x0 x1 x2} (heq : mcastTargets s p ing = (x0, x1, x2)) : Keeps s₀ x2 := by
  have := mcastTargets_keeps (s₀ := s₀) (s := s) hk (p := p) (ing := ing)
  rw [heq] at this; exact this

theorem mcastOwn_keeps {s₀ s : State} (hk : Keeps s₀ s) {p : Packet} {ing : Ingress} : Keeps s₀ (mcastOwn s p ing) := by
  unfold mcastOwn
  try dsimp only
  repeat' first
    | with_reducible assumption
    | with_reducible apply openPkt_keeps
    | with_reducible apply setBitOf_keeps
    | with_reducible apply limitedAt_keeps
    | with_reducible apply ev_keeps
    | (with_reducible refine openPkt_keeps_eq ?_ (by assumption))
    | split
    | with_reducible rfl
    | (with_reducible refine mk_keeps ?_ ?_ ?_ ?_; first | with_reducible assumption | with_reducible apply openPkt_keeps | with_reducible apply setBitOf_keeps | with_reducible apply limitedAt_keeps | with_reducible apply ev_keeps | (with_reducible refine openPkt_keeps_eq ?_ (by assumption)) | split)

theorem multicast_keeps {s₀ s : State} (hk : Keeps s₀ s) {p : Packet} {ing : Ingress} {col : Colour} : Keeps s₀ (multicast s p ing col) := by
  unfold multicast
  try dsimp only
  repeat' first
    | with_reducible assumption
    | with_reducible apply linkHold_keeps
    | with_reducible apply mcastTargets_keeps
    | with_reducible apply c5Drop_keeps
    | with_reducible apply mcastOwn_keeps
    | with_reducible apply discUnroute_keeps
    | with_reducible apply pushEntry_keeps
    | with_reducible apply bump64_keeps
    | with_reducible apply discardCells_keeps
    | with_reducible apply ev_keeps
    | with_reducible apply markQueue_keeps
    | (with_reducible refine mcastTargets_keeps_eq ?_ (by assumption))
    | (with_reducible refine c5Drop_keeps_eq ?_ (by assumption))
    | (with_reducible refine forEach_keeps (fun _ _ _ => ?_) ?_)
    | (with_reducible refine foldl_keeps (fun _ _ _ => ?_) ?_)
    | (with_reducible refine fold1_keeps (fun _ _ _ => ?_) ?_)
    | (with_reducible refine fold2_keeps (fun _ _ _ => ?_) ?_)
    | (with_reducible refine fold3_keeps (fun _ _ _ => ?_) ?_)
    | split

theorem sealPkt_keeps {s₀ s : State} (hk : Keeps s₀ s) {p : Packet} {epoch : Nat} : Keeps s₀ (sealPkt s p epoch).2 := by
  unfold sealPkt
  try dsimp only
  repeat' first
    | with_reducible assumption
    | with_reducible apply ev_keeps
    | split
    | with_reducible rfl
    | (with_reducible refine mk_keeps ?_ ?_ ?_ ?_; first | with_reducible assumption | with_reducible apply ev_keeps | split)
theorem sealPkt_keeps_eq {s₀ s : State} (hk : Keeps s₀ s) {p : Packet} {epoch : Nat} {x0 x1} (heq : sealPkt s p epoch = (x0, x1)) : Keeps s₀ x1 := by
  have := sealPkt_keeps (s₀ := s₀) (s := s) hk (p := p) (epoch := epoch)
  rw [heq] at this; exact this

theorem sendPlain_keeps {s₀ s : State} (hk : Keeps s₀ s) {p : Packet} {ing : Ingress} : Keeps s₀ (sendPlain s p ing) := by
  unfold sendPlain
  try dsimp only
  repeat' first
    | with_reducible assumption
    | with_reducible apply takeCells_keeps
    | with_reducible apply multicast_keeps
    | with_reducible apply forward_keeps
    | split

theorem answerFor_keeps {s₀ s : State} (hk : Keeps s₀ s) {p : Packet} {status : Nat} : Keeps s₀ (answerFor s p status) := by
  unfold answerFor
  try dsimp only
  repeat' first
    | with_reducible assumption
    | with_reducible apply sendPlain_keeps
    | split

theorem respond_keeps {s₀ s : State} (hk : Keeps s₀ s) {p : Packet} {status state : Nat} {token : BitVec 16} {hint : Nat} {data : List Byte} : Keeps s₀ (respond s p status state token hint data) := by
  unfold respond
  try dsimp only
  repeat' first
    | with_reducible assumption
    | with_reducible apply sendPlain_keeps
    | with_reducible apply sealPkt_keeps
    | (with_reducible refine sealPkt_keeps_eq ?_ (by assumption))
    | split

theorem relinkOne_keeps {s₀ s : State} (hk : Keeps s₀ s) {e : QEntry} {dead : Egress} : Keeps s₀ (relinkOne s e dead).1 := by
  unfold relinkOne
  try dsimp only
  repeat' first
    | with_reducible assumption
    | with_reducible apply freeCells_keeps
    | with_reducible apply route_keeps
    | with_reducible apply answerFor_keeps
    | with_reducible apply bump64_keeps
    | with_reducible apply ev_keeps
    | (with_reducible refine route_keeps_eq ?_ (by assumption))
    | split
theorem relinkOne_keeps_eq {s₀ s : State} (hk : Keeps s₀ s) {e : QEntry} {dead : Egress} {x0 x1} (heq : relinkOne s e dead = (x0, x1)) : Keeps s₀ x0 := by
  have := relinkOne_keeps (s₀ := s₀) (s := s) hk (e := e) (dead := dead)
  rw [heq] at this; exact this

theorem relink_keeps {s₀ s : State} (hk : Keeps s₀ s) {dead : Egress} : Keeps s₀ (relink s dead) := by
  unfold relink
  try dsimp only
  repeat' first
    | with_reducible assumption
    | with_reducible apply relinkOne_keeps
    | (with_reducible refine relinkOne_keeps_eq ?_ (by assumption))
    | (with_reducible refine foldl_keeps (fun _ _ _ => ?_) ?_)
    | (with_reducible refine fold1_keeps (fun _ _ _ => ?_) ?_)
    | (with_reducible refine fold2_keeps (fun _ _ _ => ?_) ?_)
    | (with_reducible refine fold3_keeps (fun _ _ _ => ?_) ?_)
    | split
    | with_reducible rfl
    | (with_reducible refine mk_keeps ?_ ?_ ?_ ?_; first | with_reducible assumption | with_reducible apply relinkOne_keeps | (with_reducible refine relinkOne_keeps_eq ?_ (by assumption)) | (with_reducible refine foldl_keeps (fun _ _ _ => ?_) ?_) | (with_reducible refine fold1_keeps (fun _ _ _ => ?_) ?_) | (with_reducible refine fold2_keeps (fun _ _ _ => ?_) ?_) | (with_reducible refine fold3_keeps (fun _ _ _ => ?_) ?_) | split)

theorem startDrain_keeps {s₀ s : State} (hk : Keeps s₀ s) {owner : DrainOwner} {shadow : List (Nat × Word)} {enable : List Nat} : Keeps s₀ (startDrain s owner shadow enable) := by
  unfold startDrain
  try dsimp only
  repeat' first
    | with_reducible assumption
    | with_reducible apply setFld_keeps
    | with_reducible apply ev_keeps
    | split
    | with_reducible rfl
    | (with_reducible refine mk_keeps ?_ ?_ ?_ ?_; first | with_reducible assumption | with_reducible apply setFld_keeps | with_reducible apply ev_keeps | split)

theorem noteMirrorN_keeps {s₀ s : State} (hk : Keeps s₀ s) {off : Nat} : Keeps s₀ (noteMirrorN s off) := by
  unfold noteMirrorN
  try dsimp only
  repeat' first
    | with_reducible assumption
    | with_reducible apply setPsw_keeps
    | split

theorem drainGoLive_keeps {s₀ s : State} (hk : Keeps s₀ s) {d : Drain} : Keeps s₀ (drainGoLive s d) := by
  unfold drainGoLive
  try dsimp only
  repeat' first
    | with_reducible assumption
    | with_reducible apply withShadow_keeps
    | with_reducible apply noteMirrorN_keeps
    | with_reducible apply setFld_keeps
    | (with_reducible refine forEach_keeps (fun _ _ _ => ?_) ?_)
    | split
    | with_reducible rfl
    | (with_reducible refine mk_keeps ?_ ?_ ?_ ?_; first | with_reducible assumption | with_reducible apply withShadow_keeps | with_reducible apply noteMirrorN_keeps | with_reducible apply setFld_keeps | (with_reducible refine forEach_keeps (fun _ _ _ => ?_) ?_) | split)

theorem drainOver_keeps {s₀ s : State} (hk : Keeps s₀ s) : Keeps s₀ (drainOver s) := by
  unfold drainOver
  try dsimp only
  repeat' first
    | with_reducible assumption
    | with_reducible apply setFld_keeps
    | split
    | with_reducible rfl
    | (with_reducible refine mk_keeps ?_ ?_ ?_ ?_; first | with_reducible assumption | with_reducible apply setFld_keeps | split)

theorem setPairCtx_keeps {s₀ s : State} (hk : Keeps s₀ s) {c : PairCtx} : Keeps s₀ (setPairCtx s c) := by
  unfold setPairCtx
  try dsimp only
  repeat' first
    | with_reducible assumption
    | split
    | with_reducible rfl
    | (with_reducible refine mk_keeps ?_ ?_ ?_ ?_; first | with_reducible assumption | split)

theorem pairCheck_keeps {s₀ s : State} (hk : Keeps s₀ s) {p : Packet} : Keeps s₀ (pairCheck s p).2 := by
  unfold pairCheck
  try dsimp only
  repeat' first
    | with_reducible assumption
    | with_reducible apply setPairCtx_keeps
    | split
    | with_reducible rfl
    | (with_reducible refine mk_keeps ?_ ?_ ?_ ?_; first | with_reducible assumption | with_reducible apply setPairCtx_keeps | split)
theorem pairCheck_keeps_eq {s₀ s : State} (hk : Keeps s₀ s) {p : Packet} {x0 x1} (heq : pairCheck s p = (x0, x1)) : Keeps s₀ x1 := by
  have := pairCheck_keeps (s₀ := s₀) (s := s) hk (p := p)
  rw [heq] at this; exact this

theorem enterDeferral_keeps {s₀ s : State} (hk : Keeps s₀ s) {p : Packet} {token : BitVec 16} {hint : BitVec 4} : Keeps s₀ (enterDeferral s p token hint) := by
  unfold enterDeferral
  try dsimp only
  repeat' first
    | with_reducible assumption
    | with_reducible apply setPairCtx_keeps
    | split

theorem endDeferral_keeps {s₀ s : State} (hk : Keeps s₀ s) {p : Packet} : Keeps s₀ (endDeferral s p) := by
  unfold endDeferral
  try dsimp only
  repeat' first
    | with_reducible assumption
    | with_reducible apply setPairCtx_keeps
    | split

theorem setSrcPair_keeps {s₀ s : State} (hk : Keeps s₀ s) {x : SrcPair} : Keeps s₀ (setSrcPair s x) := by
  unfold setSrcPair
  try dsimp only
  repeat' first
    | with_reducible assumption
    | split
    | with_reducible rfl
    | (with_reducible refine mk_keeps ?_ ?_ ?_ ?_; first | with_reducible assumption | split)

theorem updOut_keeps {s₀ s : State} (hk : Keeps s₀ s) {r : OutReq} : Keeps s₀ (updOut s r) := by
  unfold updOut
  try dsimp only
  repeat' first
    | with_reducible assumption
    | split
    | with_reducible rfl
    | (with_reducible refine mk_keeps ?_ ?_ ?_ ?_; first | with_reducible assumption | split)

theorem launch_keeps {s₀ s : State} (hk : Keeps s₀ s) {r : OutReq} {ing : Ingress} : Keeps s₀ (launch s r ing) := by
  unfold launch
  try dsimp only
  repeat' first
    | with_reducible assumption
    | with_reducible apply sendPlain_keeps
    | with_reducible apply sealPkt_keeps
    | (with_reducible refine sealPkt_keeps_eq ?_ (by assumption))
    | split

theorem reportFlag_keeps {s₀ s : State} (hk : Keeps s₀ s) {r : OutReq} : Keeps s₀ (reportFlag s r) := by
  unfold reportFlag
  try dsimp only
  repeat' first
    | with_reducible assumption
    | split
    | with_reducible rfl
    | (with_reducible refine mk_keeps ?_ ?_ ?_ ?_; first | with_reducible assumption | split)

theorem sendFirst_keeps {s₀ s : State} (hk : Keeps s₀ s) {r : OutReq} : Keeps s₀ (sendFirst s r) := by
  unfold sendFirst
  try dsimp only
  repeat' first
    | with_reducible assumption
    | with_reducible apply launch_keeps
    | with_reducible apply setSrcPair_keeps
    | with_reducible apply updOut_keeps
    | with_reducible apply reportFlag_keeps
    | split

theorem pump_keeps {s₀ s : State} (hk : Keeps s₀ s) : Keeps s₀ (pump s) := by
  unfold pump
  try dsimp only
  repeat' first
    | with_reducible assumption
    | with_reducible apply sendFirst_keeps
    | (with_reducible refine forEach_keeps (fun _ _ _ => ?_) ?_)
    | split

theorem issue_keeps {s₀ s : State} (hk : Keeps s₀ s) {p : Packet} {agent : Agent} {fn : Option (Nat × Nat)} : Keeps s₀ (issue s p agent fn) := by
  unfold issue
  try dsimp only
  repeat' first
    | with_reducible assumption
    | with_reducible apply sendFirst_keeps
    | split
    | with_reducible rfl
    | (with_reducible refine mk_keeps ?_ ?_ ?_ ?_; first | with_reducible assumption | with_reducible apply sendFirst_keeps | split)

theorem retire_keeps {s₀ s : State} (hk : Keeps s₀ s) {r : OutReq} {status : Nat} : Keeps s₀ (retire s r status) := by
  unfold retire
  try dsimp only
  repeat' first
    | with_reducible assumption
    | split
    | with_reducible rfl
    | (with_reducible refine mk_keeps ?_ ?_ ?_ ?_; first | with_reducible assumption | split)

theorem noteDeferred_keeps {s₀ s : State} (hk : Keeps s₀ s) {r : OutReq} {token : BitVec 16} {hint : Nat} : Keeps s₀ (noteDeferred s r token hint) := by
  unfold noteDeferred
  try dsimp only
  repeat' first
    | with_reducible assumption
    | with_reducible apply setSrcPair_keeps
    | with_reducible apply updOut_keeps
    | split

theorem retransmit_keeps {s₀ s : State} (hk : Keeps s₀ s) {r : OutReq} {counts : Bool} : Keeps s₀ (retransmit s r counts) := by
  unfold retransmit
  try dsimp only
  repeat' first
    | with_reducible assumption
    | with_reducible apply launch_keeps
    | with_reducible apply setSrcPair_keeps
    | with_reducible apply updOut_keeps
    | split

theorem readyAgain_keeps {s₀ s : State} (hk : Keeps s₀ s) {r : OutReq} {token : BitVec 16} : Keeps s₀ (readyAgain s r token) := by
  unfold readyAgain
  try dsimp only
  repeat' first
    | with_reducible assumption
    | with_reducible apply updOut_keeps
    | split
    | with_reducible rfl
    | (with_reducible refine mk_keeps ?_ ?_ ?_ ?_; first | with_reducible assumption | with_reducible apply updOut_keeps | split)

theorem sendReady_keeps {s₀ s : State} (hk : Keeps s₀ s) {ns : List Nat} : Keeps s₀ (sendReady s ns) := by
  unfold sendReady
  try dsimp only
  repeat' first
    | with_reducible assumption
    | with_reducible apply sendFirst_keeps
    | (with_reducible refine forEach_keeps (fun _ _ _ => ?_) ?_)
    | split

theorem resendDeferred_keeps {s₀ s : State} (hk : Keeps s₀ s) {src dst : Epc} {c0 : Bool} : Keeps s₀ (resendDeferred s src dst c0) := by
  unfold resendDeferred
  try dsimp only
  repeat' first
    | with_reducible assumption
    | with_reducible apply readyAgain_keeps
    | with_reducible apply pump_keeps
    | with_reducible apply sendReady_keeps
    | (with_reducible refine forEach_keeps (fun _ _ _ => ?_) ?_)
    | split

theorem startFence_keeps {s₀ s : State} (hk : Keeps s₀ s) {id : FenceId} {srcs : List Epc} {fn : Option (Nat × Nat)} : Keeps s₀ (startFence s id srcs fn) := by
  unfold startFence
  try dsimp only
  repeat' first
    | with_reducible assumption
    | split
    | with_reducible rfl
    | (with_reducible refine mk_keeps ?_ ?_ ?_ ?_; first | with_reducible assumption | split)

theorem endFence_keeps {s₀ s : State} (hk : Keeps s₀ s) {f : FenceRun} : Keeps s₀ (endFence s f).1 := by
  unfold endFence
  try dsimp only
  repeat' first
    | with_reducible assumption
    | split
    | with_reducible rfl
    | (with_reducible refine mk_keeps ?_ ?_ ?_ ?_; first | with_reducible assumption | split)
theorem endFence_keeps_eq {s₀ s : State} (hk : Keeps s₀ s) {f : FenceRun} {x0 x1} (heq : endFence s f = (x0, x1)) : Keeps s₀ x0 := by
  have := endFence_keeps (s₀ := s₀) (s := s) hk (f := f)
  rw [heq] at this; exact this

theorem portEvent_keeps {s₀ s : State} (hk : Keeps s₀ s) {p b : Nat} : Keeps s₀ (portEvent s p b) := by
  unfold portEvent
  try dsimp only
  repeat' first
    | with_reducible assumption
    | with_reducible apply setBitOf_keeps
    | split

theorem noteSince_keeps {s₀ s : State} (hk : Keeps s₀ s) {key : Nat} : Keeps s₀ (noteSince s key) := by
  unfold noteSince
  try dsimp only
  repeat' first
    | with_reducible assumption
    | split
    | with_reducible rfl
    | (with_reducible refine mk_keeps ?_ ?_ ?_ ?_; first | with_reducible assumption | split)

theorem marginWarn_keeps {s₀ s : State} (hk : Keeps s₀ s) {b source place : Nat} : Keeps s₀ (marginWarn s b source place) := by
  unfold marginWarn
  try dsimp only
  repeat' first
    | with_reducible assumption
    | with_reducible apply noteSince_keeps
    | with_reducible apply setBitOf_keeps
    | with_reducible apply fault_keeps
    | split

theorem cohErr_keeps {s₀ s : State} (hk : Keeps s₀ s) {b : Nat} {e : Epc} : Keeps s₀ (cohErr s b e) := by
  unfold cohErr
  try dsimp only
  repeat' first
    | with_reducible assumption
    | with_reducible apply setBitOf_keeps
    | with_reducible apply wr_keeps
    | split

theorem colErr_keeps {s₀ s : State} (hk : Keeps s₀ s) {b : Nat} : Keeps s₀ (colErr s b) := by
  unfold colErr
  try dsimp only
  repeat' first
    | with_reducible assumption
    | with_reducible apply setBitOf_keeps
    | split

theorem halErr_keeps {s₀ s : State} (hk : Keeps s₀ s) {b : Nat} : Keeps s₀ (halErr s b) := by
  unfold halErr
  try dsimp only
  repeat' first
    | with_reducible assumption
    | with_reducible apply setBitOf_keeps
    | split

theorem fnErr_keeps {s₀ s : State} (hk : Keeps s₀ s) {j f b : Nat} : Keeps s₀ (fnErr s j f b) := by
  unfold fnErr
  try dsimp only
  repeat' first
    | with_reducible assumption
    | with_reducible apply setBitOf_keeps
    | with_reducible apply msix_keeps
    | split

theorem hostErr_keeps {s₀ s : State} (hk : Keeps s₀ s) {j b : Nat} : Keeps s₀ (hostErr s j b) := by
  unfold hostErr
  try dsimp only
  repeat' first
    | with_reducible assumption
    | with_reducible apply setBitOf_keeps
    | split

theorem fnFail_keeps {s₀ s : State} (hk : Keeps s₀ s) {j f b status addr : Nat} : Keeps s₀ (fnFail s j f b status addr) := by
  unfold fnFail
  try dsimp only
  repeat' first
    | with_reducible assumption
    | with_reducible apply wr64_keeps
    | with_reducible apply setBitOf_keeps
    | with_reducible apply setFld_keeps
    | with_reducible apply fnErr_keeps
    | with_reducible apply ev_keeps
    | split

theorem semAdd_keeps {s₀ s : State} (hk : Keeps s₀ s) {sem n : Nat} : Keeps s₀ (semAdd s sem n) := by
  unfold semAdd
  try dsimp only
  repeat' first
    | with_reducible assumption
    | with_reducible apply wr_keeps
    | split

theorem notice_keeps {s₀ s : State} (hk : Keeps s₀ s) {j f group kind step chunk count : Nat} : Keeps s₀ (notice s j f group kind step chunk count) := by
  unfold notice
  try dsimp only
  repeat' first
    | with_reducible assumption
    | with_reducible apply noteSince_keeps
    | with_reducible apply fault0_keeps
    | with_reducible apply hostErr_keeps
    | with_reducible apply emit_keeps
    | with_reducible apply fnErr_keeps
    | with_reducible apply wr_keeps
    | with_reducible apply ev_keeps
    | with_reducible apply msix_keeps
    | split

theorem noticeAll_keeps {s₀ s : State} (hk : Keeps s₀ s) {part group kind step chunk count : Nat} : Keeps s₀ (noticeAll s part group kind step chunk count) := by
  unfold noticeAll
  try dsimp only
  repeat' first
    | with_reducible assumption
    | with_reducible apply notice_keeps
    | (with_reducible refine forEach_keeps (fun _ _ _ => ?_) ?_)
    | split

theorem noteActivePath_keeps {s₀ s : State} (hk : Keeps s₀ s) : Keeps s₀ (noteActivePath s) := by
  unfold noteActivePath
  try dsimp only
  repeat' first
    | with_reducible assumption
    | with_reducible apply setBitOf_keeps
    | (with_reducible refine forEach_keeps (fun _ _ _ => ?_) ?_)
    | split

theorem disableTransmitters_keeps {s₀ s : State} (hk : Keeps s₀ s) : Keeps s₀ (disableTransmitters s) := by
  unfold disableTransmitters
  try dsimp only
  repeat' first
    | with_reducible assumption
    | with_reducible apply setBitOf_keeps
    | with_reducible apply setFld_keeps
    | (with_reducible refine forEach_keeps (fun _ _ _ => ?_) ?_)
    | split

theorem updateService_keeps {s₀ s : State} (hk : Keeps s₀ s) : Keeps s₀ (updateService s) := by
  unfold updateService
  try dsimp only
  repeat' first
    | with_reducible assumption
    | with_reducible apply fault0_keeps
    | with_reducible apply alertEdge_keeps
    | with_reducible apply setFld_keeps
    | with_reducible apply fault_keeps
    | with_reducible apply disableTransmitters_keeps
    | split
    | with_reducible rfl
    | (with_reducible refine mk_keeps ?_ ?_ ?_ ?_; first | with_reducible assumption | with_reducible apply fault0_keeps | with_reducible apply alertEdge_keeps | with_reducible apply setFld_keeps | with_reducible apply fault_keeps | with_reducible apply disableTransmitters_keeps | split)

theorem setDirBits_keeps {s₀ s : State} (hk : Keeps s₀ s) {line b : Nat} : Keeps s₀ (setDirBits s line b) := by
  unfold setDirBits
  try dsimp only
  repeat' first
    | with_reducible assumption
    | split
    | with_reducible rfl
    | (with_reducible refine mk_keeps ?_ ?_ ?_ ?_; first | with_reducible assumption | split)

theorem lineFault_keeps {s₀ s : State} (hk : Keeps s₀ s) {code sev line device cause holder : Nat} : Keeps s₀ (lineFault s code sev line device cause holder) := by
  unfold lineFault
  try dsimp only
  repeat' first
    | with_reducible assumption
    | with_reducible apply fault_keeps
    | split

theorem watchRise_keeps {s₀ s : State} (hk : Keeps s₀ s) {line : Nat} : Keeps s₀ (watchRise s line) := by
  unfold watchRise
  try dsimp only
  repeat' first
    | with_reducible assumption
    | with_reducible apply semAdd_keeps
    | with_reducible apply ev_keeps
    | (with_reducible refine forEach_keeps (fun _ _ _ => ?_) ?_)
    | split

end Sys2Proof.Machine
end

