-- ==== Sys2Proof/Laws/KeepsHomes.lean ====
section
/-! SUPPORT. Keeps, function by function: collective steps, homes, lanes and ports, caches, the Pantry. -/

set_option linter.unusedTactic false
set_option linter.unreachableTactic false
set_option linter.unusedVariables false

namespace Sys2Proof.Machine

theorem markDegraded_keeps {s₀ s : State} (hk : Keeps s₀ s) {g : Nat} : Keeps s₀ (markDegraded s g) := by
  unfold markDegraded
  try dsimp only
  repeat' first
    | with_reducible assumption
    | with_reducible apply setBitOf_keeps
    | split

theorem setStep_keeps {s₀ s : State} (hk : Keeps s₀ s) {r : StepRec} : Keeps s₀ (setStep s r) := by
  unfold setStep
  try dsimp only
  repeat' first
    | with_reducible assumption
    | split
    | with_reducible rfl
    | (with_reducible refine mk_keeps ?_ ?_ ?_ ?_; first | with_reducible assumption | split)

theorem noteGState_keeps {s₀ s : State} (hk : Keeps s₀ s) {g : Nat} : Keeps s₀ (noteGState s g) := by
  unfold noteGState
  try dsimp only
  repeat' first
    | with_reducible assumption
    | with_reducible apply setFld_keeps
    | split

theorem openStep_keeps {s₀ s : State} (hk : Keeps s₀ s) {g : Nat} {step : Word} : Keeps s₀ (openStep s g step) := by
  unfold openStep
  try dsimp only
  repeat' first
    | with_reducible assumption
    | with_reducible apply noteGState_keeps
    | with_reducible apply wr_keeps
    | with_reducible apply setStep_keeps
    | split

theorem setMemState_keeps {s₀ s : State} (hk : Keeps s₀ s) {g i : Nat} {m : MemberState} : Keeps s₀ (setMemState s g i m) := by
  unfold setMemState
  try dsimp only
  repeat' first
    | with_reducible assumption
    | split
    | with_reducible rfl
    | (with_reducible refine mk_keeps ?_ ?_ ?_ ?_; first | with_reducible assumption | split)

theorem collSend_keeps {s₀ s : State} (hk : Keeps s₀ s) {g : Nat} {p : Packet} : Keeps s₀ (collSend s g p) := by
  unfold collSend
  try dsimp only
  repeat' first
    | with_reducible assumption
    | with_reducible apply sendPlain_keeps
    | with_reducible apply sealPkt_keeps
    | (with_reducible refine sealPkt_keeps_eq ?_ (by assumption))
    | split

theorem sendCount_keeps {s₀ s : State} (hk : Keeps s₀ s) {g : Nat} {dest : Epc} {step chunk : Word} {strand : Bool} {kind count arg member : Nat} {vec : List Nat} : Keeps s₀ (sendCount s g dest step chunk strand kind count arg member vec) := by
  unfold sendCount
  try dsimp only
  repeat' first
    | with_reducible assumption
    | with_reducible apply collSend_keeps
    | split

theorem revokeToSteward_keeps {s₀ s : State} (hk : Keeps s₀ s) {g : Nat} {step chunk : Word} : Keeps s₀ (revokeToSteward s g step chunk) := by
  unfold revokeToSteward
  try dsimp only
  repeat' first
    | with_reducible assumption
    | with_reducible apply collSend_keeps
    | with_reducible apply bump64_keeps
    | with_reducible apply noticeAll_keeps
    | with_reducible apply colErr_keeps
    | with_reducible apply ev_keeps
    | split

theorem groupFault_keeps {s₀ s : State} (hk : Keeps s₀ s) {code sev g : Nat} {step chunk : Word} {strand combiner piece : Nat} : Keeps s₀ (groupFault s code sev g step chunk strand combiner piece) := by
  unfold groupFault
  try dsimp only
  repeat' first
    | with_reducible assumption
    | with_reducible apply fault_keeps
    | split

theorem setHalf_keeps {s₀ s : State} (hk : Keeps s₀ s) {h : Half} : Keeps s₀ (setHalf s h) := by
  unfold setHalf
  try dsimp only
  repeat' first
    | with_reducible assumption
    | split
    | with_reducible rfl
    | (with_reducible refine mk_keeps ?_ ?_ ?_ ?_; first | with_reducible assumption | split)

theorem dropHalf_keeps {s₀ s : State} (hk : Keeps s₀ s) {h : Half} : Keeps s₀ (dropHalf s h) := by
  unfold dropHalf
  try dsimp only
  repeat' first
    | with_reducible assumption
    | split
    | with_reducible rfl
    | (with_reducible refine mk_keeps ?_ ?_ ?_ ?_; first | with_reducible assumption | split)

theorem freeInputs_keeps {s₀ s : State} (hk : Keeps s₀ s) {xs : List Input} : Keeps s₀ (freeInputs s xs) := by
  unfold freeInputs
  try dsimp only
  repeat' first
    | with_reducible assumption
    | with_reducible apply freeCells_keeps
    | (with_reducible refine forEach_keeps (fun _ _ _ => ?_) ?_)
    | split
    | with_reducible rfl
    | (with_reducible refine mk_keeps ?_ ?_ ?_ ?_; first | with_reducible assumption | with_reducible apply freeCells_keeps | (with_reducible refine forEach_keeps (fun _ _ _ => ?_) ?_) | split)

theorem abandonHalf_keeps {s₀ s : State} (hk : Keeps s₀ s) {h : Half} : Keeps s₀ (abandonHalf s h) := by
  unfold abandonHalf
  try dsimp only
  repeat' first
    | with_reducible assumption
    | with_reducible apply freeInputs_keeps
    | with_reducible apply dropHalf_keeps
    | with_reducible apply groupFault_keeps
    | with_reducible apply colErr_keeps
    | with_reducible apply ev_keeps
    | split

theorem sendHalf_keeps {s₀ s : State} (hk : Keeps s₀ s) {h : Half} : Keeps s₀ (sendHalf s h) := by
  unfold sendHalf
  try dsimp only
  repeat' first
    | with_reducible assumption
    | with_reducible apply collSend_keeps
    | with_reducible apply abandonHalf_keeps
    | with_reducible apply revokeToSteward_keeps
    | with_reducible apply ev_keeps
    | (with_reducible refine forEach_keeps (fun _ _ _ => ?_) ?_)
    | split

theorem sendReissue_keeps {s₀ s : State} (hk : Keeps s₀ s) {g : Nat} {step chunk : Word} {strand : Bool} {dest : Epc} {mask member : Nat} : Keeps s₀ (sendReissue s g step chunk strand dest mask member) := by
  unfold sendReissue
  try dsimp only
  repeat' first
    | with_reducible assumption
    | with_reducible apply sendCount_keeps
    | with_reducible apply bump64_keeps
    | with_reducible apply ev_keeps
    | split

theorem collWrite_keeps {s₀ s : State} (hk : Keeps s₀ s) {g off : Nat} {data : List Byte} {agent : Agent} : Keeps s₀ (collWrite s g off data agent) := by
  unfold collWrite
  try dsimp only
  repeat' first
    | with_reducible assumption
    | with_reducible apply issue_keeps
    | (with_reducible refine foldl_keeps (fun _ _ _ => ?_) ?_)
    | (with_reducible refine fold1_keeps (fun _ _ _ => ?_) ?_)
    | (with_reducible refine fold2_keeps (fun _ _ _ => ?_) ?_)
    | (with_reducible refine fold3_keeps (fun _ _ _ => ?_) ?_)
    | split

theorem writeStepRec_keeps {s₀ s : State} (hk : Keeps s₀ s) {g : Nat} {step : Word} {state : Nat} {chunk : Nat} : Keeps s₀ (writeStepRec s g step state chunk) := by
  unfold writeStepRec
  try dsimp only
  repeat' first
    | with_reducible assumption
    | with_reducible apply collWrite_keeps
    | split

theorem writeChunk_keeps {s₀ s : State} (hk : Keeps s₀ s) {r : StepRec} {c : Nat} : Keeps s₀ (writeChunk s r c) := by
  unfold writeChunk
  try dsimp only
  repeat' first
    | with_reducible assumption
    | with_reducible apply collWrite_keeps
    | with_reducible apply setStep_keeps
    | (with_reducible refine forEach_keeps (fun _ _ _ => ?_) ?_)
    | split

theorem collRead_keeps {s₀ s : State} (hk : Keeps s₀ s) {g line : Nat} {agent : Agent} : Keeps s₀ (collRead s g line agent) := by
  unfold collRead
  try dsimp only
  repeat' first
    | with_reducible assumption
    | with_reducible apply issue_keeps
    | split

theorem beginGathers_keeps {s₀ s : State} (hk : Keeps s₀ s) {xs : List Gather} : Keeps s₀ (beginGathers s xs) := by
  unfold beginGathers
  try dsimp only
  repeat' first
    | with_reducible assumption
    | with_reducible apply collRead_keeps
    | (with_reducible refine forEach_keeps (fun _ _ _ => ?_) ?_)
    | split
    | with_reducible rfl
    | (with_reducible refine mk_keeps ?_ ?_ ?_ ?_; first | with_reducible assumption | with_reducible apply collRead_keeps | (with_reducible refine forEach_keeps (fun _ _ _ => ?_) ?_) | split)

theorem startGather_keeps {s₀ s : State} (hk : Keeps s₀ s) {g : Nat} {step : Word} {slot : Nat} : Keeps s₀ (startGather s g step slot) := by
  unfold startGather
  try dsimp only
  repeat' first
    | with_reducible assumption
    | with_reducible apply beginGathers_keeps
    | with_reducible apply setStep_keeps
    | split

theorem gatherOver_keeps {s₀ s : State} (hk : Keeps s₀ s) {g : Nat} {step : Word} : Keeps s₀ (gatherOver s g step) := by
  unfold gatherOver
  try dsimp only
  repeat' first
    | with_reducible assumption
    | with_reducible apply sendCount_keeps
    | with_reducible apply setStep_keeps
    | split

theorem gatherLine_keeps {s₀ s : State} (hk : Keeps s₀ s) {g : Nat} {step chunk : Word} {p : Nat} {member : Option Epc} {line : Nat} {data : List Byte} : Keeps s₀ (gatherLine s g step chunk p member line data) := by
  unfold gatherLine
  try dsimp only
  repeat' first
    | with_reducible assumption
    | with_reducible apply gatherOver_keeps
    | with_reducible apply collSend_keeps
    | with_reducible apply ev_keeps
    | split
    | with_reducible rfl
    | (with_reducible refine mk_keeps ?_ ?_ ?_ ?_; first | with_reducible assumption | with_reducible apply gatherOver_keeps | with_reducible apply collSend_keeps | with_reducible apply ev_keeps | split)

theorem gatherFails_keeps {s₀ s : State} (hk : Keeps s₀ s) {g : Nat} {step chunk : Word} {p : Nat} {member : Option Epc} : Keeps s₀ (gatherFails s g step chunk p member) := by
  unfold gatherFails
  try dsimp only
  repeat' first
    | with_reducible assumption
    | with_reducible apply revokeToSteward_keeps
    | with_reducible apply setStep_keeps
    | split
    | with_reducible rfl
    | (with_reducible refine mk_keeps ?_ ?_ ?_ ?_; first | with_reducible assumption | with_reducible apply revokeToSteward_keeps | with_reducible apply setStep_keeps | split)

theorem freeA2aHeld_keeps {s₀ s : State} (hk : Keeps s₀ s) {xs : List (Delivered × Nat × Nat)} : Keeps s₀ (freeA2aHeld s xs) := by
  unfold freeA2aHeld
  try dsimp only
  repeat' first
    | with_reducible assumption
    | with_reducible apply freeCells_keeps
    | (with_reducible refine forEach_keeps (fun _ _ _ => ?_) ?_)
    | split
    | with_reducible rfl
    | (with_reducible refine mk_keeps ?_ ?_ ?_ ?_; first | with_reducible assumption | with_reducible apply freeCells_keeps | (with_reducible refine forEach_keeps (fun _ _ _ => ?_) ?_) | split)

theorem closeStep_keeps {s₀ s : State} (hk : Keeps s₀ s) {g : Nat} {step : Word} : Keeps s₀ (closeStep s g step) := by
  unfold closeStep
  try dsimp only
  repeat' first
    | with_reducible assumption
    | with_reducible apply noteGState_keeps
    | with_reducible apply freeA2aHeld_keeps
    | with_reducible apply freeInputs_keeps
    | with_reducible apply dropHalf_keeps
    | (with_reducible refine forEach_keeps (fun _ _ _ => ?_) ?_)
    | split
    | with_reducible rfl
    | (with_reducible refine mk_keeps ?_ ?_ ?_ ?_; first | with_reducible assumption | with_reducible apply noteGState_keeps | with_reducible apply freeA2aHeld_keeps | with_reducible apply freeInputs_keeps | with_reducible apply dropHalf_keeps | (with_reducible refine forEach_keeps (fun _ _ _ => ?_) ?_) | split)

theorem commitHere_keeps {s₀ s : State} (hk : Keeps s₀ s) {g : Nat} {step : Word} : Keeps s₀ (commitHere s g step) := by
  unfold commitHere
  try dsimp only
  repeat' first
    | with_reducible assumption
    | with_reducible apply closeStep_keeps
    | with_reducible apply sendCount_keeps
    | with_reducible apply setFld_keeps
    | with_reducible apply wr_keeps
    | with_reducible apply noticeAll_keeps
    | with_reducible apply ev_keeps
    | (with_reducible refine forEach_keeps (fun _ _ _ => ?_) ?_)
    | split

theorem revokeHere_keeps {s₀ s : State} (hk : Keeps s₀ s) {g : Nat} {step chunk : Word} : Keeps s₀ (revokeHere s g step chunk) := by
  unfold revokeHere
  try dsimp only
  repeat' first
    | with_reducible assumption
    | with_reducible apply startGather_keeps
    | with_reducible apply setMemState_keeps
    | with_reducible apply closeStep_keeps
    | with_reducible apply setFld_keeps
    | with_reducible apply writeStepRec_keeps
    | (with_reducible refine forEach_keeps (fun _ _ _ => ?_) ?_)
    | split
    | with_reducible rfl
    | (with_reducible refine mk_keeps ?_ ?_ ?_ ?_; first | with_reducible assumption | with_reducible apply startGather_keeps | with_reducible apply setMemState_keeps | with_reducible apply closeStep_keeps | with_reducible apply setFld_keeps | with_reducible apply writeStepRec_keeps | (with_reducible refine forEach_keeps (fun _ _ _ => ?_) ?_) | split)

theorem setTally_keeps {s₀ s : State} (hk : Keeps s₀ s) {t : Tally} : Keeps s₀ (setTally s t) := by
  unfold setTally
  try dsimp only
  repeat' first
    | with_reducible assumption
    | split
    | with_reducible rfl
    | (with_reducible refine mk_keeps ?_ ?_ ?_ ?_; first | with_reducible assumption | split)

theorem commitIfComplete_keeps {s₀ s : State} (hk : Keeps s₀ s) {g : Nat} {step : Word} : Keeps s₀ (commitIfComplete s g step) := by
  unfold commitIfComplete
  try dsimp only
  repeat' first
    | with_reducible assumption
    | with_reducible apply sendCount_keeps
    | with_reducible apply commitHere_keeps
    | (with_reducible refine forEach_keeps (fun _ _ _ => ?_) ?_)
    | split

theorem stewardRevoke_keeps {s₀ s : State} (hk : Keeps s₀ s) {g : Nat} {step chunk : Word} {raiser : Epc} : Keeps s₀ (stewardRevoke s g step chunk raiser) := by
  unfold stewardRevoke
  try dsimp only
  repeat' first
    | with_reducible assumption
    | with_reducible apply collSend_keeps
    | with_reducible apply bump64_keeps
    | with_reducible apply fault_keeps
    | with_reducible apply noticeAll_keeps
    | with_reducible apply colErr_keeps
    | with_reducible apply revokeHere_keeps
    | with_reducible apply ev_keeps
    | (with_reducible refine forEach_keeps (fun _ _ _ => ?_) ?_)
    | split

theorem trigIgnored_keeps {s₀ s : State} (hk : Keeps s₀ s) : Keeps s₀ (trigIgnored s) := by
  unfold trigIgnored
  try dsimp only
  repeat' first
    | with_reducible assumption
    | with_reducible apply bump64_keeps
    | with_reducible apply ev_keeps
    | split

theorem arrivedIfComplete_keeps {s₀ s : State} (hk : Keeps s₀ s) {g : Nat} {step : Word} : Keeps s₀ (arrivedIfComplete s g step) := by
  unfold arrivedIfComplete
  try dsimp only
  repeat' first
    | with_reducible assumption
    | with_reducible apply sendCount_keeps
    | with_reducible apply setStep_keeps
    | split

theorem acceptStart_keeps {s₀ s : State} (hk : Keeps s₀ s) {g i : Nat} {step : Word} : Keeps s₀ (acceptStart s g i step) := by
  unfold acceptStart
  try dsimp only
  repeat' first
    | with_reducible assumption
    | with_reducible apply arrivedIfComplete_keeps
    | with_reducible apply openStep_keeps
    | with_reducible apply setMemState_keeps
    | with_reducible apply setStep_keeps
    | with_reducible apply ev_keeps
    | split
    | with_reducible rfl
    | (with_reducible refine mk_keeps ?_ ?_ ?_ ?_; first | with_reducible assumption | with_reducible apply arrivedIfComplete_keeps | with_reducible apply openStep_keeps | with_reducible apply setMemState_keeps | with_reducible apply setStep_keeps | with_reducible apply ev_keeps | split)

theorem trigStart_keeps {s₀ s : State} (hk : Keeps s₀ s) {g i : Nat} {step : Word} : Keeps s₀ (trigStart s g i step) := by
  unfold trigStart
  try dsimp only
  repeat' first
    | with_reducible assumption
    | with_reducible apply trigIgnored_keeps
    | with_reducible apply acceptStart_keeps
    | split
    | with_reducible rfl
    | (with_reducible refine mk_keeps ?_ ?_ ?_ ?_; first | with_reducible assumption | with_reducible apply trigIgnored_keeps | with_reducible apply acceptStart_keeps | split)

theorem trigCommit_keeps {s₀ s : State} (hk : Keeps s₀ s) {g i : Nat} {step : Word} : Keeps s₀ (trigCommit s g i step) := by
  unfold trigCommit
  try dsimp only
  repeat' first
    | with_reducible assumption
    | with_reducible apply noteGState_keeps
    | with_reducible apply trigIgnored_keeps
    | with_reducible apply setMemState_keeps
    | with_reducible apply sendCount_keeps
    | with_reducible apply setStep_keeps
    | split

theorem trigPublish_keeps {s₀ s : State} (hk : Keeps s₀ s) {g : Nat} {step : Word} : Keeps s₀ (trigPublish s g step) := by
  unfold trigPublish
  try dsimp only
  repeat' first
    | with_reducible assumption
    | with_reducible apply trigIgnored_keeps
    | with_reducible apply startGather_keeps
    | split

theorem trigWrite_keeps {s₀ s : State} (hk : Keeps s₀ s) {line : Nat} {p : Packet} {mask : Option Nat} {data : List Byte} : Keeps s₀ (trigWrite s line p mask data) := by
  unfold trigWrite
  try dsimp only
  repeat' first
    | with_reducible assumption
    | with_reducible apply trigIgnored_keeps
    | with_reducible apply trigPublish_keeps
    | with_reducible apply trigCommit_keeps
    | with_reducible apply trigStart_keeps
    | (with_reducible refine forEach_keeps (fun _ _ _ => ?_) ?_)
    | split

theorem homEv_keeps {s₀ s : State} (hk : Keeps s₀ s) {line k n : Nat} : Keeps s₀ (homEv s line k n) := by
  unfold homEv
  try dsimp only
  repeat' first
    | with_reducible assumption
    | with_reducible apply ev_keeps
    | split

theorem noteHome_keeps {s₀ s : State} (hk : Keeps s₀ s) {d : Nat} : Keeps s₀ (noteHome s d) := by
  unfold noteHome
  try dsimp only
  repeat' first
    | with_reducible assumption
    | with_reducible apply setFld_keeps
    | split

theorem setLctl_keeps {s₀ s : State} (hk : Keeps s₀ s) {line : Nat} {c : LineCtl} : Keeps s₀ (setLctl s line c) := by
  unfold setLctl
  try dsimp only
  repeat' first
    | with_reducible assumption
    | with_reducible apply noteHome_keeps
    | split
    | with_reducible rfl
    | (with_reducible refine mk_keeps ?_ ?_ ?_ ?_; first | with_reducible assumption | with_reducible apply noteHome_keeps | split)

theorem modTxn_keeps {s₀ s : State} (hk : Keeps s₀ s) {line : Nat} {f : Txn → Txn} : Keeps s₀ (modTxn s line f) := by
  unfold modTxn
  try dsimp only
  repeat' first
    | with_reducible assumption
    | with_reducible apply setLctl_keeps
    | split

theorem mirrorChange_keeps {s₀ s : State} (hk : Keeps s₀ s) {line : Nat} {m : MirrorMsg} : Keeps s₀ (mirrorChange s line m) := by
  unfold mirrorChange
  try dsimp only
  repeat' first
    | with_reducible assumption
    | with_reducible apply homEv_keeps
    | with_reducible apply emit_keeps
    | with_reducible apply setFld_keeps
    | with_reducible apply modTxn_keeps
    | split
    | with_reducible rfl
    | (with_reducible refine mk_keeps ?_ ?_ ?_ ?_; first | with_reducible assumption | with_reducible apply homEv_keeps | with_reducible apply emit_keeps | with_reducible apply setFld_keeps | with_reducible apply modTxn_keeps | split)

theorem setSealLine_keeps {s₀ s : State} (hk : Keeps s₀ s) {key : Nat} {l : SealLine} : Keeps s₀ (setSealLine s key l) := by
  unfold setSealLine
  try dsimp only
  repeat' first
    | with_reducible assumption
    | split
    | with_reducible rfl
    | (with_reducible refine mk_keeps ?_ ?_ ?_ ?_; first | with_reducible assumption | split)

theorem sealRebuild_keeps {s₀ s : State} (hk : Keeps s₀ s) {r : Region} {line : Nat} : Keeps s₀ (sealRebuild s r line) := by
  unfold sealRebuild
  try dsimp only
  repeat' first
    | with_reducible assumption
    | with_reducible apply setSealLine_keeps
    | (with_reducible refine forEach_keeps (fun _ _ _ => ?_) ?_)
    | split

theorem sealWrite_keeps {s₀ s : State} (hk : Keeps s₀ s) {line : Nat} : Keeps s₀ (sealWrite s line) := by
  unfold sealWrite
  try dsimp only
  repeat' first
    | with_reducible assumption
    | with_reducible apply sealRebuild_keeps
    | with_reducible apply setSealLine_keeps
    | with_reducible apply ev_keeps
    | split

theorem storeQuiet_keeps {s₀ s : State} (hk : Keeps s₀ s) {line : Nat} {bs : List Byte} : Keeps s₀ (storeQuiet s line bs) := by
  unfold storeQuiet
  try dsimp only
  repeat' first
    | with_reducible assumption
    | with_reducible apply memWriteLine_keeps
    | with_reducible apply sealWrite_keeps
    | with_reducible apply ev_keeps
    | split
    | with_reducible rfl
    | (with_reducible refine mk_keeps ?_ ?_ ?_ ?_; first | with_reducible assumption | with_reducible apply memWriteLine_keeps | with_reducible apply sealWrite_keeps | with_reducible apply ev_keeps | split)

theorem mirrorValue_keeps {s₀ s : State} (hk : Keeps s₀ s) {line : Nat} : Keeps s₀ (mirrorValue s line) := by
  unfold mirrorValue
  try dsimp only
  repeat' first
    | with_reducible assumption
    | with_reducible apply mirrorChange_keeps
    | split

theorem storeLine_keeps {s₀ s : State} (hk : Keeps s₀ s) {line : Nat} {bs : List Byte} : Keeps s₀ (storeLine s line bs) := by
  unfold storeLine
  try dsimp only
  repeat' first
    | with_reducible assumption
    | with_reducible apply storeQuiet_keeps
    | with_reducible apply mirrorValue_keeps
    | split

theorem fetchLine_keeps {s₀ s : State} (hk : Keeps s₀ s) {line : Nat} : Keeps s₀ (fetchLine s line).2 := by
  unfold fetchLine
  try dsimp only
  repeat' first
    | with_reducible assumption
    | with_reducible apply ev_keeps
    | split
theorem fetchLine_keeps_eq {s₀ s : State} (hk : Keeps s₀ s) {line : Nat} {x0 x1} (heq : fetchLine s line = (x0, x1)) : Keeps s₀ x1 := by
  have := fetchLine_keeps (s₀ := s₀) (s := s) hk (line := line)
  rw [heq] at this; exact this

theorem poisonLine_keeps {s₀ s : State} (hk : Keeps s₀ s) {line : Nat} : Keeps s₀ (poisonLine s line) := by
  unfold poisonLine
  try dsimp only
  repeat' first
    | with_reducible assumption
    | with_reducible apply setDirBits_keeps
    | with_reducible apply ev_keeps
    | split

theorem restoreLine_keeps {s₀ s : State} (hk : Keeps s₀ s) {line : Nat} : Keeps s₀ (restoreLine s line) := by
  unfold restoreLine
  dsimp only
  split
  · refine ev_keeps (setDirBits_keeps ?_)
    exact mk_keeps_wf hk id id id (fun k => cellWrite_wf _ _ _ k) id id (Nat.le_refl _) (List.prefix_refl _)
  · exact hk

theorem noteDir_keeps {s₀ s : State} (hk : Keeps s₀ s) {d : Nat} : Keeps s₀ (noteDir s d) := by
  unfold noteDir
  try dsimp only
  repeat' first
    | with_reducible assumption
    | with_reducible apply setFld_keeps
    | split

theorem putDir_keeps {s₀ s : State} (hk : Keeps s₀ s) {r : DirRec} : Keeps s₀ (putDir s r) := by
  unfold putDir
  try dsimp only
  repeat' first
    | with_reducible assumption
    | with_reducible apply setDirBits_keeps
    | with_reducible apply mirrorChange_keeps
    | with_reducible apply noteDir_keeps
    | split
    | with_reducible rfl
    | (with_reducible refine mk_keeps ?_ ?_ ?_ ?_; first | with_reducible assumption | with_reducible apply setDirBits_keeps | with_reducible apply mirrorChange_keeps | with_reducible apply noteDir_keeps | split)

theorem mkDir_keeps {s₀ s : State} (hk : Keeps s₀ s) {line : Nat} {owned fwd : Bool} {holders : List Epc} : Keeps s₀ (mkDir s line owned fwd holders) := by
  unfold mkDir
  try dsimp only
  repeat' first
    | with_reducible assumption
    | with_reducible apply putDir_keeps
    | split
    | with_reducible rfl
    | (with_reducible refine mk_keeps ?_ ?_ ?_ ?_; first | with_reducible assumption | with_reducible apply putDir_keeps | split)

theorem dropHolder_keeps {s₀ s : State} (hk : Keeps s₀ s) {line : Nat} {e : Epc} : Keeps s₀ (dropHolder s line e) := by
  unfold dropHolder
  try dsimp only
  repeat' first
    | with_reducible assumption
    | with_reducible apply putDir_keeps
    | split

theorem poisonAndForget_keeps {s₀ s : State} (hk : Keeps s₀ s) {line : Nat} : Keeps s₀ (poisonAndForget s line) := by
  unfold poisonAndForget
  try dsimp only
  repeat' first
    | with_reducible assumption
    | with_reducible apply putDir_keeps
    | with_reducible apply poisonLine_keeps
    | split

theorem sendC2_keeps {s₀ s : State} (hk : Keeps s₀ s) {line : Nat} {op : Byte} {holder : Epc} {tag : BitVec 16} {req : Epc} : Keeps s₀ (sendC2 s line op holder tag req) := by
  unfold sendC2
  try dsimp only
  repeat' first
    | with_reducible assumption
    | with_reducible apply sendPlain_keeps
    | with_reducible apply homEv_keeps
    | split

theorem snoopAll_keeps {s₀ s : State} (hk : Keeps s₀ s) {line : Nat} {op : Byte} {hs : List Epc} : Keeps s₀ (snoopAll s line op hs).1 := by
  unfold snoopAll
  try dsimp only
  repeat' first
    | with_reducible assumption
    | with_reducible apply sendC2_keeps
    | (with_reducible refine foldl_keeps (fun _ _ _ => ?_) ?_)
    | (with_reducible refine fold1_keeps (fun _ _ _ => ?_) ?_)
    | (with_reducible refine fold2_keeps (fun _ _ _ => ?_) ?_)
    | (with_reducible refine fold3_keeps (fun _ _ _ => ?_) ?_)
    | split
    | with_reducible rfl
    | (with_reducible refine mk_keeps ?_ ?_ ?_ ?_; first | with_reducible assumption | with_reducible apply sendC2_keeps | (with_reducible refine foldl_keeps (fun _ _ _ => ?_) ?_) | (with_reducible refine fold1_keeps (fun _ _ _ => ?_) ?_) | (with_reducible refine fold2_keeps (fun _ _ _ => ?_) ?_) | (with_reducible refine fold3_keeps (fun _ _ _ => ?_) ?_) | split)
theorem snoopAll_keeps_eq {s₀ s : State} (hk : Keeps s₀ s) {line : Nat} {op : Byte} {hs : List Epc} {x0 x1} (heq : snoopAll s line op hs = (x0, x1)) : Keeps s₀ x0 := by
  have := snoopAll_keeps (s₀ := s₀) (s := s) hk (line := line) (op := op) (hs := hs)
  rw [heq] at this; exact this

theorem forwardTo_keeps {s₀ s : State} (hk : Keeps s₀ s) {line : Nat} {op : Byte} {holder req : Epc} {tag : BitVec 16} : Keeps s₀ (forwardTo s line op holder req tag).1 := by
  unfold forwardTo
  try dsimp only
  repeat' first
    | with_reducible assumption
    | with_reducible apply sendC2_keeps
    | split
theorem forwardTo_keeps_eq {s₀ s : State} (hk : Keeps s₀ s) {line : Nat} {op : Byte} {holder req : Epc} {tag : BitVec 16} {x0 x1} (heq : forwardTo s line op holder req tag = (x0, x1)) : Keeps s₀ x0 := by
  have := forwardTo_keeps (s₀ := s₀) (s := s) hk (line := line) (op := op) (holder := holder) (req := req) (tag := tag)
  rw [heq] at this; exact this

theorem performWrite_keeps {s₀ s : State} (hk : Keeps s₀ s) {line : Nat} {p : Packet} {mir : Bool} : Keeps s₀ (performWrite s line p mir) := by
  unfold performWrite
  try dsimp only
  repeat' first
    | with_reducible assumption
    | with_reducible apply watchRise_keeps
    | with_reducible apply storeQuiet_keeps
    | with_reducible apply trigWrite_keeps
    | with_reducible apply setDirBits_keeps
    | with_reducible apply fetchLine_keeps
    | with_reducible apply storeLine_keeps
    | (with_reducible refine fetchLine_keeps_eq ?_ (by assumption))
    | split

theorem homeAnswer_keeps {s₀ s : State} (hk : Keeps s₀ s) {p : Packet} {status state : Nat} {token : BitVec 16} {hint : Nat} {data : List Byte} : Keeps s₀ (homeAnswer s p status state token hint data) := by
  unfold homeAnswer
  try dsimp only
  repeat' first
    | with_reducible assumption
    | with_reducible apply respond_keeps
    | split

theorem refuse_keeps {s₀ s : State} (hk : Keeps s₀ s) {p : Packet} {status : Nat} : Keeps s₀ (refuse s p status) := by
  unfold refuse
  try dsimp only
  repeat' first
    | with_reducible assumption
    | with_reducible apply homeAnswer_keeps
    | with_reducible apply ev_keeps
    | split

theorem aliasAnswer_keeps {s₀ s : State} (hk : Keeps s₀ s) {p : Packet} : Keeps s₀ (aliasAnswer s p) := by
  unfold aliasAnswer
  try dsimp only
  repeat' first
    | with_reducible assumption
    | with_reducible apply faultLimited_keeps
    | with_reducible apply refuse_keeps
    | split

theorem applyRequest_keeps {s₀ s : State} (hk : Keeps s₀ s) {line : Nat} {p : Packet} : Keeps s₀ (applyRequest s line p) := by
  unfold applyRequest
  try dsimp only
  repeat' first
    | with_reducible assumption
    | with_reducible apply performWrite_keeps
    | with_reducible apply mkDir_keeps
    | split

theorem answerRequest_keeps {s₀ s : State} (hk : Keeps s₀ s) {line : Nat} {t : Txn} {p : Packet} : Keeps s₀ (answerRequest s line t p) := by
  unfold answerRequest
  try dsimp only
  repeat' first
    | with_reducible assumption
    | with_reducible apply homeAnswer_keeps
    | with_reducible apply fetchLine_keeps
    | with_reducible apply modTxn_keeps
    | with_reducible apply refuse_keeps
    | (with_reducible refine fetchLine_keeps_eq ?_ (by assumption))
    | split

theorem beginOwn_keeps {s₀ s : State} (hk : Keeps s₀ s) {line : Nat} {kind : TxnKind} {req : Option HReq} {op : Byte} {hs : List Epc} : Keeps s₀ (beginOwn s line kind req op hs) := by
  unfold beginOwn
  try dsimp only
  repeat' first
    | with_reducible assumption
    | with_reducible apply snoopAll_keeps
    | with_reducible apply modTxn_keeps
    | with_reducible apply setLctl_keeps
    | (with_reducible refine snoopAll_keeps_eq ?_ (by assumption))
    | split

theorem dirMismatch_keeps {s₀ s : State} (hk : Keeps s₀ s) {line cause : Nat} {who : Epc} : Keeps s₀ (dirMismatch s line cause who) := by
  unfold dirMismatch
  try dsimp only
  repeat' first
    | with_reducible assumption
    | with_reducible apply cohErr_keeps
    | with_reducible apply lineFault_keeps
    | split

theorem checkDir_keeps {s₀ s : State} (hk : Keeps s₀ s) {line : Nat} {who : Epc} : Keeps s₀ (checkDir s line who) := by
  unfold checkDir
  try dsimp only
  repeat' first
    | with_reducible assumption
    | with_reducible apply setDirBits_keeps
    | with_reducible apply poisonAndForget_keeps
    | with_reducible apply poisonLine_keeps
    | with_reducible apply dirMismatch_keeps
    | split

theorem applyAnnounce_keeps {s₀ s : State} (hk : Keeps s₀ s) {line : Nat} {p : Packet} : Keeps s₀ (applyAnnounce s line p) := by
  unfold applyAnnounce
  try dsimp only
  repeat' first
    | with_reducible assumption
    | with_reducible apply watchRise_keeps
    | with_reducible apply cohErr_keeps
    | with_reducible apply homEv_keeps
    | with_reducible apply dropHolder_keeps
    | with_reducible apply storeLine_keeps
    | split

theorem beginHead_keeps {s₀ s : State} (hk : Keeps s₀ s) {line : Nat} : Keeps s₀ (beginHead s line) := by
  unfold beginHead
  try dsimp only
  repeat' first
    | with_reducible assumption
    | with_reducible apply cohErr_keeps
    | with_reducible apply snoopAll_keeps
    | with_reducible apply homEv_keeps
    | with_reducible apply applyAnnounce_keeps
    | with_reducible apply checkDir_keeps
    | with_reducible apply forwardTo_keeps
    | with_reducible apply bump64_keeps
    | with_reducible apply modTxn_keeps
    | with_reducible apply aliasAnswer_keeps
    | with_reducible apply restoreLine_keeps
    | with_reducible apply beginOwn_keeps
    | with_reducible apply setLctl_keeps
    | with_reducible apply ev_keeps
    | (with_reducible refine snoopAll_keeps_eq ?_ (by assumption))
    | (with_reducible refine forwardTo_keeps_eq ?_ (by assumption))
    | split

theorem exitHot_keeps {s₀ s : State} (hk : Keeps s₀ s) {line : Nat} : Keeps s₀ (exitHot s line) := by
  unfold exitHot
  try dsimp only
  repeat' first
    | with_reducible assumption
    | with_reducible apply setLctl_keeps
    | split

theorem endTxn_keeps {s₀ s : State} (hk : Keeps s₀ s) {line : Nat} : Keeps s₀ (endTxn s line) := by
  unfold endTxn
  try dsimp only
  repeat' first
    | with_reducible assumption
    | with_reducible apply exitHot_keeps
    | with_reducible apply setLctl_keeps
    | split

theorem sendGroup_keeps {s₀ s : State} (hk : Keeps s₀ s) {line : Nat} : Keeps s₀ (sendGroup s line) := by
  unfold sendGroup
  try dsimp only
  repeat' first
    | with_reducible assumption
    | with_reducible apply homeAnswer_keeps
    | with_reducible apply setLctl_keeps
    | (with_reducible refine forEach_keeps (fun _ _ _ => ?_) ?_)
    | split

theorem lineMove_keeps_eq {s₀ s t : State} (hk : Keeps s₀ s) {line : Nat} (heq : lineMove s line = some t) : Keeps s₀ t := by
  unfold lineMove at heq
  try dsimp only at heq
  repeat' split at heq
  all_goals first
    | (exfalso; revert heq; simp; done)
    | skip
  all_goals
    obtain rfl := Option.some.inj heq
    repeat' first
      | with_reducible assumption
      | with_reducible apply snoopAll_keeps
      | with_reducible apply applyRequest_keeps
      | with_reducible apply endTxn_keeps
      | with_reducible apply modTxn_keeps
      | with_reducible apply beginOwn_keeps
      | with_reducible apply beginHead_keeps
      | with_reducible apply setLctl_keeps
      | with_reducible apply answerRequest_keeps
      | with_reducible apply sendGroup_keeps
      | (with_reducible refine snoopAll_keeps_eq ?_ (by assumption))
      | split

theorem runLine_keeps {s₀ : State} {line : Nat} : ∀ {n : Nat} {s : State}, Keeps s₀ s → Keeps s₀ (runLine n s line) := by
  intro n
  induction n with
  | zero => exact fun h => h
  | succ n ih =>
    intro s hk
    unfold runLine
    split
    · exact ih (lineMove_keeps_eq hk ‹_›)
    · exact hk

theorem settle_keeps {s₀ s : State} (hk : Keeps s₀ s) {line : Nat} : Keeps s₀ (settle s line) := by
  unfold settle
  try dsimp only
  repeat' first
    | with_reducible assumption
    | with_reducible apply runLine_keeps
    | (with_reducible refine forEach_keeps (fun _ _ _ => ?_) ?_)
    | split

theorem refreshToken_keeps {s₀ s : State} (hk : Keeps s₀ s) {tok : BitVec 16} : Keeps s₀ (refreshToken s tok) := by
  unfold refreshToken
  try dsimp only
  repeat' first
    | with_reducible assumption
    | split
    | with_reducible rfl
    | (with_reducible refine mk_keeps ?_ ?_ ?_ ?_; first | with_reducible assumption | split)

theorem deferRequest_keeps {s₀ s : State} (hk : Keeps s₀ s) {line : Nat} {d : Delivered} : Keeps s₀ (deferRequest s line d) := by
  unfold deferRequest
  try dsimp only
  repeat' first
    | with_reducible assumption
    | with_reducible apply homeAnswer_keeps
    | with_reducible apply homEv_keeps
    | with_reducible apply noteHome_keeps
    | with_reducible apply bump64_keeps
    | with_reducible apply refreshToken_keeps
    | with_reducible apply enterDeferral_keeps
    | split
    | with_reducible rfl
    | (with_reducible refine mk_keeps ?_ ?_ ?_ ?_; first | with_reducible assumption | with_reducible apply homeAnswer_keeps | with_reducible apply homEv_keeps | with_reducible apply noteHome_keeps | with_reducible apply bump64_keeps | with_reducible apply refreshToken_keeps | with_reducible apply enterDeferral_keeps | split)
    | (dsimp only; with_reducible refine mk_keeps ?_ ?_ ?_ ?_; first | with_reducible assumption | with_reducible apply homeAnswer_keeps | with_reducible apply homEv_keeps | with_reducible apply noteHome_keeps | with_reducible apply bump64_keeps | with_reducible apply refreshToken_keeps | with_reducible apply enterDeferral_keeps | split)

theorem takeToken_keeps {s₀ s : State} (hk : Keeps s₀ s) {line : Nat} {p : Packet} : Keeps s₀ (takeToken s line p) := by
  unfold takeToken
  try dsimp only
  repeat' first
    | with_reducible assumption
    | with_reducible apply endDeferral_keeps
    | split
    | with_reducible rfl
    | (with_reducible refine mk_keeps ?_ ?_ ?_ ?_; first | with_reducible assumption | with_reducible apply endDeferral_keeps | split)

theorem countPlaced_keeps {s₀ s : State} (hk : Keeps s₀ s) {line : Nat} {p : Packet} : Keeps s₀ (countPlaced s line p) := by
  unfold countPlaced
  try dsimp only
  repeat' first
    | with_reducible assumption
    | with_reducible apply homEv_keeps
    | split

theorem placeRequest_keeps {s₀ s : State} (hk : Keeps s₀ s) {line : Nat} {d : Delivered} : Keeps s₀ (placeRequest s line d) := by
  unfold placeRequest
  try dsimp only
  repeat' first
    | with_reducible assumption
    | with_reducible apply homEv_keeps
    | with_reducible apply deferRequest_keeps
    | with_reducible apply takeToken_keeps
    | with_reducible apply countPlaced_keeps
    | with_reducible apply settle_keeps
    | with_reducible apply setLctl_keeps
    | split

theorem convoyServe_keeps {s₀ s : State} (hk : Keeps s₀ s) {line : Nat} {w : SnoopWait} : Keeps s₀ (convoyServe s line w) := by
  unfold convoyServe
  try dsimp only
  repeat' first
    | with_reducible assumption
    | with_reducible apply sendPlain_keeps
    | with_reducible apply fetchLine_keeps
    | with_reducible apply modTxn_keeps
    | (with_reducible refine fetchLine_keeps_eq ?_ (by assumption))
    | split

theorem settleGrant_keeps {s₀ s : State} (hk : Keeps s₀ s) {line : Nat} {e : Epc} : Keeps s₀ (settleGrant s line e) := by
  unfold settleGrant
  try dsimp only
  repeat' first
    | with_reducible assumption
    | with_reducible apply dropHolder_keeps
    | with_reducible apply modTxn_keeps
    | split

theorem takeAnnounce_keeps {s₀ s : State} (hk : Keeps s₀ s) {line : Nat} {p : Packet} : Keeps s₀ (takeAnnounce s line p) := by
  unfold takeAnnounce
  try dsimp only
  repeat' first
    | with_reducible assumption
    | with_reducible apply homeAnswer_keeps
    | with_reducible apply watchRise_keeps
    | with_reducible apply settleGrant_keeps
    | with_reducible apply dropHolder_keeps
    | with_reducible apply storeLine_keeps
    | with_reducible apply convoyServe_keeps
    | with_reducible apply modTxn_keeps
    | with_reducible apply settle_keeps
    | split

theorem dupTake_keeps {s₀ s : State} (hk : Keeps s₀ s) {line : Nat} {p : Packet} : Keeps s₀ (dupTake s line p) := by
  unfold dupTake
  try dsimp only
  repeat' first
    | with_reducible assumption
    | with_reducible apply homeAnswer_keeps
    | with_reducible apply fetchLine_keeps
    | (with_reducible refine fetchLine_keeps_eq ?_ (by assumption))
    | split

theorem dupRequest_keeps {s₀ s : State} (hk : Keeps s₀ s) {line : Nat} {d : Delivered} : Keeps s₀ (dupRequest s line d) := by
  unfold dupRequest
  try dsimp only
  repeat' first
    | with_reducible assumption
    | with_reducible apply homeAnswer_keeps
    | with_reducible apply dupTake_keeps
    | with_reducible apply placeRequest_keeps
    | with_reducible apply refuse_keeps
    | split

theorem homeRequest_keeps {s₀ s : State} (hk : Keeps s₀ s) {d : Delivered} : Keeps s₀ (homeRequest s d) := by
  unfold homeRequest
  try dsimp only
  repeat' first
    | with_reducible assumption
    | with_reducible apply homeAnswer_keeps
    | with_reducible apply dupRequest_keeps
    | with_reducible apply homEv_keeps
    | with_reducible apply placeRequest_keeps
    | with_reducible apply refreshToken_keeps
    | with_reducible apply refuse_keeps
    | with_reducible apply takeAnnounce_keeps
    | split

theorem homeStream_keeps {s₀ s : State} (hk : Keeps s₀ s) {d : Delivered} : Keeps s₀ (homeStream s d) := by
  unfold homeStream
  try dsimp only
  repeat' first
    | with_reducible assumption
    | with_reducible apply placeRequest_keeps
    | with_reducible apply refuse_keeps
    | (with_reducible refine forEach_keeps (fun _ _ _ => ?_) ?_)
    | split

theorem noteAnswer_keeps {s₀ s : State} (hk : Keeps s₀ s) {line : Nat} {e : Epc} {st : Nat} : Keeps s₀ (noteAnswer s line e st) := by
  unfold noteAnswer
  try dsimp only
  repeat' first
    | with_reducible assumption
    | with_reducible apply putDir_keeps
    | with_reducible apply dropHolder_keeps
    | split

theorem grantAnswer_keeps {s₀ s : State} (hk : Keeps s₀ s) {line : Nat} {p : Packet} {w : SnoopWait} {g : GrantWait} : Keeps s₀ (grantAnswer s line p w g) := by
  unfold grantAnswer
  try dsimp only
  repeat' first
    | with_reducible assumption
    | with_reducible apply cohErr_keeps
    | with_reducible apply settleGrant_keeps
    | with_reducible apply poisonAndForget_keeps
    | with_reducible apply storeLine_keeps
    | with_reducible apply lineFault_keeps
    | with_reducible apply modTxn_keeps
    | split

theorem snoopAnswer_keeps {s₀ s : State} (hk : Keeps s₀ s) {d : Delivered} : Keeps s₀ (snoopAnswer s d) := by
  unfold snoopAnswer
  try dsimp only
  repeat' first
    | with_reducible assumption
    | with_reducible apply grantAnswer_keeps
    | with_reducible apply storeLine_keeps
    | with_reducible apply noteAnswer_keeps
    | with_reducible apply convoyServe_keeps
    | with_reducible apply modTxn_keeps
    | with_reducible apply settle_keeps
    | split

theorem homeCompAck_keeps {s₀ s : State} (hk : Keeps s₀ s) {d : Delivered} : Keeps s₀ (homeCompAck s d) := by
  unfold homeCompAck
  try dsimp only
  repeat' first
    | with_reducible assumption
    | with_reducible apply modTxn_keeps
    | with_reducible apply settle_keeps
    | split

theorem resendSnoop_keeps {s₀ s : State} (hk : Keeps s₀ s) {line : Nat} {holder : Epc} : Keeps s₀ (resendSnoop s line holder) := by
  unfold resendSnoop
  try dsimp only
  repeat' first
    | with_reducible assumption
    | with_reducible apply cohErr_keeps
    | with_reducible apply sendC2_keeps
    | with_reducible apply homEv_keeps
    | with_reducible apply poisonAndForget_keeps
    | with_reducible apply dropHolder_keeps
    | with_reducible apply lineFault_keeps
    | with_reducible apply convoyServe_keeps
    | with_reducible apply modTxn_keeps
    | with_reducible apply settle_keeps
    | split

theorem checkGrant_keeps {s₀ s : State} (hk : Keeps s₀ s) {line : Nat} {member : Epc} : Keeps s₀ (checkGrant s line member) := by
  unfold checkGrant
  try dsimp only
  repeat' first
    | with_reducible assumption
    | with_reducible apply snoopAll_keeps
    | with_reducible apply modTxn_keeps
    | (with_reducible refine snoopAll_keeps_eq ?_ (by assumption))
    | split

theorem servePlain_keeps {s₀ s : State} (hk : Keeps s₀ s) {line : Nat} {r : HReq} : Keeps s₀ (servePlain s line r) := by
  unfold servePlain
  try dsimp only
  repeat' first
    | with_reducible assumption
    | with_reducible apply homeAnswer_keeps
    | with_reducible apply performWrite_keeps
    | with_reducible apply exitHot_keeps
    | with_reducible apply homEv_keeps
    | with_reducible apply fetchLine_keeps
    | with_reducible apply settle_keeps
    | with_reducible apply setLctl_keeps
    | with_reducible apply refuse_keeps
    | with_reducible apply mirrorValue_keeps
    | (with_reducible refine fetchLine_keeps_eq ?_ (by assumption))
    | split

theorem serveShared_keeps {s₀ s : State} (hk : Keeps s₀ s) {line : Nat} {r : HReq} : Keeps s₀ (serveShared s line r) := by
  unfold serveShared
  try dsimp only
  repeat' first
    | with_reducible assumption
    | with_reducible apply cohErr_keeps
    | with_reducible apply snoopAll_keeps
    | with_reducible apply homEv_keeps
    | with_reducible apply mkDir_keeps
    | with_reducible apply modTxn_keeps
    | with_reducible apply settle_keeps
    | with_reducible apply setLctl_keeps
    | with_reducible apply refuse_keeps
    | (with_reducible refine snoopAll_keeps_eq ?_ (by assumption))
    | split

theorem serveConvoy_keeps {s₀ s : State} (hk : Keeps s₀ s) {line : Nat} {r : HReq} : Keeps s₀ (serveConvoy s line r) := by
  unfold serveConvoy
  try dsimp only
  repeat' first
    | with_reducible assumption
    | with_reducible apply homEv_keeps
    | with_reducible apply forwardTo_keeps
    | with_reducible apply mkDir_keeps
    | with_reducible apply modTxn_keeps
    | with_reducible apply settle_keeps
    | with_reducible apply setLctl_keeps
    | with_reducible apply refuse_keeps
    | (with_reducible refine forwardTo_keeps_eq ?_ (by assumption))
    | split

theorem serveHot_keeps {s₀ s : State} (hk : Keeps s₀ s) {line : Nat} : Keeps s₀ (serveHot s line) := by
  unfold serveHot
  try dsimp only
  repeat' first
    | with_reducible assumption
    | with_reducible apply homeAnswer_keeps
    | with_reducible apply servePlain_keeps
    | with_reducible apply exitHot_keeps
    | with_reducible apply applyAnnounce_keeps
    | with_reducible apply checkDir_keeps
    | with_reducible apply serveShared_keeps
    | with_reducible apply settle_keeps
    | with_reducible apply setLctl_keeps
    | with_reducible apply serveConvoy_keeps
    | split

theorem recallWhere_keeps {s₀ s : State} (hk : Keeps s₀ s) {pick : Nat → Bool} : Keeps s₀ (recallWhere s pick) := by
  unfold recallWhere
  try dsimp only
  repeat' first
    | with_reducible assumption
    | with_reducible apply pick_keeps
    | with_reducible apply beginOwn_keeps
    | (with_reducible refine pick_keeps_eq ?_ (by assumption))
    | (with_reducible refine forEach_keeps (fun _ _ _ => ?_) ?_)
    | split

theorem applyMirror_keeps {s₀ s : State} (hk : Keeps s₀ s) {m : MirrorMsg} : Keeps s₀ (applyMirror s m) := by
  unfold applyMirror
  try dsimp only
  repeat' first
    | with_reducible assumption
    | with_reducible apply setDirBits_keeps
    | with_reducible apply setSealLine_keeps
    | with_reducible apply memWriteLine_keeps
    | with_reducible apply emit_keeps
    | split
    | with_reducible rfl
    | (with_reducible refine mk_keeps ?_ ?_ ?_ ?_; first | with_reducible assumption | with_reducible apply setDirBits_keeps | with_reducible apply setSealLine_keeps | with_reducible apply memWriteLine_keeps | with_reducible apply emit_keeps | split)

theorem ackMirror_keeps {s₀ s : State} (hk : Keeps s₀ s) {line : Nat} : Keeps s₀ (ackMirror s line) := by
  unfold ackMirror
  try dsimp only
  repeat' first
    | with_reducible assumption
    | with_reducible apply homEv_keeps
    | with_reducible apply modTxn_keeps
    | with_reducible apply settle_keeps
    | split

theorem releaseMirrors_keeps {s₀ s : State} (hk : Keeps s₀ s) : Keeps s₀ (releaseMirrors s) := by
  unfold releaseMirrors
  try dsimp only
  repeat' first
    | with_reducible assumption
    | with_reducible apply modTxn_keeps
    | with_reducible apply settle_keeps
    | with_reducible apply mirrorValue_keeps
    | (with_reducible refine forEach_keeps (fun _ _ _ => ?_) ?_)
    | split

theorem lnkEv_keeps {s₀ s : State} (hk : Keeps s₀ s) {k n : Nat} : Keeps s₀ (lnkEv s k n) := by
  unfold lnkEv
  try dsimp only
  repeat' first
    | with_reducible assumption
    | with_reducible apply ev_keeps
    | split

theorem sendBlock_keeps {s₀ s : State} (hk : Keeps s₀ s) {n : Nat} {kind : Nat} {v : Nat} : Keeps s₀ (sendBlock s n kind v) := by
  unfold sendBlock
  try dsimp only
  repeat' first
    | with_reducible assumption
    | with_reducible apply emit_keeps
    | split

theorem portFault_keeps {s₀ s : State} (hk : Keeps s₀ s) {code sev p lane expected reported width kind member : Nat} : Keeps s₀ (portFault s code sev p lane expected reported width kind member) := by
  unfold portFault
  try dsimp only
  repeat' first
    | with_reducible assumption
    | with_reducible apply fault_keeps
    | split

theorem setLaneState_keeps {s₀ s : State} (hk : Keeps s₀ s) {n v : Nat} : Keeps s₀ (setLaneState s n v) := by
  unfold setLaneState
  try dsimp only
  repeat' first
    | with_reducible assumption
    | with_reducible apply setFld_keeps
    | split

theorem enterPhase_keeps {s₀ s : State} (hk : Keeps s₀ s) {n : Nat} {ph : LanePhase} {timeout : Nat} : Keeps s₀ (enterPhase s n ph timeout) := by
  unfold enterPhase
  try dsimp only
  repeat' first
    | with_reducible assumption
    | with_reducible apply setLane_keeps
    | with_reducible apply setLaneState_keeps
    | split

theorem clearLocks_keeps {s₀ s : State} (hk : Keeps s₀ s) {n : Nat} : Keeps s₀ (clearLocks s n) := by
  unfold clearLocks
  try dsimp only
  repeat' first
    | with_reducible assumption
    | with_reducible apply setFld_keeps
    | split

theorem startDetect_keeps {s₀ s : State} (hk : Keeps s₀ s) {n : Nat} : Keeps s₀ (startDetect s n) := by
  unfold startDetect
  try dsimp only
  repeat' first
    | with_reducible assumption
    | with_reducible apply enterPhase_keeps
    | with_reducible apply setLane_keeps
    | with_reducible apply setFld_keeps
    | with_reducible apply clearLocks_keeps
    | split

theorem startStep_keeps {s₀ s : State} (hk : Keeps s₀ s) {n step : Nat} : Keeps s₀ (startStep s n step) := by
  unfold startStep
  try dsimp only
  repeat' first
    | with_reducible assumption
    | with_reducible apply enterPhase_keeps
    | with_reducible apply setLane_keeps
    | with_reducible apply setFld_keeps
    | with_reducible apply clearLocks_keeps
    | split

theorem failLane_keeps {s₀ s : State} (hk : Keeps s₀ s) {n : Nat} : Keeps s₀ (failLane s n) := by
  unfold failLane
  try dsimp only
  repeat' first
    | with_reducible assumption
    | with_reducible apply enterPhase_keeps
    | with_reducible apply setLane_keeps
    | with_reducible apply clearLocks_keeps
    | split

theorem laneOff_keeps {s₀ s : State} (hk : Keeps s₀ s) {n : Nat} : Keeps s₀ (laneOff s n) := by
  unfold laneOff
  try dsimp only
  repeat' first
    | with_reducible assumption
    | with_reducible apply enterPhase_keeps
    | with_reducible apply setFld_keeps
    | with_reducible apply clearLocks_keeps
    | split

theorem announceWidth_keeps {s₀ s : State} (hk : Keeps s₀ s) {p mask : Nat} : Keeps s₀ (announceWidth s p mask) := by
  unfold announceWidth
  try dsimp only
  repeat' first
    | with_reducible assumption
    | with_reducible apply setLink_keeps
    | with_reducible apply sendBlock_keeps
    | (with_reducible refine forEach_keeps (fun _ _ _ => ?_) ?_)
    | split

theorem twinLinkLost_keeps {s₀ s : State} (hk : Keeps s₀ s) : Keeps s₀ (twinLinkLost s) := by
  unfold twinLinkLost
  try dsimp only
  repeat' first
    | with_reducible assumption
    | with_reducible apply fault0_keeps
    | with_reducible apply setBitOf_keeps
    | with_reducible apply setFld_keeps
    | with_reducible apply releaseMirrors_keeps
    | split
    | with_reducible rfl
    | (with_reducible refine mk_keeps ?_ ?_ ?_ ?_; first | with_reducible assumption | with_reducible apply fault0_keeps | with_reducible apply setBitOf_keeps | with_reducible apply setFld_keeps | with_reducible apply releaseMirrors_keeps | split)

theorem twinHandover_keeps {s₀ s : State} (hk : Keeps s₀ s) : Keeps s₀ (twinHandover s) := by
  unfold twinHandover
  try dsimp only
  repeat' first
    | with_reducible assumption
    | with_reducible apply setLink_keeps
    | with_reducible apply setFld_keeps
    | with_reducible apply ev_keeps
    | (with_reducible refine foldl_keeps (fun _ _ _ => ?_) ?_)
    | (with_reducible refine fold1_keeps (fun _ _ _ => ?_) ?_)
    | (with_reducible refine fold2_keeps (fun _ _ _ => ?_) ?_)
    | (with_reducible refine fold3_keeps (fun _ _ _ => ?_) ?_)
    | split

theorem leaveService_keeps {s₀ s : State} (hk : Keeps s₀ s) {p : Nat} : Keeps s₀ (leaveService s p) := by
  unfold leaveService
  try dsimp only
  repeat' first
    | with_reducible assumption
    | with_reducible apply setBitOf_keeps
    | with_reducible apply setLink_keeps
    | with_reducible apply twinHandover_keeps
    | with_reducible apply twinLinkLost_keeps
    | with_reducible apply relink_keeps
    | with_reducible apply setFld_keeps
    | with_reducible apply updateService_keeps
    | with_reducible apply wr_keeps
    | split

theorem portDown_keeps {s₀ s : State} (hk : Keeps s₀ s) {p : Nat} : Keeps s₀ (portDown s p) := by
  unfold portDown
  try dsimp only
  repeat' first
    | with_reducible assumption
    | with_reducible apply leaveService_keeps
    | with_reducible apply portEvent_keeps
    | with_reducible apply portFault_keeps
    | split

theorem retrain_keeps {s₀ s : State} (hk : Keeps s₀ s) {p : Nat} : Keeps s₀ (retrain s p) := by
  unfold retrain
  try dsimp only
  repeat' first
    | with_reducible assumption
    | with_reducible apply leaveService_keeps
    | with_reducible apply lnkEv_keeps
    | with_reducible apply setFld_keeps
    | with_reducible apply startDetect_keeps
    | (with_reducible refine forEach_keeps (fun _ _ _ => ?_) ?_)
    | split

theorem bringUpPort_keeps {s₀ s : State} (hk : Keeps s₀ s) {p : Nat} : Keeps s₀ (bringUpPort s p) := by
  unfold bringUpPort
  try dsimp only
  repeat' first
    | with_reducible assumption
    | with_reducible apply setFld_keeps
    | with_reducible apply startDetect_keeps
    | (with_reducible refine forEach_keeps (fun _ _ _ => ?_) ?_)
    | split

theorem disablePort_keeps {s₀ s : State} (hk : Keeps s₀ s) {p : Nat} : Keeps s₀ (disablePort s p) := by
  unfold disablePort
  try dsimp only
  repeat' first
    | with_reducible assumption
    | with_reducible apply leaveService_keeps
    | with_reducible apply laneOff_keeps
    | (with_reducible refine forEach_keeps (fun _ _ _ => ?_) ?_)
    | split

theorem maybeChecking_keeps {s₀ s : State} (hk : Keeps s₀ s) {p : Nat} : Keeps s₀ (maybeChecking s p) := by
  unfold maybeChecking
  try dsimp only
  repeat' first
    | with_reducible assumption
    | with_reducible apply failLane_keeps
    | with_reducible apply setLink_keeps
    | with_reducible apply setFld_keeps
    | with_reducible apply portEvent_keeps
    | with_reducible apply portFault_keeps
    | (with_reducible refine forEach_keeps (fun _ _ _ => ?_) ?_)
    | (with_reducible refine foldl_keeps (fun _ _ _ => ?_) ?_)
    | (with_reducible refine fold1_keeps (fun _ _ _ => ?_) ?_)
    | (with_reducible refine fold2_keeps (fun _ _ _ => ?_) ?_)
    | (with_reducible refine fold3_keeps (fun _ _ _ => ?_) ?_)
    | split

theorem maybeRejoin_keeps {s₀ s : State} (hk : Keeps s₀ s) {p n : Nat} : Keeps s₀ (maybeRejoin s p n) := by
  unfold maybeRejoin
  try dsimp only
  repeat' first
    | with_reducible assumption
    | with_reducible apply failLane_keeps
    | with_reducible apply setFld_keeps
    | with_reducible apply announceWidth_keeps
    | split

theorem laneDone_keeps {s₀ s : State} (hk : Keeps s₀ s) {n : Nat} : Keeps s₀ (laneDone s n) := by
  unfold laneDone
  try dsimp only
  repeat' first
    | with_reducible assumption
    | with_reducible apply maybeChecking_keeps
    | with_reducible apply maybeRejoin_keeps
    | split

theorem stepCompleted_keeps {s₀ s : State} (hk : Keeps s₀ s) {n : Nat} : Keeps s₀ (stepCompleted s n) := by
  unfold stepCompleted
  try dsimp only
  repeat' first
    | with_reducible assumption
    | with_reducible apply laneDone_keeps
    | with_reducible apply enterPhase_keeps
    | with_reducible apply setLane_keeps
    | split

theorem trainingEnds_keeps {s₀ s : State} (hk : Keeps s₀ s) {n : Nat} : Keeps s₀ (trainingEnds s n) := by
  unfold trainingEnds
  try dsimp only
  repeat' first
    | with_reducible assumption
    | with_reducible apply failLane_keeps
    | with_reducible apply laneDone_keeps
    | with_reducible apply enterPhase_keeps
    | with_reducible apply setLane_keeps
    | with_reducible apply setFld_keeps
    | split

theorem phaseTimesOut_keeps {s₀ s : State} (hk : Keeps s₀ s) {n : Nat} : Keeps s₀ (phaseTimesOut s n) := by
  unfold phaseTimesOut
  try dsimp only
  repeat' first
    | with_reducible assumption
    | with_reducible apply startStep_keeps
    | with_reducible apply trainingEnds_keeps
    | with_reducible apply enterPhase_keeps
    | with_reducible apply setLane_keeps
    | split

theorem miswire_keeps {s₀ s : State} (hk : Keeps s₀ s) {p kind : Nat} : Keeps s₀ (miswire s p kind) := by
  unfold miswire
  try dsimp only
  repeat' first
    | with_reducible assumption
    | with_reducible apply leaveService_keeps
    | with_reducible apply setBitOf_keeps
    | with_reducible apply lnkEv_keeps
    | with_reducible apply setFld_keeps
    | with_reducible apply portEvent_keeps
    | with_reducible apply portFault_keeps
    | split

theorem expectChanged_keeps {s₀ s : State} (hk : Keeps s₀ s) {p : Nat} : Keeps s₀ (expectChanged s p) := by
  unfold expectChanged
  try dsimp only
  repeat' first
    | with_reducible assumption
    | with_reducible apply miswire_keeps
    | split

theorem mapLanes_keeps {s₀ s : State} (hk : Keeps s₀ s) {p : Nat} : Keeps s₀ (mapLanes s p) := by
  unfold mapLanes
  try dsimp only
  repeat' first
    | with_reducible assumption
    | with_reducible apply failLane_keeps
    | with_reducible apply lnkEv_keeps
    | with_reducible apply portEvent_keeps
    | with_reducible apply portFault_keeps
    | (with_reducible refine forEach_keeps (fun _ _ _ => ?_) ?_)
    | split

theorem acceptCap_keeps {s₀ s : State} (hk : Keeps s₀ s) {n : Nat} {c : BitVec 384} : Keeps s₀ (acceptCap s n c) := by
  unfold acceptCap
  try dsimp only
  repeat' first
    | with_reducible assumption
    | with_reducible apply mapLanes_keeps
    | with_reducible apply enterPhase_keeps
    | with_reducible apply setLane_keeps
    | with_reducible apply setFld_keeps
    | with_reducible apply wr_keeps
    | split

theorem laneLeaves_keeps {s₀ s : State} (hk : Keeps s₀ s) {n : Nat} : Keeps s₀ (laneLeaves s n) := by
  unfold laneLeaves
  try dsimp only
  repeat' first
    | with_reducible assumption
    | with_reducible apply portDown_keeps
    | with_reducible apply announceWidth_keeps
    | split

theorem quarantine_keeps {s₀ s : State} (hk : Keeps s₀ s) {n : Nat} : Keeps s₀ (quarantine s n) := by
  unfold quarantine
  try dsimp only
  repeat' first
    | with_reducible assumption
    | with_reducible apply lnkEv_keeps
    | with_reducible apply enterPhase_keeps
    | with_reducible apply emit_keeps
    | with_reducible apply setLane_keeps
    | with_reducible apply setFld_keeps
    | with_reducible apply sendBlock_keeps
    | with_reducible apply fault_keeps
    | with_reducible apply clearLocks_keeps
    | with_reducible apply setLaneState_keeps
    | split

theorem lossOfLock_keeps {s₀ s : State} (hk : Keeps s₀ s) {n : Nat} : Keeps s₀ (lossOfLock s n) := by
  unfold lossOfLock
  try dsimp only
  repeat' first
    | with_reducible assumption
    | with_reducible apply failLane_keeps
    | with_reducible apply laneLeaves_keeps
    | with_reducible apply lnkEv_keeps
    | with_reducible apply setLane_keeps
    | with_reducible apply quarantine_keeps
    | with_reducible apply ev_keeps
    | split

theorem chooseTwinPort_keeps {s₀ s : State} (hk : Keeps s₀ s) : Keeps s₀ (chooseTwinPort s) := by
  unfold chooseTwinPort
  try dsimp only
  repeat' first
    | with_reducible assumption
    | with_reducible apply setFld_keeps
    | split

theorem takeAck_keeps {s₀ s : State} (hk : Keeps s₀ s) {p : Nat} {ack : BitVec 12} : Keeps s₀ (takeAck s p ack) := by
  unfold takeAck
  try dsimp only
  repeat' first
    | with_reducible assumption
    | with_reducible apply setLink_keeps
    | split

theorem startReplay_keeps {s₀ s : State} (hk : Keeps s₀ s) {p : Nat} : Keeps s₀ (startReplay s p) := by
  unfold startReplay
  try dsimp only
  repeat' first
    | with_reducible assumption
    | with_reducible apply setLink_keeps
    | with_reducible apply retrain_keeps
    | with_reducible apply portFault_keeps
    | split

theorem takeReplayRequest_keeps {s₀ s : State} (hk : Keeps s₀ s) {p : Nat} {ack : BitVec 12} : Keeps s₀ (takeReplayRequest s p ack) := by
  unfold takeReplayRequest
  try dsimp only
  repeat' first
    | with_reducible assumption
    | with_reducible apply startReplay_keeps
    | with_reducible apply setLink_keeps
    | with_reducible apply lnkEv_keeps
    | split

theorem takeTrailer_keeps {s₀ s : State} (hk : Keeps s₀ s) {p : Nat} {f : Flit} : Keeps s₀ (takeTrailer s p f) := by
  unfold takeTrailer
  try dsimp only
  repeat' first
    | with_reducible assumption
    | with_reducible apply setLink_keeps
    | with_reducible apply takeReplayRequest_keeps
    | with_reducible apply takeAck_keeps
    | split

theorem failFlit_keeps {s₀ s : State} (hk : Keeps s₀ s) {p : Nat} : Keeps s₀ (failFlit s p) := by
  unfold failFlit
  try dsimp only
  repeat' first
    | with_reducible assumption
    | with_reducible apply setLink_keeps
    | with_reducible apply lnkEv_keeps
    | with_reducible apply ev_keeps
    | split

theorem streamPackets_keeps {s₀ s : State} (hk : Keeps s₀ s) {p c : Nat} {payload : List Byte} : Keeps s₀ (streamPackets s p c payload) := by
  unfold streamPackets
  try dsimp only
  repeat' first
    | with_reducible assumption
    | with_reducible apply setLink_keeps
    | split
    | with_reducible rfl
    | (with_reducible refine mk_keeps ?_ ?_ ?_ ?_; first | with_reducible assumption | with_reducible apply setLink_keeps | split)

theorem takeSequenced_keeps {s₀ s : State} (hk : Keeps s₀ s) {p : Nat} {f : Flit} : Keeps s₀ (takeSequenced s p f) := by
  unfold takeSequenced
  try dsimp only
  repeat' first
    | with_reducible assumption
    | with_reducible apply setLink_keeps
    | with_reducible apply failFlit_keeps
    | with_reducible apply streamPackets_keeps
    | with_reducible apply ev_keeps
    | split

theorem receiveFlit_keeps {s₀ s : State} (hk : Keeps s₀ s) {p : Nat} {f : Flit} {flagged : Bool} : Keeps s₀ (receiveFlit s p f flagged) := by
  unfold receiveFlit
  try dsimp only
  repeat' first
    | with_reducible assumption
    | with_reducible apply takeTrailer_keeps
    | with_reducible apply failFlit_keeps
    | with_reducible apply takeSequenced_keeps
    | split

theorem ackTimeout_keeps {s₀ s : State} (hk : Keeps s₀ s) {p : Nat} : Keeps s₀ (ackTimeout s p) := by
  unfold ackTimeout
  try dsimp only
  repeat' first
    | with_reducible assumption
    | with_reducible apply startReplay_keeps
    | with_reducible apply lnkEv_keeps
    | split

theorem takeC0Token_keeps {s₀ s : State} (hk : Keeps s₀ s) {p : Nat} : Keeps s₀ (takeC0Token s p) := by
  unfold takeC0Token
  try dsimp only
  repeat' first
    | with_reducible assumption
    | with_reducible apply setLink_keeps
    | with_reducible apply ev_keeps
    | split

theorem sendAnswer_keeps {s₀ s : State} (hk : Keeps s₀ s) {self : Epc} {p : Packet} {op : Byte} {dest : Epc} {state : BitVec 3} {fwd ev : Bool} {data : List Byte} : Keeps s₀ (sendAnswer s self p op dest state fwd ev data) := by
  unfold sendAnswer
  try dsimp only
  repeat' first
    | with_reducible assumption
    | with_reducible apply sendPlain_keeps
    | with_reducible apply ev_keeps
    | split

theorem answerC2_keeps {s₀ s : State} (hk : Keeps s₀ s) {self : Epc} {l : CacheLine} {p : Packet} : Keeps s₀ (answerC2 s self l p).1 := by
  unfold answerC2
  try dsimp only
  repeat' first
    | with_reducible assumption
    | with_reducible apply sendAnswer_keeps
    | split
theorem answerC2_keeps_eq {s₀ s : State} (hk : Keeps s₀ s) {self : Epc} {l : CacheLine} {p : Packet} {x0 x1} (heq : answerC2 s self l p = (x0, x1)) : Keeps s₀ x0 := by
  have := answerC2_keeps (s₀ := s₀) (s := s) hk (self := self) (l := l) (p := p)
  rw [heq] at this; exact this

theorem takeC2_keeps {s₀ s : State} (hk : Keeps s₀ s) {self : Epc} {l : CacheLine} {p : Packet} : Keeps s₀ (takeC2 s self l p).1 := by
  unfold takeC2
  try dsimp only
  repeat' first
    | with_reducible assumption
    | with_reducible apply answerC2_keeps
    | (with_reducible refine answerC2_keeps_eq ?_ (by assumption))
    | split
theorem takeC2_keeps_eq {s₀ s : State} (hk : Keeps s₀ s) {self : Epc} {l : CacheLine} {p : Packet} {x0 x1} (heq : takeC2 s self l p = (x0, x1)) : Keeps s₀ x0 := by
  have := takeC2_keeps (s₀ := s₀) (s := s) hk (self := self) (l := l) (p := p)
  rw [heq] at this; exact this

theorem answerHeld_keeps {s₀ s : State} (hk : Keeps s₀ s) {self : Epc} {l : CacheLine} : Keeps s₀ (answerHeld s self l).1 := by
  unfold answerHeld
  try dsimp only
  repeat' first
    | with_reducible assumption
    | with_reducible apply answerC2_keeps
    | (with_reducible refine answerC2_keeps_eq ?_ (by assumption))
    | (with_reducible refine foldl_keeps (fun _ _ _ => ?_) ?_)
    | (with_reducible refine fold1_keeps (fun _ _ _ => ?_) ?_)
    | (with_reducible refine fold2_keeps (fun _ _ _ => ?_) ?_)
    | (with_reducible refine fold3_keeps (fun _ _ _ => ?_) ?_)
    | split
theorem answerHeld_keeps_eq {s₀ s : State} (hk : Keeps s₀ s) {self : Epc} {l : CacheLine} {x0 x1} (heq : answerHeld s self l = (x0, x1)) : Keeps s₀ x0 := by
  have := answerHeld_keeps (s₀ := s₀) (s := s) hk (self := self) (l := l)
  rw [heq] at this; exact this

theorem sendCompAck_keeps {s₀ s : State} (hk : Keeps s₀ s) {self : Epc} {r : OutReq} {p : Packet} : Keeps s₀ (sendCompAck s self r p) := by
  unfold sendCompAck
  try dsimp only
  repeat' first
    | with_reducible assumption
    | with_reducible apply sendPlain_keeps
    | split

theorem pPutElem_keeps {s₀ s : State} (hk : Keeps s₀ s) {fmt bitAddr v : Nat} : Keeps s₀ (pPutElem s fmt bitAddr v) := by
  unfold pPutElem
  try dsimp only
  repeat' first
    | with_reducible assumption
    | with_reducible apply pWrite_keeps
    | split

theorem spoilOverlap_keeps {s₀ s : State} (hk : Keeps s₀ s) {outs ins : List (Nat × Nat)} : Keeps s₀ (spoilOverlap s outs ins) := by
  unfold spoilOverlap
  try dsimp only
  repeat' first
    | with_reducible assumption
    | with_reducible apply pWrite_keeps
    | with_reducible apply takeFree_keeps
    | with_reducible apply freeMore_keeps
    | (with_reducible refine forEach_keeps (fun _ _ _ => ?_) ?_)
    | split

theorem writeTile_keeps {s₀ s : State} (hk : Keeps s₀ s) {l : Line} {r : ArrayRun} : Keeps s₀ (writeTile s l r) := by
  unfold writeTile
  try dsimp only
  repeat' first
    | with_reducible assumption
    | with_reducible apply pWrite_keeps
    | with_reducible apply pPutElem_keeps
    | with_reducible apply ev_keeps
    | (with_reducible refine forEach_keeps (fun _ _ _ => ?_) ?_)
    | split

theorem vStore_keeps {s₀ s : State} (hk : Keeps s₀ s) {l : Line} {o : Nat} {p : VPort} {vals : List Word} : Keeps s₀ (vStore s l o p vals) := by
  unfold vStore
  try dsimp only
  repeat' first
    | with_reducible assumption
    | with_reducible apply pWrite_keeps
    | with_reducible apply pPutElem_keeps
    | (with_reducible refine forEach_keeps (fun _ _ _ => ?_) ?_)
    | split

theorem runVector_keeps {s₀ s : State} (hk : Keeps s₀ s) {l : Line} : Keeps s₀ (runVector s l) := by
  unfold runVector
  try dsimp only
  repeat' first
    | with_reducible assumption
    | with_reducible apply pWrite_keeps
    | with_reducible apply vStore_keeps
    | with_reducible apply ev_keeps
    | with_reducible apply takeFree_keeps
    | (with_reducible refine forEach_keeps (fun _ _ _ => ?_) ?_)
    | split

theorem vSpoil_keeps {s₀ s : State} (hk : Keeps s₀ s) {l : Line} : Keeps s₀ (vSpoil s l) := by
  unfold vSpoil
  try dsimp only
  repeat' first
    | with_reducible assumption
    | with_reducible apply spoilOverlap_keeps
    | split

end Sys2Proof.Machine
end

