-- ==== Sys2Proof/Laws/KeepsHall.lean ====
section
/-! SUPPORT. Keeps, function by function: the Hall, resilience, tables and their changes, Clasp, images. -/

set_option linter.unusedTactic false
set_option linter.unreachableTactic false
set_option linter.unusedVariables false

namespace Sys2Proof.Machine

theorem setHctx_keeps {s₀ s : State} (hk : Keeps s₀ s) {c : Nat} {x : HallCtx} : Keeps s₀ (setHctx s c x) := by
  unfold setHctx
  try dsimp only
  repeat' first
    | with_reducible assumption
    | split
    | with_reducible rfl
    | (with_reducible refine mk_keeps ?_ ?_ ?_ ?_; first | with_reducible assumption | split)

theorem setCtxState_keeps {s₀ s : State} (hk : Keeps s₀ s) {c v : Nat} : Keeps s₀ (setCtxState s c v) := by
  unfold setCtxState
  try dsimp only
  repeat' first
    | with_reducible assumption
    | with_reducible apply setHctx_keeps
    | with_reducible apply setFld_keeps
    | with_reducible apply ev_keeps
    | split

theorem haltCtx_keeps {s₀ s : State} (hk : Keeps s₀ s) {c err va : Nat} : Keeps s₀ (haltCtx s c err va) := by
  unfold haltCtx
  try dsimp only
  repeat' first
    | with_reducible assumption
    | with_reducible apply noteSince_keeps
    | with_reducible apply setHctx_keeps
    | with_reducible apply wr64_keeps
    | with_reducible apply setCtxState_keeps
    | with_reducible apply setFld_keeps
    | with_reducible apply fault_keeps
    | with_reducible apply halErr_keeps
    | with_reducible apply ev_keeps
    | split

theorem setCmd_keeps {s₀ s : State} (hk : Keeps s₀ s) {c : Nat} {k : HCmd} : Keeps s₀ (setCmd s c k) := by
  unfold setCmd
  try dsimp only
  repeat' first
    | with_reducible assumption
    | with_reducible apply setHctx_keeps
    | split

theorem walkRead_keeps {s₀ s : State} (hk : Keeps s₀ s) {c va level addr : Nat} : Keeps s₀ (walkRead s c va level addr) := by
  unfold walkRead
  try dsimp only
  repeat' first
    | with_reducible assumption
    | with_reducible apply issue_keeps
    | split

theorem startWalk_keeps {s₀ s : State} (hk : Keeps s₀ s) {c va : Nat} : Keeps s₀ (startWalk s c va) := by
  unfold startWalk
  try dsimp only
  repeat' first
    | with_reducible assumption
    | with_reducible apply walkRead_keeps
    | with_reducible apply ev_keeps
    | split
    | with_reducible rfl
    | (with_reducible refine mk_keeps ?_ ?_ ?_ ?_; first | with_reducible assumption | with_reducible apply walkRead_keeps | with_reducible apply ev_keeps | split)

theorem setWalk_keeps {s₀ s : State} (hk : Keeps s₀ s) {c va level : Nat} {f : Walk → Walk} : Keeps s₀ (setWalk s c va level f) := by
  unfold setWalk
  try dsimp only
  repeat' first
    | with_reducible assumption
    | split
    | with_reducible rfl
    | (with_reducible refine mk_keeps ?_ ?_ ?_ ?_; first | with_reducible assumption | split)

theorem walkData_keeps {s₀ s : State} (hk : Keeps s₀ s) {c va level status : Nat} {data : List Byte} : Keeps s₀ (walkData s c va level status data) := by
  unfold walkData
  try dsimp only
  repeat' first
    | with_reducible assumption
    | with_reducible apply setWalk_keeps
    | with_reducible apply walkRead_keeps
    | split

theorem setCup_keeps {s₀ s : State} (hk : Keeps s₀ s) {k : Nat} {l : CacheLine} : Keeps s₀ (setCup s k l) := by
  unfold setCup
  try dsimp only
  repeat' first
    | with_reducible assumption
    | split
    | with_reducible rfl
    | (with_reducible refine mk_keeps ?_ ?_ ?_ ?_; first | with_reducible assumption | split)

theorem dmaErr_keeps {s₀ s : State} (hk : Keeps s₀ s) {c : Nat} {k : HCmd} {err : Nat} : Keeps s₀ (dmaErr s c k err) := by
  unfold dmaErr
  try dsimp only
  repeat' first
    | with_reducible assumption
    | with_reducible apply setCmd_keeps
    | split

theorem dmaIssued_keeps {s₀ s : State} (hk : Keeps s₀ s) {c id waits : Nat} : Keeps s₀ (dmaIssued s c id waits) := by
  unfold dmaIssued
  try dsimp only
  repeat' first
    | with_reducible assumption
    | with_reducible apply setCmd_keeps
    | split

theorem dmaCopyLine_keeps {s₀ s : State} (hk : Keeps s₀ s) {l : Line} {n : Nat} : Keeps s₀ (dmaCopyLine s l n) := by
  unfold dmaCopyLine
  try dsimp only
  repeat' first
    | with_reducible assumption
    | with_reducible apply pWrite_keeps
    | with_reducible apply ev_keeps
    | split

theorem localLine_keeps {s₀ s : State} (hk : Keeps s₀ s) {l : Line} {n : Nat} : Keeps s₀ (localLine s l n).2 := by
  unfold localLine
  try dsimp only
  repeat' first
    | with_reducible assumption
    | with_reducible apply setCup_keeps
    | with_reducible apply dmaCopyLine_keeps
    | with_reducible apply pWrite_keeps
    | with_reducible apply ev_keeps
    | split
theorem localLine_keeps_eq {s₀ s : State} (hk : Keeps s₀ s) {l : Line} {n : Nat} {x0 x1} (heq : localLine s l n = (x0, x1)) : Keeps s₀ x1 := by
  have := localLine_keeps (s₀ := s₀) (s := s) hk (l := l) (n := n)
  rw [heq] at this; exact this

theorem localLines_keeps {s₀ : State} {l : Line} : ∀ {f : Nat} {s : State} {n : Nat}, Keeps s₀ s → Keeps s₀ (localLines f s l n).2 := by
  intro f
  induction f with
  | zero => exact fun h => h
  | succ f ih =>
    intro s n hk
    unfold localLines
    dsimp only
    split
    · exact ih (localLine_keeps hk)
    · exact localLine_keeps hk

theorem copySpoil_keeps {s₀ s : State} (hk : Keeps s₀ s) {l : Line} : Keeps s₀ (copySpoil s l) := by
  unfold copySpoil
  try dsimp only
  repeat' first
    | with_reducible assumption
    | with_reducible apply spoilOverlap_keeps
    | split

theorem giveLine_keeps {s₀ s : State} (hk : Keeps s₀ s) {c id slot n : Nat} : Keeps s₀ (giveLine s c id slot n) := by
  unfold giveLine
  try dsimp only
  repeat' first
    | with_reducible assumption
    | with_reducible apply setCup_keeps
    | with_reducible apply dmaIssued_keeps
    | with_reducible apply issue_keeps
    | with_reducible apply ev_keeps
    | split

theorem dmaLine_keeps_eq {s₀ s t : State} (hk : Keeps s₀ s) {c : Nat} {k : HCmd} {res : Option WalkResult} (heq : dmaLine s c k res = some t) : Keeps s₀ t := by
  unfold dmaLine at heq
  try dsimp only at heq
  repeat' split at heq
  all_goals first
    | (exfalso; revert heq; simp; done)
    | skip
  all_goals
    obtain rfl := Option.some.inj heq
    repeat' first
      | with_reducible assumption
      | with_reducible apply sendPlain_keeps
      | with_reducible apply dmaErr_keeps
      | with_reducible apply setCup_keeps
      | with_reducible apply giveLine_keeps
      | with_reducible apply dmaIssued_keeps
      | with_reducible apply sealPkt_keeps
      | with_reducible apply issue_keeps
      | with_reducible apply fault_keeps
      | with_reducible apply ev_keeps
      | (with_reducible refine sealPkt_keeps_eq ?_ (by assumption))
      | split

theorem dmaLines_keeps {s₀ : State} {c id : Nat} {res : Option WalkResult} : ∀ {f : Nat} {s : State}, Keeps s₀ s →
    Keeps s₀ (dmaLines f s c id res) := by
  intro f
  induction f with
  | zero => exact fun h => h
  | succ f ih =>
    intro s hk
    unfold dmaLines
    split
    · exact hk
    · split
      · exact hk
      · split
        · exact setCmd_keeps hk
        · split
          · exact ih (dmaLine_keeps_eq hk ‹_›)
          · exact startWalk_keeps hk

theorem runDma_keeps {s₀ s : State} (hk : Keeps s₀ s) {c id : Nat} {res : Option WalkResult} : Keeps s₀ (runDma s c id res) := by
  unfold runDma
  try dsimp only
  repeat' first
    | with_reducible assumption
    | with_reducible apply localLines_keeps
    | with_reducible apply copySpoil_keeps
    | with_reducible apply dmaLines_keeps
    | with_reducible apply setCmd_keeps
    | split

theorem dmaAnswered_keeps {s₀ s : State} (hk : Keeps s₀ s) {c id va status : Nat} : Keeps s₀ (dmaAnswered s c id va status) := by
  unfold dmaAnswered
  try dsimp only
  repeat' first
    | with_reducible assumption
    | with_reducible apply dmaErr_keeps
    | with_reducible apply wr64_keeps
    | with_reducible apply setCmd_keeps
    | split

theorem slotAnswered_keeps {s₀ s : State} (hk : Keeps s₀ s) {k : HCmd} {n : Nat} {r : OutReq} {p : Packet} : Keeps s₀ (slotAnswered s k n r p) := by
  unfold slotAnswered
  try dsimp only
  repeat' first
    | with_reducible assumption
    | with_reducible apply setCup_keeps
    | with_reducible apply pWrite_keeps
    | with_reducible apply sendCompAck_keeps
    | with_reducible apply answerHeld_keeps
    | (with_reducible refine answerHeld_keeps_eq ?_ (by assumption))
    | split

theorem giveAnswered_keeps {s₀ s : State} (hk : Keeps s₀ s) {c id n slot : Nat} {r : OutReq} {status : Nat} : Keeps s₀ (giveAnswered s c id n slot r status) := by
  unfold giveAnswered
  try dsimp only
  repeat' first
    | with_reducible assumption
    | with_reducible apply dmaAnswered_keeps
    | with_reducible apply setCup_keeps
    | with_reducible apply issue_keeps
    | split

theorem dmaData_keeps {s₀ s : State} (hk : Keeps s₀ s) {c id n : Nat} {r : OutReq} {p : Packet} : Keeps s₀ (dmaData s c id n r p) := by
  unfold dmaData
  try dsimp only
  repeat' first
    | with_reducible assumption
    | with_reducible apply dmaAnswered_keeps
    | with_reducible apply giveAnswered_keeps
    | with_reducible apply slotAnswered_keeps
    | with_reducible apply pWrite_keeps
    | with_reducible apply ev_keeps
    | split

theorem setHall_keeps {s₀ s : State} (hk : Keeps s₀ s) {h : Hall} (hp : h.pantry = s.hall.pantry) : Keeps s₀ (setHall s h) :=
  mk_keeps hk rfl hp rfl
theorem setHall_keeps_wf {s₀ s : State} (hk : Keeps s₀ s) {h : Hall} (hp : Memory.wf s.hall.pantry = true → Memory.wf h.pantry = true) :
    Keeps s₀ (setHall s h) :=
  mk_keeps_wf hk id id id id hp id (Nat.le_refl _) (List.prefix_refl _)

theorem noteArray_keeps {s₀ s : State} (hk : Keeps s₀ s) : Keeps s₀ (noteArray s) := by
  unfold noteArray
  try dsimp only
  repeat' first
    | with_reducible assumption
    | with_reducible apply wr_keeps
    | (with_reducible refine foldl_keeps (fun _ _ _ => ?_) ?_)
    | (with_reducible refine fold1_keeps (fun _ _ _ => ?_) ?_)
    | (with_reducible refine fold2_keeps (fun _ _ _ => ?_) ?_)
    | (with_reducible refine fold3_keeps (fun _ _ _ => ?_) ?_)
    | split

theorem frontCycles_keeps {s₀ s : State} (hk : Keeps s₀ s) {k n : Nat} : Keeps s₀ (frontCycles s k n) := by
  unfold frontCycles
  try dsimp only
  repeat' first
    | with_reducible assumption
    | with_reducible apply bump64_keeps
    | with_reducible apply ev_keeps
    | split

theorem countGap_keeps {s₀ s : State} (hk : Keeps s₀ s) : Keeps s₀ (countGap s) := by
  unfold countGap
  try dsimp only
  repeat' first
    | with_reducible assumption
    | with_reducible apply setHall_keeps
    | with_reducible apply frontCycles_keeps
    | with_reducible apply bump64_keeps
    | with_reducible apply ev_keeps
    | with_reducible rfl
    | split

theorem countPass_keeps {s₀ s : State} (hk : Keeps s₀ s) {r : ArrayRun} {ok : Bool} : Keeps s₀ (countPass s r ok) := by
  unfold countPass
  try dsimp only
  repeat' first
    | with_reducible assumption
    | with_reducible apply setHall_keeps
    | with_reducible apply frontCycles_keeps
    | with_reducible apply bump64_keeps
    | with_reducible apply ev_keeps
    | with_reducible rfl
    | split

theorem chooseOp_keeps {s₀ s : State} (hk : Keeps s₀ s) : Keeps s₀ (chooseOp s) := by
  unfold chooseOp
  try dsimp only
  repeat' first
    | with_reducible assumption
    | with_reducible apply setHall_keeps
    | with_reducible apply noteArray_keeps
    | with_reducible apply countGap_keeps
    | with_reducible rfl
    | split

theorem tileBoundary_keeps {s₀ s : State} (hk : Keeps s₀ s) {r : ArrayRun} : Keeps s₀ (tileBoundary s r) := by
  unfold tileBoundary
  try dsimp only
  repeat' first
    | with_reducible assumption
    | with_reducible apply setHall_keeps
    | with_reducible apply noteArray_keeps
    | with_reducible apply countGap_keeps
    | with_reducible apply ev_keeps
    | with_reducible rfl
    | split

theorem outputTileEnds_keeps {s₀ s : State} (hk : Keeps s₀ s) {r : ArrayRun} : Keeps s₀ (outputTileEnds s r) := by
  unfold outputTileEnds
  try dsimp only
  repeat' first
    | with_reducible assumption
    | with_reducible apply setHall_keeps
    | with_reducible apply chooseOp_keeps
    | with_reducible apply setCmd_keeps
    | with_reducible apply noteArray_keeps
    | with_reducible apply countGap_keeps
    | with_reducible rfl
    | split

theorem arrayKick_keeps {s₀ s : State} (hk : Keeps s₀ s) : Keeps s₀ (arrayKick s) := by
  unfold arrayKick
  try dsimp only
  repeat' first
    | with_reducible assumption
    | with_reducible apply chooseOp_keeps
    | with_reducible apply tileBoundary_keeps
    | split

theorem passEnds_keeps {s₀ s : State} (hk : Keeps s₀ s) {ok : Bool} : Keeps s₀ (passEnds s ok) := by
  unfold passEnds
  try dsimp only
  repeat' first
    | with_reducible assumption
    | with_reducible apply setHall_keeps
    | with_reducible apply noteSince_keeps
    | with_reducible apply setHctx_keeps
    | with_reducible apply outputTileEnds_keeps
    | with_reducible apply chooseOp_keeps
    | with_reducible apply tileBoundary_keeps
    | with_reducible apply setCmd_keeps
    | with_reducible apply countPass_keeps
    | with_reducible apply fault_keeps
    | with_reducible apply halErr_keeps
    | with_reducible apply ev_keeps
    | with_reducible rfl
    | split

theorem spillEnds_keeps {s₀ s : State} (hk : Keeps s₀ s) : Keeps s₀ (spillEnds s) := by
  unfold spillEnds
  try dsimp only
  repeat' first
    | with_reducible assumption
    | with_reducible apply setHall_keeps
    | with_reducible apply pWrite_keeps
    | with_reducible apply chooseOp_keeps
    | with_reducible apply countGap_keeps
    | with_reducible rfl
    | (with_reducible refine forEach_keeps (fun _ _ _ => ?_) ?_)
    | split

theorem restoreEnds_keeps {s₀ s : State} (hk : Keeps s₀ s) : Keeps s₀ (restoreEnds s) := by
  unfold restoreEnds
  try dsimp only
  repeat' first
    | with_reducible assumption
    | with_reducible apply setHall_keeps
    | with_reducible apply tileBoundary_keeps
    | with_reducible apply countGap_keeps
    | with_reducible apply ev_keeps
    | with_reducible rfl
    | (with_reducible refine foldl_keeps (fun _ _ _ => ?_) ?_)
    | (with_reducible refine fold1_keeps (fun _ _ _ => ?_) ?_)
    | (with_reducible refine fold2_keeps (fun _ _ _ => ?_) ?_)
    | (with_reducible refine fold3_keeps (fun _ _ _ => ?_) ?_)
    | split

theorem epilogueEnds_keeps {s₀ s : State} (hk : Keeps s₀ s) : Keeps s₀ (epilogueEnds s) := by
  unfold epilogueEnds
  try dsimp only
  repeat' first
    | with_reducible assumption
    | with_reducible apply setHall_keeps
    | with_reducible apply spoilOverlap_keeps
    | with_reducible apply outputTileEnds_keeps
    | with_reducible apply chooseOp_keeps
    | with_reducible apply setCmd_keeps
    | with_reducible apply writeTile_keeps
    | with_reducible apply countGap_keeps
    | with_reducible rfl
    | split

theorem frameEnds_keeps {s₀ s : State} (hk : Keeps s₀ s) : Keeps s₀ (frameEnds s) := by
  unfold frameEnds
  try dsimp only
  repeat' first
    | with_reducible assumption
    | with_reducible apply setHall_keeps
    | with_reducible apply setHctx_keeps
    | with_reducible rfl
    | (with_reducible refine forEach_keeps (fun _ _ _ => ?_) ?_)
    | split

theorem dropTranslations_keeps {s₀ s : State} (hk : Keeps s₀ s) {c : Nat} : Keeps s₀ (dropTranslations s c) := by
  unfold dropTranslations
  try dsimp only
  repeat' first
    | with_reducible assumption
    | with_reducible apply setHall_keeps
    | with_reducible rfl
    | split

theorem maybeIdle_keeps {s₀ s : State} (hk : Keeps s₀ s) {c : Nat} : Keeps s₀ (maybeIdle s c) := by
  unfold maybeIdle
  try dsimp only
  repeat' first
    | with_reducible assumption
    | with_reducible apply setCtxState_keeps
    | split

theorem doLoop_keeps {s₀ s : State} (hk : Keeps s₀ s) {c : Nat} {k : HCmd} : Keeps s₀ (doLoop s c k) := by
  unfold doLoop
  try dsimp only
  repeat' first
    | with_reducible assumption
    | with_reducible apply setHctx_keeps
    | with_reducible apply wr64_keeps
    | split

theorem removeCmd_keeps {s₀ s : State} (hk : Keeps s₀ s) {c : Nat} {k : HCmd} : Keeps s₀ (removeCmd s c k) := by
  unfold removeCmd
  try dsimp only
  repeat' first
    | with_reducible assumption
    | with_reducible apply setHctx_keeps
    | with_reducible apply maybeIdle_keeps
    | with_reducible apply semAdd_keeps
    | split

theorem startCmd_keeps {s₀ s : State} (hk : Keeps s₀ s) {c : Nat} {k : HCmd} : Keeps s₀ (startCmd s c k) := by
  unfold startCmd
  try dsimp only
  repeat' first
    | with_reducible assumption
    | with_reducible apply removeCmd_keeps
    | with_reducible apply setHctx_keeps
    | with_reducible apply vSpoil_keeps
    | with_reducible apply arrayKick_keeps
    | with_reducible apply setCtxState_keeps
    | with_reducible apply runVector_keeps
    | with_reducible apply setCmd_keeps
    | with_reducible apply dropTranslations_keeps
    | with_reducible apply doLoop_keeps
    | with_reducible apply runDma_keeps
    | split

theorem startReady_keeps {s₀ : State} {c : Nat} {rel : Bool} : ∀ {f : Nat} {s : State}, Keeps s₀ s → Keeps s₀ (startReady f s c rel) := by
  intro f
  induction f with
  | zero => exact fun h => h
  | succ f ih =>
    intro s hk
    unfold startReady
    split
    · exact ih (startCmd_keeps hk)
    · exact hk

theorem startAll_keeps {s₀ s : State} (hk : Keeps s₀ s) {c : Nat} {rel : Bool} : Keeps s₀ (startAll s c rel) := by
  unfold startAll
  try dsimp only
  repeat' first
    | with_reducible assumption
    | with_reducible apply startReady_keeps
    | split

theorem startFetch_keeps {s₀ s : State} (hk : Keeps s₀ s) {c : Nat} {res : Option WalkResult} : Keeps s₀ (startFetch s c res) := by
  unfold startFetch
  try dsimp only
  repeat' first
    | with_reducible assumption
    | with_reducible apply setHctx_keeps
    | with_reducible apply startWalk_keeps
    | with_reducible apply issue_keeps
    | with_reducible apply fault_keeps
    | with_reducible apply haltCtx_keeps
    | split

theorem fetchData_keeps {s₀ s : State} (hk : Keeps s₀ s) {c va status : Nat} {data : List Byte} : Keeps s₀ (fetchData s c va status data) := by
  unfold fetchData
  try dsimp only
  repeat' first
    | with_reducible assumption
    | with_reducible apply setHctx_keeps
    | with_reducible apply wr64_keeps
    | with_reducible apply setCtxState_keeps
    | with_reducible apply haltCtx_keeps
    | split

theorem dispatch_keeps {s₀ s : State} (hk : Keeps s₀ s) {c : Nat} : Keeps s₀ (dispatch s c) := by
  unfold dispatch
  try dsimp only
  repeat' first
    | with_reducible assumption
    | with_reducible apply setHall_keeps
    | with_reducible apply setHctx_keeps
    | with_reducible apply wr64_keeps
    | with_reducible apply startFetch_keeps
    | with_reducible apply startAll_keeps
    | with_reducible apply haltCtx_keeps
    | with_reducible apply startFence_keeps
    | with_reducible apply ev_keeps
    | with_reducible rfl
    | split

theorem dispatchRow_keeps {s₀ s : State} (hk : Keeps s₀ s) {c : Nat} {pick : Line → Bool} : Keeps s₀ (dispatchRow s c pick) := by
  unfold dispatchRow
  try dsimp only
  repeat' first
    | with_reducible assumption
    | with_reducible apply pick_keeps
    | with_reducible apply dispatch_keeps
    | (with_reducible refine pick_keeps_eq ?_ (by assumption))
    | split

theorem waitSatisfied_keeps {s₀ s : State} (hk : Keeps s₀ s) {c : Nat} : Keeps s₀ (waitSatisfied s c) := by
  unfold waitSatisfied
  try dsimp only
  repeat' first
    | with_reducible assumption
    | with_reducible apply setCtxState_keeps
    | with_reducible apply dispatch_keeps
    | split

theorem completeCmd_keeps {s₀ s : State} (hk : Keeps s₀ s) {c id : Nat} : Keeps s₀ (completeCmd s c id) := by
  unfold completeCmd
  try dsimp only
  repeat' first
    | with_reducible assumption
    | with_reducible apply removeCmd_keeps
    | with_reducible apply startFetch_keeps
    | with_reducible apply startAll_keeps
    | with_reducible apply haltCtx_keeps
    | split

theorem walkDone_keeps {s₀ s : State} (hk : Keeps s₀ s) {c va : Nat} : Keeps s₀ (walkDone s c va) := by
  unfold walkDone
  try dsimp only
  repeat' first
    | with_reducible assumption
    | with_reducible apply setHall_keeps
    | with_reducible apply startFetch_keeps
    | with_reducible apply runDma_keeps
    | with_reducible rfl
    | (with_reducible refine forEach_keeps (fun _ _ _ => ?_) ?_)
    | split

theorem ctxStart_keeps {s₀ s : State} (hk : Keeps s₀ s) {c : Nat} : Keeps s₀ (ctxStart s c) := by
  unfold ctxStart
  try dsimp only
  repeat' first
    | with_reducible assumption
    | with_reducible apply setHctx_keeps
    | with_reducible apply setBitOf_keeps
    | with_reducible apply setCtxState_keeps
    | with_reducible apply startFetch_keeps
    | with_reducible apply setFld_keeps
    | split

theorem ctxStop_keeps {s₀ s : State} (hk : Keeps s₀ s) {c : Nat} : Keeps s₀ (ctxStop s c) := by
  unfold ctxStop
  try dsimp only
  repeat' first
    | with_reducible assumption
    | with_reducible apply setHctx_keeps
    | with_reducible apply setCtxState_keeps
    | with_reducible apply maybeIdle_keeps
    | split

theorem ctxListWrite_keeps {s₀ s : State} (hk : Keeps s₀ s) {c v : Nat} : Keeps s₀ (ctxListWrite s c v) := by
  unfold ctxListWrite
  try dsimp only
  repeat' first
    | with_reducible assumption
    | with_reducible apply wr64_keeps
    | with_reducible apply setBitOf_keeps
    | split

theorem ctxCfgApply_keeps {s₀ s : State} (hk : Keeps s₀ s) {c : Nat} : Keeps s₀ (ctxCfgApply s c) := by
  unfold ctxCfgApply
  dsimp only
  split
  · exact hk
  · split
    · exact setHctx_keeps (dropTranslations_keeps (forEach_keeps (fun _ h _ => wr_keeps h) hk))
    · refine setHall_keeps_wf (setHctx_keeps (dropTranslations_keeps (forEach_keeps (fun _ h _ => wr_keeps h) hk))) (fun k => ?_)
      dsimp only
      split
      · exact cellErase_wf _ _ _ (cellErase_wf _ _ _ k)
      · exact cellErase_wf _ _ _ k

theorem ctxCfgChange_keeps {s₀ s : State} (hk : Keeps s₀ s) {c : Nat} {words : List (Nat × Word)} : Keeps s₀ (ctxCfgChange s c words) := by
  unfold ctxCfgChange
  try dsimp only
  repeat' first
    | with_reducible assumption
    | with_reducible apply setHctx_keeps
    | with_reducible apply ctxCfgApply_keeps
    | with_reducible apply ctxStop_keeps
    | split

theorem halSemAdd_keeps {s₀ s : State} (hk : Keeps s₀ s) {sem v : Nat} : Keeps s₀ (halSemAdd s sem v) := by
  unfold halSemAdd
  try dsimp only
  repeat' first
    | with_reducible assumption
    | with_reducible apply semAdd_keeps
    | split

theorem cupSnoop_keeps {s₀ s : State} (hk : Keeps s₀ s) {p : Packet} : Keeps s₀ (cupSnoop s p) := by
  unfold cupSnoop
  try dsimp only
  repeat' first
    | with_reducible assumption
    | with_reducible apply takeC2_keeps
    | with_reducible apply setCup_keeps
    | with_reducible apply ev_keeps
    | (with_reducible refine takeC2_keeps_eq ?_ (by assumption))
    | split

theorem hallKick_keeps {s₀ s : State} (hk : Keeps s₀ s) : Keeps s₀ (hallKick s) := by
  unfold hallKick
  try dsimp only
  repeat' first
    | with_reducible assumption
    | with_reducible apply arrayKick_keeps
    | with_reducible apply startFetch_keeps
    | with_reducible apply startAll_keeps
    | (with_reducible refine forEach_keeps (fun _ _ _ => ?_) ?_)
    | split

theorem setTwin_keeps {s₀ s : State} (hk : Keeps s₀ s) {t : Twin} : Keeps s₀ (setTwin s t) := by
  unfold setTwin
  try dsimp only
  repeat' first
    | with_reducible assumption
    | split
    | with_reducible rfl
    | (with_reducible refine mk_keeps ?_ ?_ ?_ ?_; first | with_reducible assumption | split)

theorem sendDigest_keeps {s₀ s : State} (hk : Keeps s₀ s) : Keeps s₀ (sendDigest s) := by
  unfold sendDigest
  try dsimp only
  repeat' first
    | with_reducible assumption
    | with_reducible apply emit_keeps
    | split

theorem startResync_keeps {s₀ s : State} (hk : Keeps s₀ s) : Keeps s₀ (startResync s) := by
  unfold startResync
  try dsimp only
  repeat' first
    | with_reducible assumption
    | with_reducible apply setBitOf_keeps
    | with_reducible apply emit_keeps
    | split

theorem resyncDone_keeps {s₀ s : State} (hk : Keeps s₀ s) : Keeps s₀ (resyncDone s) := by
  unfold resyncDone
  try dsimp only
  repeat' first
    | with_reducible assumption
    | with_reducible apply homEv_keeps
    | with_reducible apply fault0_keeps
    | with_reducible apply setBitOf_keeps
    | with_reducible apply setTwin_keeps
    | with_reducible apply emit_keeps
    | with_reducible apply setFld_keeps
    | (with_reducible refine forEach_keeps (fun _ _ _ => ?_) ?_)
    | split

theorem takeDigest_keeps {s₀ s : State} (hk : Keeps s₀ s) {d : BitVec 256} : Keeps s₀ (takeDigest s d) := by
  unfold takeDigest
  try dsimp only
  repeat' first
    | with_reducible assumption
    | with_reducible apply fault0_keeps
    | with_reducible apply setTwin_keeps
    | with_reducible apply startResync_keeps
    | split

theorem broadcastAlias_keeps {s₀ s : State} (hk : Keeps s₀ s) : Keeps s₀ (broadcastAlias s) := by
  unfold broadcastAlias
  try dsimp only
  repeat' first
    | with_reducible assumption
    | with_reducible apply sendPlain_keeps
    | split

theorem setAlias_keeps {s₀ s : State} (hk : Keeps s₀ s) {active : Bool} : Keeps s₀ (setAlias s active) := by
  unfold setAlias
  try dsimp only
  repeat' first
    | with_reducible assumption
    | with_reducible apply broadcastAlias_keeps
    | with_reducible apply aliasDue_keeps
    | with_reducible apply setTwin_keeps
    | with_reducible apply wr_keeps
    | split

theorem aliasDue_keeps {s₀ s : State} (hk : Keeps s₀ s) : Keeps s₀ (aliasDue s) := by
  unfold aliasDue
  try dsimp only
  repeat' first
    | with_reducible assumption
    | with_reducible apply broadcastAlias_keeps
    | with_reducible apply setTwin_keeps
    | split

theorem startTakeover_keeps {s₀ s : State} (hk : Keeps s₀ s) : Keeps s₀ (startTakeover s) := by
  unfold startTakeover
  try dsimp only
  repeat' first
    | with_reducible assumption
    | with_reducible apply setTwin_keeps
    | split

theorem declareLost_keeps {s₀ s : State} (hk : Keeps s₀ s) : Keeps s₀ (declareLost s) := by
  unfold declareLost
  try dsimp only
  repeat' first
    | with_reducible assumption
    | with_reducible apply noteActivePath_keeps
    | with_reducible apply setTwin_keeps
    | with_reducible apply fault_keeps
    | with_reducible apply startTakeover_keeps
    | split

theorem confirmTimeout_keeps {s₀ s : State} (hk : Keeps s₀ s) : Keeps s₀ (confirmTimeout s) := by
  unfold confirmTimeout
  try dsimp only
  repeat' first
    | with_reducible assumption
    | with_reducible apply declareLost_keeps
    | with_reducible apply issue_keeps
    | split

theorem probeAnswered_keeps {s₀ s : State} (hk : Keeps s₀ s) {status : Nat} : Keeps s₀ (probeAnswered s status) := by
  unfold probeAnswered
  try dsimp only
  repeat' first
    | with_reducible assumption
    | with_reducible apply declareLost_keeps
    | with_reducible apply setTwin_keeps
    | split

theorem loadRecord_keeps {s₀ s : State} (hk : Keeps s₀ s) {r : DirRec} : Keeps s₀ (loadRecord s r) := by
  unfold loadRecord
  try dsimp only
  repeat' first
    | with_reducible assumption
    | with_reducible apply mkDir_keeps
    | with_reducible apply beginOwn_keeps
    | split
    | with_reducible rfl
    | (with_reducible refine mk_keeps ?_ ?_ ?_ ?_; first | with_reducible assumption | with_reducible apply mkDir_keeps | with_reducible apply beginOwn_keeps | split)

theorem takeoverLoaded_keeps {s₀ s : State} (hk : Keeps s₀ s) : Keeps s₀ (takeoverLoaded s) := by
  unfold takeoverLoaded
  try dsimp only
  repeat' first
    | with_reducible assumption
    | with_reducible apply taken_keeps
    | with_reducible apply setAlias_keeps
    | with_reducible apply setBitOf_keeps
    | with_reducible apply setTwin_keeps
    | with_reducible apply loadRecord_keeps
    | with_reducible apply fault_keeps
    | with_reducible apply settle_keeps
    | with_reducible apply wr_keeps
    | (with_reducible refine forEach_keeps (fun _ _ _ => ?_) ?_)
    | split

theorem startHandoff_keeps {s₀ s : State} (hk : Keeps s₀ s) : Keeps s₀ (startHandoff s) := by
  unfold startHandoff
  try dsimp only
  repeat' first
    | with_reducible assumption
    | with_reducible apply fault0_keeps
    | with_reducible apply setTwin_keeps
    | split

theorem handoffComplete_keeps {s₀ s : State} (hk : Keeps s₀ s) : Keeps s₀ (handoffComplete s) := by
  unfold handoffComplete
  try dsimp only
  repeat' first
    | with_reducible assumption
    | with_reducible apply taken_keeps
    | with_reducible apply setAlias_keeps
    | with_reducible apply setDirBits_keeps
    | with_reducible apply setBitOf_keeps
    | with_reducible apply noteDir_keeps
    | with_reducible apply setTwin_keeps
    | with_reducible apply emit_keeps
    | (with_reducible refine forEach_keeps (fun _ _ _ => ?_) ?_)
    | split
    | with_reducible rfl
    | (with_reducible refine mk_keeps ?_ ?_ ?_ ?_; first | with_reducible assumption | with_reducible apply taken_keeps | with_reducible apply setAlias_keeps | with_reducible apply setDirBits_keeps | with_reducible apply setBitOf_keeps | with_reducible apply noteDir_keeps | with_reducible apply setTwin_keeps | with_reducible apply emit_keeps | (with_reducible refine forEach_keeps (fun _ _ _ => ?_) ?_) | split)

theorem handoffReceived_keeps {s₀ s : State} (hk : Keeps s₀ s) : Keeps s₀ (handoffReceived s) := by
  unfold handoffReceived
  try dsimp only
  repeat' first
    | with_reducible assumption
    | with_reducible apply setTwin_keeps
    | with_reducible apply startTakeover_keeps
    | split

theorem drainOne_keeps {s₀ s : State} (hk : Keeps s₀ s) : Keeps s₀ (drainOne s) := by
  unfold drainOne
  try dsimp only
  repeat' first
    | with_reducible assumption
    | with_reducible apply issue_keeps
    | split
    | with_reducible rfl
    | (with_reducible refine mk_keeps ?_ ?_ ?_ ?_; first | with_reducible assumption | with_reducible apply issue_keeps | split)

theorem queueDrain_keeps {s₀ s : State} (hk : Keeps s₀ s) : Keeps s₀ (queueDrain s) := by
  unfold queueDrain
  try dsimp only
  repeat' first
    | with_reducible assumption
    | with_reducible apply drainOne_keeps
    | split

theorem ringRetry_keeps {s₀ s : State} (hk : Keeps s₀ s) : Keeps s₀ (ringRetry s) := by
  unfold ringRetry
  try dsimp only
  repeat' first
    | with_reducible assumption
    | with_reducible apply drainOne_keeps
    | split

theorem ringAnswered_keeps {s₀ s : State} (hk : Keeps s₀ s) {status : Nat} : Keeps s₀ (ringAnswered s status) := by
  unfold ringAnswered
  try dsimp only
  repeat' first
    | with_reducible assumption
    | with_reducible apply noteQueue_keeps
    | with_reducible apply wr_keeps
    | split
    | with_reducible rfl
    | (with_reducible refine mk_keeps ?_ ?_ ?_ ?_; first | with_reducible assumption | with_reducible apply noteQueue_keeps | with_reducible apply wr_keeps | split)

theorem queuePop_keeps {s₀ s : State} (hk : Keeps s₀ s) : Keeps s₀ (queuePop s) := by
  unfold queuePop
  try dsimp only
  repeat' first
    | with_reducible assumption
    | with_reducible apply noteQueue_keeps
    | split
    | with_reducible rfl
    | (with_reducible refine mk_keeps ?_ ?_ ?_ ?_; first | with_reducible assumption | with_reducible apply noteQueue_keeps | split)

theorem ringTailWrite_keeps {s₀ s : State} (hk : Keeps s₀ s) {v : Nat} : Keeps s₀ (ringTailWrite s v) := by
  unfold ringTailWrite
  try dsimp only
  repeat' first
    | with_reducible assumption
    | with_reducible apply wr_keeps
    | split

theorem ovfClear_keeps {s₀ s : State} (hk : Keeps s₀ s) {source : Nat} : Keeps s₀ (ovfClear s source) := by
  unfold ovfClear
  try dsimp only
  repeat' first
    | with_reducible assumption
    | with_reducible apply wr_keeps
    | split

theorem queueChange_keeps {s₀ s : State} (hk : Keeps s₀ s) {g : Nat} {words : List (Nat × Word)} {owner : DrainOwner} : Keeps s₀ (queueChange s g words owner) := by
  unfold queueChange
  try dsimp only
  repeat' first
    | with_reducible assumption
    | with_reducible apply noteGState_keeps
    | split
    | with_reducible rfl
    | (with_reducible refine mk_keeps ?_ ?_ ?_ ?_; first | with_reducible assumption | with_reducible apply noteGState_keeps | split)

theorem releaseStarts_keeps {s₀ s : State} (hk : Keeps s₀ s) {g : Nat} : Keeps s₀ (releaseStarts s g) := by
  unfold releaseStarts
  try dsimp only
  repeat' first
    | with_reducible assumption
    | with_reducible apply trigStart_keeps
    | (with_reducible refine forEach_keeps (fun _ _ _ => ?_) ?_)
    | split
    | with_reducible rfl
    | (with_reducible refine mk_keeps ?_ ?_ ?_ ?_; first | with_reducible assumption | with_reducible apply trigStart_keeps | (with_reducible refine forEach_keeps (fun _ _ _ => ?_) ?_) | split)

theorem retireSeat_keeps {s₀ s : State} (hk : Keeps s₀ s) {e : Epc} : Keeps s₀ (retireSeat s e) := by
  unfold retireSeat
  try dsimp only
  repeat' first
    | with_reducible assumption
    | with_reducible apply fault_keeps
    | with_reducible apply wr_keeps
    | with_reducible apply ev_keeps
    | split

theorem changeApply_keeps {s₀ s : State} (hk : Keeps s₀ s) {g : Nat} : Keeps s₀ (changeApply s g) := by
  unfold changeApply
  try dsimp only
  repeat' first
    | with_reducible assumption
    | with_reducible apply noteGState_keeps
    | with_reducible apply retireSeat_keeps
    | with_reducible apply setBitOf_keeps
    | with_reducible apply releaseStarts_keeps
    | with_reducible apply wr_keeps
    | (with_reducible refine forEach_keeps (fun _ _ _ => ?_) ?_)
    | split
    | with_reducible rfl
    | (with_reducible refine mk_keeps ?_ ?_ ?_ ?_; first | with_reducible assumption | with_reducible apply noteGState_keeps | with_reducible apply retireSeat_keeps | with_reducible apply setBitOf_keeps | with_reducible apply releaseStarts_keeps | with_reducible apply wr_keeps | (with_reducible refine forEach_keeps (fun _ _ _ => ?_) ?_) | split)

theorem changeAbandon_keeps {s₀ s : State} (hk : Keeps s₀ s) {g : Nat} : Keeps s₀ (changeAbandon s g) := by
  unfold changeAbandon
  try dsimp only
  repeat' first
    | with_reducible assumption
    | with_reducible apply noteGState_keeps
    | with_reducible apply releaseStarts_keeps
    | with_reducible apply revokeToSteward_keeps
    | with_reducible apply fault_keeps
    | (with_reducible refine foldl_keeps (fun _ _ _ => ?_) ?_)
    | (with_reducible refine fold1_keeps (fun _ _ _ => ?_) ?_)
    | (with_reducible refine fold2_keeps (fun _ _ _ => ?_) ?_)
    | (with_reducible refine fold3_keeps (fun _ _ _ => ?_) ?_)
    | split
    | with_reducible rfl
    | (with_reducible refine mk_keeps ?_ ?_ ?_ ?_; first | with_reducible assumption | with_reducible apply noteGState_keeps | with_reducible apply releaseStarts_keeps | with_reducible apply revokeToSteward_keeps | with_reducible apply fault_keeps | (with_reducible refine foldl_keeps (fun _ _ _ => ?_) ?_) | (with_reducible refine fold1_keeps (fun _ _ _ => ?_) ?_) | (with_reducible refine fold2_keeps (fun _ _ _ => ?_) ?_) | (with_reducible refine fold3_keeps (fun _ _ _ => ?_) ?_) | split)

theorem proposeSwap_keeps {s₀ s : State} (hk : Keeps s₀ s) {e : Epc} : Keeps s₀ (proposeSwap s e) := by
  unfold proposeSwap
  try dsimp only
  repeat' first
    | with_reducible assumption
    | with_reducible apply setBitOf_keeps
    | with_reducible apply fault_keeps
    | split
    | with_reducible rfl
    | (with_reducible refine mk_keeps ?_ ?_ ?_ ?_; first | with_reducible assumption | with_reducible apply setBitOf_keeps | with_reducible apply fault_keeps | split)

theorem scorePort_keeps {s₀ s : State} (hk : Keeps s₀ s) {p : Nat} {ls : List (Nat × Nat)} : Keeps s₀ (scorePort s p ls) := by
  unfold scorePort
  try dsimp only
  repeat' first
    | with_reducible assumption
    | with_reducible apply setBitOf_keeps
    | with_reducible apply setFld_keeps
    | with_reducible apply fault_keeps
    | with_reducible apply ev_keeps
    | with_reducible apply proposeSwap_keeps
    | split
    | with_reducible rfl
    | (with_reducible refine mk_keeps ?_ ?_ ?_ ?_; first | with_reducible assumption | with_reducible apply setBitOf_keeps | with_reducible apply setFld_keeps | with_reducible apply fault_keeps | with_reducible apply ev_keeps | with_reducible apply proposeSwap_keeps | split)

theorem windowEvaluate_keeps {s₀ s : State} (hk : Keeps s₀ s) : Keeps s₀ (windowEvaluate s) := by
  unfold windowEvaluate
  try dsimp only
  repeat' first
    | with_reducible assumption
    | with_reducible apply scorePort_keeps
    | with_reducible apply setStep_keeps
    | (with_reducible refine forEach_keeps (fun _ _ _ => ?_) ?_)
    | split
    | with_reducible rfl
    | (with_reducible refine mk_keeps ?_ ?_ ?_ ?_; first | with_reducible assumption | with_reducible apply scorePort_keeps | with_reducible apply setStep_keeps | (with_reducible refine forEach_keeps (fun _ _ _ => ?_) ?_) | split)

theorem memberLost_keeps {s₀ s : State} (hk : Keeps s₀ s) {g i : Nat} : Keeps s₀ (memberLost s g i) := by
  unfold memberLost
  try dsimp only
  repeat' first
    | with_reducible assumption
    | with_reducible apply revokeToSteward_keeps
    | with_reducible apply markDegraded_keeps
    | with_reducible apply proposeSwap_keeps
    | (with_reducible refine forEach_keeps (fun _ _ _ => ?_) ?_)
    | split

theorem regFold_wf {α : Type} {f : α → Nat} {g : α → Word} : ∀ {ws : List α} {r : SMap Word}, swf regReset r = true →
    swf regReset (ws.foldl (fun r e => sset regReset r (f e) (g e)) r) = true := by
  intro ws
  induction ws with
  | nil => exact fun h => h
  | cons w ws ih => exact fun h => ih (swf_sset _ _ _ _ h)
theorem withWords_keeps {s₀ s : State} (hk : Keeps s₀ s) {ws : List (Nat × Word)} : Keeps s₀ (withWords s ws) :=
  mk_keeps_wf hk regFold_wf id id id id id (Nat.le_refl _) (List.prefix_refl _)

theorem setWState_keeps {s₀ s : State} (hk : Keeps s₀ s) {w v : Nat} : Keeps s₀ (setWState s w v) := by
  unfold setWState
  try dsimp only
  repeat' first
    | with_reducible assumption
    | with_reducible apply setFld_keeps
    | split

theorem windowDone_keeps {s₀ s : State} (hk : Keeps s₀ s) {w result item : Nat} : Keeps s₀ (windowDone s w result item) := by
  unfold windowDone
  try dsimp only
  repeat' first
    | with_reducible assumption
    | with_reducible apply setFld_keeps
    | with_reducible apply setWState_keeps
    | split

theorem refuseReq_keeps {s₀ s : State} (hk : Keeps s₀ s) {w result item : Nat} : Keeps s₀ (refuseReq s w result item) := by
  unfold refuseReq
  try dsimp only
  repeat' first
    | with_reducible assumption
    | with_reducible apply fault_keeps
    | with_reducible apply windowDone_keeps
    | with_reducible apply ev_keeps
    | split

theorem slotReassigned_keeps {s₀ s : State} (hk : Keeps s₀ s) {slot : Nat} : Keeps s₀ (slotReassigned s slot) := by
  unfold slotReassigned
  try dsimp only
  repeat' first
    | with_reducible assumption
    | with_reducible apply wr_keeps
    | (with_reducible refine forEach_keeps (fun _ _ _ => ?_) ?_)
    | split
    | with_reducible rfl
    | (with_reducible refine mk_keeps ?_ ?_ ?_ ?_; first | with_reducible assumption | with_reducible apply wr_keeps | (with_reducible refine forEach_keeps (fun _ _ _ => ?_) ?_) | split)

theorem directWrite_keeps {s₀ s : State} (hk : Keeps s₀ s) {off v : Nat} : Keeps s₀ (directWrite s off v) := by
  unfold directWrite
  try dsimp only
  repeat' first
    | with_reducible assumption
    | with_reducible apply bringUpPort_keeps
    | with_reducible apply disablePort_keeps
    | with_reducible apply alertEdge_keeps
    | with_reducible apply relink_keeps
    | with_reducible apply expectChanged_keeps
    | with_reducible apply slotReassigned_keeps
    | with_reducible apply wr_keeps
    | (with_reducible refine forEach_keeps (fun _ _ _ => ?_) ?_)
    | split

theorem scrambleLine_keeps {s₀ s : State} (hk : Keeps s₀ s) {line : Nat} : Keeps s₀ (scrambleLine s line) := by
  unfold scrambleLine
  try dsimp only
  repeat' first
    | with_reducible assumption
    | with_reducible apply memWriteLine_keeps
    | with_reducible apply freeMore_keeps
    | split

theorem applyRegions_keeps {s₀ s : State} (hk : Keeps s₀ s) {ws : List (Nat × Word)} : Keeps s₀ (applyRegions s ws).1 := by
  unfold applyRegions
  try dsimp only
  repeat' first
    | with_reducible assumption
    | with_reducible apply recallWhere_keeps
    | with_reducible apply fault0_keeps
    | with_reducible apply setBitOf_keeps
    | with_reducible apply withWords_keeps
    | with_reducible apply scrambleLine_keeps
    | with_reducible apply sendDigest_keeps
    | (with_reducible refine forEach_keeps (fun _ _ _ => ?_) ?_)
    | split
theorem applyRegions_keeps_eq {s₀ s : State} (hk : Keeps s₀ s) {ws : List (Nat × Word)} {x0 x1} (heq : applyRegions s ws = (x0, x1)) : Keeps s₀ x0 := by
  have := applyRegions_keeps (s₀ := s₀) (s := s) hk (ws := ws)
  rw [heq] at this; exact this

theorem applyTables_keeps {s₀ s : State} (hk : Keeps s₀ s) {owner : DrainOwner} {ws : List (Nat × Word)} : Keeps s₀ (applyTables s owner ws) := by
  unfold applyTables
  try dsimp only
  repeat' first
    | with_reducible assumption
    | with_reducible apply applyRegions_keeps
    | with_reducible apply directWrite_keeps
    | with_reducible apply queueChange_keeps
    | with_reducible apply ctxCfgChange_keeps
    | with_reducible apply withWords_keeps
    | (with_reducible refine applyRegions_keeps_eq ?_ (by assumption))
    | (with_reducible refine forEach_keeps (fun _ _ _ => ?_) ?_)
    | split
    | with_reducible rfl
    | (with_reducible refine mk_keeps ?_ ?_ ?_ ?_; first | with_reducible assumption | with_reducible apply applyRegions_keeps | with_reducible apply directWrite_keeps | with_reducible apply queueChange_keeps | with_reducible apply ctxCfgChange_keeps | with_reducible apply withWords_keeps | (with_reducible refine applyRegions_keeps_eq ?_ (by assumption)) | (with_reducible refine forEach_keeps (fun _ _ _ => ?_) ?_) | split)

theorem applySwitch_keeps {s₀ s : State} (hk : Keeps s₀ s) {owner : DrainOwner} {ws : List (Nat × Word)} : Keeps s₀ (applySwitch s owner ws) := by
  unfold applySwitch
  try dsimp only
  repeat' first
    | with_reducible assumption
    | with_reducible apply wr_keeps
    | with_reducible apply startDrain_keeps
    | (with_reducible refine forEach_keeps (fun _ _ _ => ?_) ?_)
    | split

theorem requestApplied_keeps {s₀ s : State} (hk : Keeps s₀ s) {w : Nat} : Keeps s₀ (requestApplied s w) := by
  unfold requestApplied
  try dsimp only
  repeat' first
    | with_reducible assumption
    | with_reducible apply setBitOf_keeps
    | with_reducible apply windowDone_keeps
    | with_reducible apply ev_keeps
    | split

theorem progressRequests_keeps {s₀ s : State} (hk : Keeps s₀ s) : Keeps s₀ (progressRequests s) := by
  unfold progressRequests
  try dsimp only
  repeat' first
    | with_reducible assumption
    | with_reducible apply recallWhere_keeps
    | with_reducible apply requestApplied_keeps
    | (with_reducible refine forEach_keeps (fun _ _ _ => ?_) ?_)
    | split
    | with_reducible rfl
    | (with_reducible refine mk_keeps ?_ ?_ ?_ ?_; first | with_reducible assumption | with_reducible apply recallWhere_keeps | with_reducible apply requestApplied_keeps | (with_reducible refine forEach_keeps (fun _ _ _ => ?_) ?_) | split)

theorem ownerAbandoned_keeps {s₀ s : State} (hk : Keeps s₀ s) {o : DrainOwner} : Keeps s₀ (ownerAbandoned s o) := by
  unfold ownerAbandoned
  try dsimp only
  repeat' first
    | with_reducible assumption
    | with_reducible apply windowDone_keeps
    | split
    | with_reducible rfl
    | (with_reducible refine mk_keeps ?_ ?_ ?_ ?_; first | with_reducible assumption | with_reducible apply windowDone_keeps | split)

theorem tablesAhead_keeps {s₀ s : State} (hk : Keeps s₀ s) : Keeps s₀ (tablesAhead s) := by
  unfold tablesAhead
  try dsimp only
  repeat' first
    | with_reducible assumption
    | with_reducible apply withWords_keeps
    | split

theorem takeRequest_keeps {s₀ s : State} (hk : Keeps s₀ s) {w : Nat} {items : List Item} : Keeps s₀ (takeRequest s w items) := by
  unfold takeRequest
  try dsimp only
  repeat' first
    | with_reducible assumption
    | with_reducible apply fault0_keeps
    | with_reducible apply applyTables_keeps
    | with_reducible apply refuseReq_keeps
    | with_reducible apply withWords_keeps
    | with_reducible apply progressRequests_keeps
    | with_reducible apply groupFault_keeps
    | with_reducible apply applySwitch_keeps
    | with_reducible apply setWState_keeps
    | with_reducible apply tablesAhead_keeps
    | (with_reducible refine forEach_keeps (fun _ _ _ => ?_) ?_)
    | split

theorem setSec_keeps {s₀ s : State} (hk : Keeps s₀ s) {c : Sec} : Keeps s₀ (setSec s c) := by
  unfold setSec
  try dsimp only
  repeat' first
    | with_reducible assumption
    | split
    | with_reducible rfl
    | (with_reducible refine mk_keeps ?_ ?_ ?_ ?_; first | with_reducible assumption | split)

theorem claspWrite_keeps {s₀ s : State} (hk : Keeps s₀ s) {off : Nat} {bs : List Byte} {w : Nat} : Keeps s₀ (claspWrite s off bs w) := by
  unfold claspWrite
  try dsimp only
  repeat' first
    | with_reducible assumption
    | with_reducible apply issue_keeps
    | (with_reducible refine forEach_keeps (fun _ _ _ => ?_) ?_)
    | split

theorem draw256_keeps {s₀ s : State} (hk : Keeps s₀ s) : Keeps s₀ (draw256 s).2 := by
  unfold draw256
  try dsimp only
  repeat' first
    | with_reducible assumption
    | with_reducible apply freeMore_keeps
    | (with_reducible refine foldl_keeps (fun _ _ _ => ?_) ?_)
    | (with_reducible refine fold1_keeps (fun _ _ _ => ?_) ?_)
    | (with_reducible refine fold2_keeps (fun _ _ _ => ?_) ?_)
    | (with_reducible refine fold3_keeps (fun _ _ _ => ?_) ?_)
    | split
theorem draw256_keeps_eq {s₀ s : State} (hk : Keeps s₀ s) {x0 x1} (heq : draw256 s = (x0, x1)) : Keeps s₀ x1 := by
  have := draw256_keeps (s₀ := s₀) (s := s) hk 
  rw [heq] at this; exact this

theorem setMemKey_keeps {s₀ s : State} (hk : Keeps s₀ s) {k : MemKey} : Keeps s₀ (setMemKey s k) := by
  unfold setMemKey
  try dsimp only
  repeat' first
    | with_reducible assumption
    | with_reducible apply setSec_keeps
    | split

theorem makeMemKey_keeps {s₀ s : State} (hk : Keeps s₀ s) {p : Nat} : Keeps s₀ (makeMemKey s p) := by
  unfold makeMemKey
  try dsimp only
  repeat' first
    | with_reducible assumption
    | with_reducible apply setMemKey_keeps
    | with_reducible apply draw256_keeps
    | (with_reducible refine draw256_keeps_eq ?_ (by assumption))
    | split

theorem sendKeys_keeps {s₀ s : State} (hk : Keeps s₀ s) {p : Nat} : Keeps s₀ (sendKeys s p) := by
  unfold sendKeys
  try dsimp only
  repeat' first
    | with_reducible assumption
    | with_reducible apply emit_keeps
    | with_reducible apply takeFree_keeps
    | with_reducible apply freeMore_keeps
    | split

theorem keyFail_keeps {s₀ s : State} (hk : Keeps s₀ s) {p : Nat} : Keeps s₀ (keyFail s p) := by
  unfold keyFail
  try dsimp only
  repeat' first
    | with_reducible assumption
    | with_reducible apply setSec_keeps
    | with_reducible apply fault_keeps
    | split

theorem takeTwinKeys_keeps {s₀ s : State} (hk : Keeps s₀ s) {p : Nat} {held : Bool} {check : BitVec 64} {ct wrapped : List Byte} {tag : BitVec 128} : Keeps s₀ (takeTwinKeys s p held check ct wrapped tag) := by
  unfold takeTwinKeys
  try dsimp only
  repeat' first
    | with_reducible assumption
    | with_reducible apply makeMemKey_keeps
    | with_reducible apply setSec_keeps
    | with_reducible apply keyFail_keeps
    | with_reducible apply setMemKey_keeps
    | with_reducible apply sendKeys_keeps
    | split

theorem partitionEnters_keeps {s₀ s : State} (hk : Keeps s₀ s) {p : Nat} : Keeps s₀ (partitionEnters s p) := by
  unfold partitionEnters
  try dsimp only
  repeat' first
    | with_reducible assumption
    | with_reducible apply makeMemKey_keeps
    | with_reducible apply setSec_keeps
    | with_reducible apply sendKeys_keeps
    | split

theorem keyWaitEnds_keeps {s₀ s : State} (hk : Keeps s₀ s) {p : Nat} : Keeps s₀ (keyWaitEnds s p) := by
  unfold keyWaitEnds
  try dsimp only
  repeat' first
    | with_reducible assumption
    | with_reducible apply makeMemKey_keeps
    | with_reducible apply setSec_keeps
    | with_reducible apply keyFail_keeps
    | with_reducible apply sendKeys_keeps
    | split

theorem partitionLeaves_keeps {s₀ s : State} (hk : Keeps s₀ s) {p : Nat} : Keeps s₀ (partitionLeaves s p) := by
  unfold partitionLeaves
  try dsimp only
  repeat' first
    | with_reducible assumption
    | with_reducible apply setSec_keeps
    | with_reducible apply wr_keeps
    | split

theorem noteSigning_keeps {s₀ s : State} (hk : Keeps s₀ s) : Keeps s₀ (noteSigning s) := by
  unfold noteSigning
  try dsimp only
  repeat' first
    | with_reducible assumption
    | with_reducible apply setSec_keeps
    | split

theorem makeLocket_keeps {s₀ s : State} (hk : Keeps s₀ s) {partScope : Bool} {part : Nat} {nonce : BitVec 256} : Keeps s₀ (makeLocket s partScope part nonce).2 := by
  unfold makeLocket
  try dsimp only
  repeat' first
    | with_reducible assumption
    | with_reducible apply setSec_keeps
    | with_reducible apply ev_keeps
    | split
theorem makeLocket_keeps_eq {s₀ s : State} (hk : Keeps s₀ s) {partScope : Bool} {part : Nat} {nonce : BitVec 256} {x0 x1} (heq : makeLocket s partScope part nonce = (x0, x1)) : Keeps s₀ x1 := by
  have := makeLocket_keeps (s₀ := s₀) (s := s) hk (partScope := partScope) (part := part) (nonce := nonce)
  rw [heq] at this; exact this

theorem locketSigned_keeps {s₀ s : State} (hk : Keeps s₀ s) : Keeps s₀ (locketSigned s) := by
  unfold locketSigned
  try dsimp only
  repeat' first
    | with_reducible assumption
    | with_reducible apply makeLocket_keeps
    | with_reducible apply setSec_keeps
    | with_reducible apply wr_keeps
    | with_reducible apply claspWrite_keeps
    | (with_reducible refine makeLocket_keeps_eq ?_ (by assumption))
    | split

theorem claspAnswered_keeps {s₀ s : State} (hk : Keeps s₀ s) {w : Nat} : Keeps s₀ (claspAnswered s w) := by
  unfold claspAnswered
  try dsimp only
  repeat' first
    | with_reducible assumption
    | with_reducible apply windowDone_keeps
    | split

theorem grantRefused_keeps {s₀ s : State} (hk : Keeps s₀ s) {w result : Nat} : Keeps s₀ (grantRefused s w result) := by
  unfold grantRefused
  try dsimp only
  repeat' first
    | with_reducible assumption
    | with_reducible apply fault_keeps
    | with_reducible apply windowDone_keeps
    | with_reducible apply ev_keeps
    | split

theorem setJobKeys_keeps {s₀ s : State} (hk : Keeps s₀ s) {ks : List JobKey} : Keeps s₀ (setJobKeys s ks) := by
  unfold setJobKeys
  try dsimp only
  repeat' first
    | with_reducible assumption
    | with_reducible apply setSec_keeps
    | with_reducible apply wr_keeps
    | split

theorem takeGrant_keeps {s₀ s : State} (hk : Keeps s₀ s) {w : Nat} : Keeps s₀ (takeGrant s w) := by
  unfold takeGrant
  try dsimp only
  repeat' first
    | with_reducible assumption
    | with_reducible apply setSec_keeps
    | with_reducible apply windowDone_keeps
    | with_reducible apply grantRefused_keeps
    | with_reducible apply setJobKeys_keeps
    | with_reducible apply setWState_keeps
    | with_reducible apply ev_keeps
    | split

theorem deliverKey_keeps {s₀ s : State} (hk : Keeps s₀ s) : Keeps s₀ (deliverKey s) := by
  unfold deliverKey
  try dsimp only
  repeat' first
    | with_reducible assumption
    | with_reducible apply setSec_keeps
    | with_reducible apply issue_keeps
    | with_reducible apply ev_keeps
    | with_reducible apply takeFree_keeps
    | with_reducible apply freeMore_keeps
    | (with_reducible refine forEach_keeps (fun _ _ _ => ?_) ?_)
    | split

theorem deliveryAnswered_keeps {s₀ s : State} (hk : Keeps s₀ s) {status : Nat} : Keeps s₀ (deliveryAnswered s status) := by
  unfold deliveryAnswered
  try dsimp only
  repeat' first
    | with_reducible assumption
    | with_reducible apply setSec_keeps
    | with_reducible apply fault_keeps
    | with_reducible apply windowDone_keeps
    | split

theorem noteHead_keeps {s₀ s : State} (hk : Keeps s₀ s) : Keeps s₀ (noteHead s) := by
  unfold noteHead
  try dsimp only
  repeat' first
    | with_reducible assumption
    | with_reducible apply setWState_keeps
    | split

theorem enqueue_keeps {s₀ s : State} (hk : Keeps s₀ s) {j : ClaspJob} : Keeps s₀ (enqueue s j) := by
  unfold enqueue
  try dsimp only
  repeat' first
    | with_reducible assumption
    | with_reducible apply noteHead_keeps
    | with_reducible apply setSec_keeps
    | split

theorem popQueue_keeps {s₀ s : State} (hk : Keeps s₀ s) : Keeps s₀ (popQueue s) := by
  unfold popQueue
  try dsimp only
  repeat' first
    | with_reducible assumption
    | with_reducible apply noteHead_keeps
    | with_reducible apply setSec_keeps
    | split

theorem windowCmd_keeps {s₀ s : State} (hk : Keeps s₀ s) {w op count : Nat} {scope : Bool} {part : Nat} {requester : Nat} : Keeps s₀ (windowCmd s w op count scope part requester) := by
  unfold windowCmd
  try dsimp only
  repeat' first
    | with_reducible assumption
    | with_reducible apply enqueue_keeps
    | with_reducible apply setFld_keeps
    | with_reducible apply setWState_keeps
    | (with_reducible refine foldl_keeps (fun _ _ _ => ?_) ?_)
    | (with_reducible refine fold1_keeps (fun _ _ _ => ?_) ?_)
    | (with_reducible refine fold2_keeps (fun _ _ _ => ?_) ?_)
    | (with_reducible refine fold3_keeps (fun _ _ _ => ?_) ?_)
    | split

theorem validateHead_keeps {s₀ s : State} (hk : Keeps s₀ s) : Keeps s₀ (validateHead s) := by
  unfold validateHead
  try dsimp only
  repeat' first
    | with_reducible assumption
    | with_reducible apply takeRequest_keeps
    | with_reducible apply takeGrant_keeps
    | with_reducible apply noteSigning_keeps
    | with_reducible apply setSec_keeps
    | with_reducible apply refuseReq_keeps
    | with_reducible apply popQueue_keeps
    | with_reducible apply setWState_keeps
    | split

theorem locketLate_keeps {s₀ s : State} (hk : Keeps s₀ s) {w : Nat} : Keeps s₀ (locketLate s w) := by
  unfold locketLate
  try dsimp only
  repeat' first
    | with_reducible assumption
    | with_reducible apply noteHead_keeps
    | with_reducible apply setSec_keeps
    | with_reducible apply refuseReq_keeps
    | split

theorem debugToken_keeps {s₀ s : State} (hk : Keeps s₀ s) {t : List Byte} : Keeps s₀ (debugToken s t) := by
  unfold debugToken
  try dsimp only
  repeat' first
    | with_reducible assumption
    | with_reducible apply fault0_keeps
    | with_reducible apply setBitOf_keeps
    | with_reducible apply setSec_keeps
    | with_reducible apply setJobKeys_keeps
    | split
    | (with_reducible refine part_keeps ?_ ?_; first | with_reducible assumption | with_reducible apply fault0_keeps | with_reducible apply setBitOf_keeps | with_reducible apply setSec_keeps | with_reducible apply setJobKeys_keeps | split)
    | exact ⟨rfl, rfl, rfl, rfl, rfl, rfl, rfl⟩

theorem takeTwinLocket_keeps {s₀ s : State} (hk : Keeps s₀ s) {l : List Byte} : Keeps s₀ (takeTwinLocket s l) := by
  unfold takeTwinLocket
  try dsimp only
  repeat' first
    | with_reducible assumption
    | with_reducible apply setTwin_keeps
    | with_reducible apply sendKeys_keeps
    | (with_reducible refine forEach_keeps (fun _ _ _ => ?_) ?_)
    | split

theorem twinLocketSend_keeps {s₀ s : State} (hk : Keeps s₀ s) : Keeps s₀ (twinLocketSend s) := by
  unfold twinLocketSend
  try dsimp only
  repeat' first
    | with_reducible assumption
    | with_reducible apply emit_keeps
    | split

theorem chooseFw_keeps {s₀ s : State} (hk : Keeps s₀ s) {kind : Nat} : Keeps s₀ (chooseFw s kind).2 := by
  unfold chooseFw
  try dsimp only
  repeat' first
    | with_reducible assumption
    | with_reducible apply fault_keeps
    | split
theorem chooseFw_keeps_eq {s₀ s : State} (hk : Keeps s₀ s) {kind : Nat} {x0 x1} (heq : chooseFw s kind = (x0, x1)) : Keeps s₀ x1 := by
  have := chooseFw_keeps (s₀ := s₀) (s := s) hk (kind := kind)
  rw [heq] at this; exact this

theorem chooseClasp_keeps {s₀ s : State} (hk : Keeps s₀ s) : Keeps s₀ (chooseClasp s) := by
  unfold chooseClasp
  try dsimp only
  repeat' first
    | with_reducible assumption
    | with_reducible apply setSec_keeps
    | with_reducible apply setFld_keeps
    | with_reducible apply chooseFw_keeps
    | (with_reducible refine chooseFw_keeps_eq ?_ (by assumption))
    | split

theorem chooseAnnex_keeps {s₀ s : State} (hk : Keeps s₀ s) : Keeps s₀ (chooseAnnex s) := by
  unfold chooseAnnex
  try dsimp only
  repeat' first
    | with_reducible assumption
    | with_reducible apply setBitOf_keeps
    | with_reducible apply setSec_keeps
    | with_reducible apply setFld_keeps
    | with_reducible apply chooseFw_keeps
    | (with_reducible refine chooseFw_keeps_eq ?_ (by assumption))
    | split

theorem bootStep_keeps {s₀ s : State} (hk : Keeps s₀ s) {n : Nat} : Keeps s₀ (bootStep s n) := by
  unfold bootStep
  try dsimp only
  repeat' first
    | with_reducible assumption
    | with_reducible apply makeLocket_keeps
    | with_reducible apply twinLocketSend_keeps
    | with_reducible apply noteSigning_keeps
    | with_reducible apply setBitOf_keeps
    | with_reducible apply setSec_keeps
    | with_reducible apply chooseAnnex_keeps
    | with_reducible apply draw256_keeps
    | (with_reducible refine makeLocket_keeps_eq ?_ (by assumption))
    | (with_reducible refine draw256_keeps_eq ?_ (by assumption))
    | split

theorem clearedTables_keeps {s₀ s : State} (hk : Keeps s₀ s) : Keeps s₀ (clearedTables s) :=
  mk_keeps_wf hk regFold_wf id id id id id (Nat.le_refl _) (List.prefix_refl _)

theorem imgWrite_keeps {s₀ s : State} (hk : Keeps s₀ s) {off v : Nat} : Keeps s₀ (imgWrite s off v) := by
  unfold imgWrite
  try dsimp only
  repeat' first
    | with_reducible assumption
    | with_reducible apply wr_keeps
    | split

theorem imageTables_keeps {s₀ s : State} (hk : Keeps s₀ s) {img : Option (List Byte)} : Keeps s₀ (imageTables s img) := by
  unfold imageTables
  try dsimp only
  repeat' first
    | with_reducible assumption
    | with_reducible apply setBitOf_keeps
    | with_reducible apply imgWrite_keeps
    | with_reducible apply clearedTables_keeps
    | with_reducible apply wr_keeps
    | (with_reducible refine forEach_keeps (fun _ _ _ => ?_) ?_)
    | split

theorem withParts_keeps {s₀ s : State} (hk : Keeps s₀ s) {ps : List Nat} : Keeps s₀ (withParts s ps) := by
  unfold withParts
  try dsimp only
  repeat' first
    | with_reducible assumption
    | with_reducible apply setBitOf_keeps
    | with_reducible apply setFld_keeps
    | with_reducible apply wr_keeps
    | (with_reducible refine forEach_keeps (fun _ _ _ => ?_) ?_)
    | split

end Sys2Proof.Machine
end

