-- ==== Sys2Proof/Laws/KeepsPower.lean ====
section
/-! SUPPORT. Keeps, function by function: the configuration, host ports, transmit slots, power and resets. -/

set_option linter.unusedTactic false
set_option linter.unreachableTactic false
set_option linter.unusedVariables false

namespace Sys2Proof.Machine

theorem setCfg_keeps {s₀ s : State} (hk : Keeps s₀ s) {c : Cfg} : Keeps s₀ (setCfg s c) := by
  unfold setCfg
  try dsimp only
  repeat' first
    | with_reducible assumption
    | split
    | with_reducible rfl
    | (with_reducible refine mk_keeps ?_ ?_ ?_ ?_; first | with_reducible assumption | split)

theorem setCfgState_keeps {s₀ s : State} (hk : Keeps s₀ s) {v : Nat} : Keeps s₀ (setCfgState s v) := by
  unfold setCfgState
  try dsimp only
  repeat' first
    | with_reducible assumption
    | with_reducible apply setFld_keeps
    | split

theorem setResult_keeps {s₀ s : State} (hk : Keeps s₀ s) {r sec : Nat} : Keeps s₀ (setResult s r sec) := by
  unfold setResult
  try dsimp only
  repeat' first
    | with_reducible assumption
    | with_reducible apply setFld_keeps
    | split

theorem nvmWrite_keeps {s₀ s : State} (hk : Keeps s₀ s) {a : Nat} {bs : List Byte} : Keeps s₀ (nvmWrite s a bs) := by
  unfold nvmWrite
  try dsimp only
  repeat' first
    | with_reducible assumption
    | with_reducible apply setCfg_keeps
    | (with_reducible refine foldl_keeps (fun _ _ _ => ?_) ?_)
    | (with_reducible refine fold1_keeps (fun _ _ _ => ?_) ?_)
    | (with_reducible refine fold2_keeps (fun _ _ _ => ?_) ?_)
    | (with_reducible refine fold3_keeps (fun _ _ _ => ?_) ?_)
    | split

theorem nvmErase_keeps {s₀ s : State} (hk : Keeps s₀ s) {lo hi : Nat} : Keeps s₀ (nvmErase s lo hi) := by
  unfold nvmErase
  try dsimp only
  repeat' first
    | with_reducible assumption
    | with_reducible apply setCfg_keeps
    | split

theorem nvmError_keeps {s₀ s : State} (hk : Keeps s₀ s) : Keeps s₀ (nvmError s) := by
  unfold nvmError
  try dsimp only
  repeat' first
    | with_reducible assumption
    | with_reducible apply fault0_keeps
    | with_reducible apply setBitOf_keeps
    | split

theorem setRoles_keeps {s₀ s : State} (hk : Keeps s₀ s) {r : Roles} : Keeps s₀ (setRoles s r) := by
  unfold setRoles
  try dsimp only
  repeat' first
    | with_reducible assumption
    | with_reducible apply setCfg_keeps
    | split

theorem setDigest_keeps {s₀ s : State} (hk : Keeps s₀ s) {off : Nat} {d : BitVec 256} : Keeps s₀ (setDigest s off d) := by
  unfold setDigest
  try dsimp only
  repeat' first
    | with_reducible assumption
    | with_reducible apply wr_keeps
    | (with_reducible refine forEach_keeps (fun _ _ _ => ?_) ?_)
    | split

theorem showRoles_keeps {s₀ s : State} (hk : Keeps s₀ s) : Keeps s₀ (showRoles s) := by
  unfold showRoles
  try dsimp only
  repeat' first
    | with_reducible assumption
    | with_reducible apply wr64_keeps
    | with_reducible apply setBitOf_keeps
    | with_reducible apply setDigest_keeps
    | with_reducible apply setFld_keeps
    | split

theorem showRunning_keeps {s₀ s : State} (hk : Keeps s₀ s) : Keeps s₀ (showRunning s) := by
  unfold showRunning
  try dsimp only
  repeat' first
    | with_reducible assumption
    | with_reducible apply setDigest_keeps
    | split

theorem imageOwners_keeps {s₀ s : State} (hk : Keeps s₀ s) {img : Option (List Byte)} : Keeps s₀ (imageOwners s img) := by
  unfold imageOwners
  try dsimp only
  repeat' first
    | with_reducible assumption
    | with_reducible apply setSec_keeps
    | (with_reducible refine foldl_keeps (fun _ _ _ => ?_) ?_)
    | (with_reducible refine fold1_keeps (fun _ _ _ => ?_) ?_)
    | (with_reducible refine fold2_keeps (fun _ _ _ => ?_) ?_)
    | (with_reducible refine fold3_keeps (fun _ _ _ => ?_) ?_)
    | split

theorem imageCredits_keeps {s₀ s : State} (hk : Keeps s₀ s) {img : Option (List Byte)} : Keeps s₀ (imageCredits s img) := by
  unfold imageCredits
  try dsimp only
  repeat' first
    | with_reducible assumption
    | with_reducible apply setLink_keeps
    | (with_reducible refine forEach_keeps (fun _ _ _ => ?_) ?_)
    | split

theorem loadImage_keeps {s₀ s : State} (hk : Keeps s₀ s) {img : Option (List Byte)} {source : Nat} : Keeps s₀ (loadImage s img source) := by
  unfold loadImage
  try dsimp only
  repeat' first
    | with_reducible assumption
    | with_reducible apply imageOwners_keeps
    | with_reducible apply showRunning_keeps
    | with_reducible apply withParts_keeps
    | with_reducible apply imageTables_keeps
    | with_reducible apply imageCredits_keeps
    | with_reducible apply setFld_keeps
    | split

theorem configReturned_keeps {s₀ s : State} (hk : Keeps s₀ s) {cause : Nat} : Keeps s₀ (configReturned s cause) := by
  unfold configReturned
  try dsimp only
  repeat' first
    | with_reducible assumption
    | with_reducible apply fault_keeps
    | split

theorem countBoot_keeps {s₀ s : State} (hk : Keeps s₀ s) : Keeps s₀ (countBoot s) := by
  unfold countBoot
  try dsimp only
  repeat' first
    | with_reducible assumption
    | with_reducible apply setCfg_keeps
    | with_reducible apply wr_keeps
    | split

theorem readConfig_keeps {s₀ s : State} (hk : Keeps s₀ s) : Keeps s₀ (readConfig s) := by
  unfold readConfig
  try dsimp only
  repeat' first
    | with_reducible assumption
    | with_reducible apply fault0_keeps
    | with_reducible apply configReturned_keeps
    | with_reducible apply loadImage_keeps
    | with_reducible apply showRoles_keeps
    | with_reducible apply setRoles_keeps
    | with_reducible apply countBoot_keeps
    | split

theorem ifIdle_keeps {s₀ s : State} {f : State → State} (hf : ∀ s, Keeps s₀ s → Keeps s₀ (f s)) (hk : Keeps s₀ s) :
    Keeps s₀ (ifIdle s f) := by
  unfold ifIdle
  split
  · exact hf _ hk
  · exact setResult_keeps hk

theorem stageCmd_keeps {s₀ s : State} (hk : Keeps s₀ s) : Keeps s₀ (stageCmd s) := by
  unfold stageCmd
  try dsimp only
  repeat' first
    | with_reducible assumption
    | with_reducible apply fault0_keeps
    | with_reducible apply setResult_keeps
    | with_reducible apply showRoles_keeps
    | with_reducible apply nvmErase_keeps
    | with_reducible apply setCfg_keeps
    | with_reducible apply setRoles_keeps
    | with_reducible apply setCfgState_keeps
    | (with_reducible refine ifIdle_keeps (fun _ _ => ?_) ?_)
    | split

theorem stagingEnds_keeps {s₀ s : State} (hk : Keeps s₀ s) {nvmErr : Bool} : Keeps s₀ (stagingEnds s nvmErr) := by
  unfold stagingEnds
  try dsimp only
  repeat' first
    | with_reducible assumption
    | with_reducible apply fault0_keeps
    | with_reducible apply setResult_keeps
    | with_reducible apply showRoles_keeps
    | with_reducible apply nvmWrite_keeps
    | with_reducible apply fault_keeps
    | with_reducible apply setRoles_keeps
    | with_reducible apply setCfgState_keeps
    | with_reducible apply nvmError_keeps
    | split

theorem stageFwCmd_keeps {s₀ s : State} (hk : Keeps s₀ s) {annex : Bool} : Keeps s₀ (stageFwCmd s annex) := by
  unfold stageFwCmd
  try dsimp only
  repeat' first
    | with_reducible assumption
    | with_reducible apply setResult_keeps
    | with_reducible apply setCfg_keeps
    | with_reducible apply setCfgState_keeps
    | (with_reducible refine ifIdle_keeps (fun _ _ => ?_) ?_)
    | split

theorem stageFwEnds_keeps {s₀ s : State} (hk : Keeps s₀ s) {nvmErr : Bool} : Keeps s₀ (stageFwEnds s nvmErr) := by
  unfold stageFwEnds
  try dsimp only
  repeat' first
    | with_reducible assumption
    | with_reducible apply setResult_keeps
    | with_reducible apply nvmErase_keeps
    | with_reducible apply nvmWrite_keeps
    | with_reducible apply setCfg_keeps
    | with_reducible apply setCfgState_keeps
    | with_reducible apply nvmError_keeps
    | split

theorem enterParts_keeps {s₀ s : State} (hk : Keeps s₀ s) {img : Option (List Byte)} : Keeps s₀ (enterParts s img) := by
  unfold enterParts
  try dsimp only
  repeat' first
    | with_reducible assumption
    | with_reducible apply setSec_keeps
    | with_reducible apply partitionEnters_keeps
    | with_reducible apply withParts_keeps
    | (with_reducible refine forEach_keeps (fun _ _ _ => ?_) ?_)
    | (with_reducible refine foldl_keeps (fun _ _ _ => ?_) ?_)
    | (with_reducible refine fold1_keeps (fun _ _ _ => ?_) ?_)
    | (with_reducible refine fold2_keeps (fun _ _ _ => ?_) ?_)
    | (with_reducible refine fold3_keeps (fun _ _ _ => ?_) ?_)
    | split

theorem leaveParts_keeps {s₀ s : State} (hk : Keeps s₀ s) {img : Option (List Byte)} : Keeps s₀ (leaveParts s img) := by
  unfold leaveParts
  try dsimp only
  repeat' first
    | with_reducible assumption
    | with_reducible apply imageOwners_keeps
    | with_reducible apply withParts_keeps
    | with_reducible apply partitionLeaves_keeps
    | (with_reducible refine forEach_keeps (fun _ _ _ => ?_) ?_)
    | split

theorem commitFails_keeps {s₀ s : State} (hk : Keeps s₀ s) {result sec : Nat} : Keeps s₀ (commitFails s result sec) := by
  unfold commitFails
  try dsimp only
  repeat' first
    | with_reducible assumption
    | with_reducible apply setResult_keeps
    | with_reducible apply fault_keeps
    | with_reducible apply setCfg_keeps
    | with_reducible apply setCfgState_keeps
    | split

theorem startProbation_keeps {s₀ s : State} (hk : Keeps s₀ s) : Keeps s₀ (startProbation s) := by
  unfold startProbation
  try dsimp only
  repeat' first
    | with_reducible assumption
    | with_reducible apply setCfg_keeps
    | split

theorem jobEnds_keeps {s₀ s : State} (hk : Keeps s₀ s) {j : CfgJob} : Keeps s₀ (jobEnds s j) := by
  unfold jobEnds
  try dsimp only
  repeat' first
    | with_reducible assumption
    | with_reducible apply leaveParts_keeps
    | with_reducible apply fault0_keeps
    | with_reducible apply configReturned_keeps
    | with_reducible apply setBitOf_keeps
    | with_reducible apply showRunning_keeps
    | with_reducible apply setResult_keeps
    | with_reducible apply showRoles_keeps
    | with_reducible apply setFld_keeps
    | with_reducible apply setCfg_keeps
    | with_reducible apply setRoles_keeps
    | with_reducible apply startProbation_keeps
    | with_reducible apply setCfgState_keeps
    | split
    | with_reducible rfl
    | (with_reducible refine mk_keeps ?_ ?_ ?_ ?_; first | with_reducible assumption | with_reducible apply leaveParts_keeps | with_reducible apply fault0_keeps | with_reducible apply configReturned_keeps | with_reducible apply setBitOf_keeps | with_reducible apply showRunning_keeps | with_reducible apply setResult_keeps | with_reducible apply showRoles_keeps | with_reducible apply setFld_keeps | with_reducible apply setCfg_keeps | with_reducible apply setRoles_keeps | with_reducible apply startProbation_keeps | with_reducible apply setCfgState_keeps | split)

theorem jobStage4_keeps {s₀ s : State} (hk : Keeps s₀ s) {j : CfgJob} : Keeps s₀ (jobStage4 s j) := by
  unfold jobStage4
  try dsimp only
  repeat' first
    | with_reducible assumption
    | with_reducible apply jobEnds_keeps
    | split

theorem jobStage3_keeps {s₀ s : State} (hk : Keeps s₀ s) {j : CfgJob} : Keeps s₀ (jobStage3 s j) := by
  unfold jobStage3
  try dsimp only
  repeat' first
    | with_reducible assumption
    | with_reducible apply applyTables_keeps
    | with_reducible apply setCfg_keeps
    | with_reducible apply jobStage4_keeps
    | split

theorem jobStage1_keeps {s₀ s : State} (hk : Keeps s₀ s) {j : CfgJob} : Keeps s₀ (jobStage1 s j) := by
  unfold jobStage1
  try dsimp only
  repeat' first
    | with_reducible assumption
    | with_reducible apply jobStage3_keeps
    | with_reducible apply setCfg_keeps
    | with_reducible apply startDrain_keeps
    | split

theorem progressJob_keeps {s₀ s : State} (hk : Keeps s₀ s) : Keeps s₀ (progressJob s) := by
  unfold progressJob
  try dsimp only
  repeat' first
    | with_reducible assumption
    | with_reducible apply jobStage1_keeps
    | with_reducible apply jobStage3_keeps
    | with_reducible apply jobStage4_keeps
    | split

theorem progress_keeps {s₀ s : State} (hk : Keeps s₀ s) : Keeps s₀ (progress s) := by
  unfold progress
  try dsimp only
  repeat' first
    | with_reducible assumption
    | with_reducible apply progressJob_keeps
    | with_reducible apply progressRequests_keeps
    | split

theorem startJob_keeps {s₀ s : State} (hk : Keeps s₀ s) {j : CfgJob} : Keeps s₀ (startJob s j) := by
  unfold startJob
  try dsimp only
  repeat' first
    | with_reducible assumption
    | with_reducible apply enterParts_keeps
    | with_reducible apply progressJob_keeps
    | with_reducible apply setCfg_keeps
    | split

theorem jobAbandoned_keeps {s₀ s : State} (hk : Keeps s₀ s) {o : DrainOwner} : Keeps s₀ (jobAbandoned s o) := by
  unfold jobAbandoned
  try dsimp only
  repeat' first
    | with_reducible assumption
    | with_reducible apply leaveParts_keeps
    | with_reducible apply progressJob_keeps
    | with_reducible apply commitFails_keeps
    | with_reducible apply setCfg_keeps
    | split

theorem commitCmd_keeps {s₀ s : State} (hk : Keeps s₀ s) {reset : Bool} : Keeps s₀ (commitCmd s reset) := by
  unfold commitCmd
  try dsimp only
  repeat' first
    | with_reducible assumption
    | with_reducible apply enqueue_keeps
    | with_reducible apply commitFails_keeps
    | with_reducible apply setResult_keeps
    | with_reducible apply setCfgState_keeps
    | split

theorem commitApply_keeps {s₀ s : State} (hk : Keeps s₀ s) : Keeps s₀ (commitApply s).1 := by
  unfold commitApply
  try dsimp only
  repeat' first
    | with_reducible assumption
    | with_reducible apply startJob_keeps
    | with_reducible apply commitFails_keeps
    | with_reducible apply setResult_keeps
    | with_reducible apply showRoles_keeps
    | with_reducible apply popQueue_keeps
    | with_reducible apply setCfg_keeps
    | with_reducible apply setRoles_keeps
    | with_reducible apply setCfgState_keeps
    | split
theorem commitApply_keeps_eq {s₀ s : State} (hk : Keeps s₀ s) {x0 x1} (heq : commitApply s = (x0, x1)) : Keeps s₀ x0 := by
  have := commitApply_keeps (s₀ := s₀) (s := s) hk 
  rw [heq] at this; exact this

theorem returnCmd_keeps {s₀ s : State} (hk : Keeps s₀ s) : Keeps s₀ (returnCmd s) := by
  unfold returnCmd
  try dsimp only
  repeat' first
    | with_reducible assumption
    | with_reducible apply startJob_keeps
    | with_reducible apply enqueue_keeps
    | with_reducible apply setResult_keeps
    | with_reducible apply setCfgState_keeps
    | (with_reducible refine ifIdle_keeps (fun _ _ => ?_) ?_)
    | split

theorem floorRaised_keeps {s₀ s : State} (hk : Keeps s₀ s) {which v : Nat} : Keeps s₀ (floorRaised s which v) := by
  unfold floorRaised
  try dsimp only
  repeat' first
    | with_reducible assumption
    | with_reducible apply fault_keeps
    | split

theorem raiseFloor_keeps {s₀ s : State} (hk : Keeps s₀ s) {kind req : Nat} : Keeps s₀ (raiseFloor s kind req) := by
  unfold raiseFloor
  try dsimp only
  repeat' first
    | with_reducible assumption
    | with_reducible apply floorRaised_keeps
    | split
    | (with_reducible refine part_keeps ?_ ?_; first | with_reducible assumption | with_reducible apply floorRaised_keeps | split)
    | exact ⟨rfl, rfl, rfl, rfl, rfl, rfl, rfl⟩

theorem probationEnds_keeps {s₀ s : State} (hk : Keeps s₀ s) : Keeps s₀ (probationEnds s) := by
  unfold probationEnds
  try dsimp only
  repeat' first
    | with_reducible assumption
    | with_reducible apply fault0_keeps
    | with_reducible apply floorRaised_keeps
    | with_reducible apply showRoles_keeps
    | with_reducible apply setCfg_keeps
    | with_reducible apply raiseFloor_keeps
    | with_reducible apply setRoles_keeps
    | split
    | (with_reducible refine part_keeps ?_ ?_; first | with_reducible assumption | with_reducible apply fault0_keeps | with_reducible apply floorRaised_keeps | with_reducible apply showRoles_keeps | with_reducible apply setCfg_keeps | with_reducible apply raiseFloor_keeps | with_reducible apply setRoles_keeps | split)
    | exact ⟨rfl, rfl, rfl, rfl, rfl, rfl, rfl⟩

theorem probationFails_keeps {s₀ s : State} (hk : Keeps s₀ s) {cause : Nat} : Keeps s₀ (probationFails s cause) := by
  unfold probationFails
  try dsimp only
  repeat' first
    | with_reducible assumption
    | with_reducible apply startJob_keeps
    | with_reducible apply setResult_keeps
    | with_reducible apply setCfgState_keeps
    | split

theorem watchProbation_keeps {s₀ s : State} (hk : Keeps s₀ s) : Keeps s₀ (watchProbation s) := by
  unfold watchProbation
  try dsimp only
  repeat' first
    | with_reducible assumption
    | with_reducible apply probationFails_keeps
    | split

theorem confirmCmd_keeps {s₀ s : State} (hk : Keeps s₀ s) : Keeps s₀ (confirmCmd s) := by
  unfold confirmCmd
  try dsimp only
  repeat' first
    | with_reducible assumption
    | with_reducible apply watchProbation_keeps
    | with_reducible apply setResult_keeps
    | with_reducible apply probationEnds_keeps
    | split

theorem probationPass_keeps {s₀ s : State} (hk : Keeps s₀ s) : Keeps s₀ (probationPass s) := by
  unfold probationPass
  try dsimp only
  repeat' first
    | with_reducible assumption
    | with_reducible apply watchProbation_keeps
    | with_reducible apply probationEnds_keeps
    | split

theorem probationPort_keeps {s₀ s : State} (hk : Keeps s₀ s) {p : Nat} : Keeps s₀ (probationPort s p) := by
  unfold probationPort
  try dsimp only
  repeat' first
    | with_reducible assumption
    | with_reducible apply probationFails_keeps
    | split

theorem writeSummary_keeps {s₀ s : State} (hk : Keeps s₀ s) {rs : List FaultRec} : Keeps s₀ (writeSummary s rs) := by
  unfold writeSummary
  try dsimp only
  repeat' first
    | with_reducible assumption
    | with_reducible apply nvmErase_keeps
    | with_reducible apply nvmWrite_keeps
    | split
    | with_reducible rfl
    | (with_reducible refine mk_keeps ?_ ?_ ?_ ?_; first | with_reducible assumption | with_reducible apply nvmErase_keeps | with_reducible apply nvmWrite_keeps | split)

theorem summaryWrite_keeps {s₀ s : State} (hk : Keeps s₀ s) : Keeps s₀ (summaryWrite s) := by
  unfold summaryWrite
  try dsimp only
  repeat' first
    | with_reducible assumption
    | with_reducible apply writeSummary_keeps
    | split
    | with_reducible rfl
    | (with_reducible refine mk_keeps ?_ ?_ ?_ ?_; first | with_reducible assumption | with_reducible apply writeSummary_keeps | split)

theorem summaryCmd_keeps {s₀ s : State} (hk : Keeps s₀ s) {clear : Bool} : Keeps s₀ (summaryCmd s clear) := by
  unfold summaryCmd
  try dsimp only
  repeat' first
    | with_reducible assumption
    | with_reducible apply setResult_keeps
    | with_reducible apply setCfg_keeps
    | with_reducible apply setCfgState_keeps
    | (with_reducible refine ifIdle_keeps (fun _ _ => ?_) ?_)
    | split

theorem summaryEnds_keeps {s₀ s : State} (hk : Keeps s₀ s) {nvmErr : Bool} : Keeps s₀ (summaryEnds s nvmErr) := by
  unfold summaryEnds
  try dsimp only
  repeat' first
    | with_reducible assumption
    | with_reducible apply fault0_keeps
    | with_reducible apply writeSummary_keeps
    | with_reducible apply setResult_keeps
    | with_reducible apply claspWrite_keeps
    | with_reducible apply setCfgState_keeps
    | with_reducible apply nvmError_keeps
    | split

theorem setHosts_keeps {s₀ s : State} (hk : Keeps s₀ s) {h : Hosts} : Keeps s₀ (setHosts s h) := by
  unfold setHosts
  try dsimp only
  repeat' first
    | with_reducible assumption
    | split
    | with_reducible rfl
    | (with_reducible refine mk_keeps ?_ ?_ ?_ ?_; first | with_reducible assumption | split)

theorem hostBusy_keeps {s₀ s : State} (hk : Keeps s₀ s) : Keeps s₀ (hostBusy s) := by
  unfold hostBusy
  try dsimp only
  repeat' first
    | with_reducible assumption
    | with_reducible apply setHosts_keeps
    | split

theorem readFails_keeps {s₀ s : State} (hk : Keeps s₀ s) {j f x n status : Nat} : Keeps s₀ (readFails s j f x n status) := by
  unfold readFails
  try dsimp only
  repeat' first
    | with_reducible assumption
    | with_reducible apply emit_keeps
    | with_reducible apply fnFail_keeps
    | split

theorem bar2_keeps {s₀ s : State} (hk : Keeps s₀ s) {j f x len : Nat} {data : Option (List Byte)} : Keeps s₀ (bar2 s j f x len data) := by
  unfold bar2
  try dsimp only
  repeat' first
    | with_reducible assumption
    | with_reducible apply readFails_keeps
    | with_reducible apply issue_keeps
    | with_reducible apply hostBusy_keeps
    | with_reducible apply fnFail_keeps
    | with_reducible apply ev_keeps
    | (with_reducible refine forEach_keeps (fun _ _ _ => ?_) ?_)
    | split

theorem barAnswered_keeps {s₀ s : State} (hk : Keeps s₀ s) {j f x n : Nat} {rd_ : Bool} {status : Nat} {p : Packet} : Keeps s₀ (barAnswered s j f x n rd_ status p) := by
  unfold barAnswered
  try dsimp only
  repeat' first
    | with_reducible assumption
    | with_reducible apply readFails_keeps
    | with_reducible apply emit_keeps
    | with_reducible apply fnFail_keeps
    | split

theorem setHostLines_keeps {s₀ s : State} (hk : Keeps s₀ s) {j : Nat} {ls : List CacheLine} : Keeps s₀ (setHostLines s j ls) := by
  unfold setHostLines
  try dsimp only
  repeat' first
    | with_reducible assumption
    | with_reducible apply setHosts_keeps
    | split

theorem putHostLine_keeps {s₀ s : State} (hk : Keeps s₀ s) {j : Nat} {x : CacheLine} : Keeps s₀ (putHostLine s j x) := by
  unfold putHostLine
  try dsimp only
  repeat' first
    | with_reducible assumption
    | with_reducible apply setHostLines_keeps
    | split

theorem evictHost_keeps {s₀ s : State} (hk : Keeps s₀ s) {j : Nat} {x : CacheLine} : Keeps s₀ (evictHost s j x) := by
  unfold evictHost
  try dsimp only
  repeat' first
    | with_reducible assumption
    | with_reducible apply putHostLine_keeps
    | with_reducible apply issue_keeps
    | split

theorem hostRoom_keeps {s₀ s : State} (hk : Keeps s₀ s) {j : Nat} : Keeps s₀ (hostRoom s j) := by
  unfold hostRoom
  try dsimp only
  repeat' first
    | with_reducible assumption
    | with_reducible apply evictHost_keeps
    | split

theorem atomicDone_keeps {s₀ s : State} (hk : Keeps s₀ s) {a : HostAtomic} {old : Nat} : Keeps s₀ (atomicDone s a old) := by
  unfold atomicDone
  try dsimp only
  repeat' first
    | with_reducible assumption
    | with_reducible apply emit_keeps
    | split

theorem hostAtomic_keeps {s₀ s : State} (hk : Keeps s₀ s) {a : HostAtomic} : Keeps s₀ (hostAtomic s a) := by
  unfold hostAtomic
  try dsimp only
  repeat' first
    | with_reducible assumption
    | with_reducible apply evictHost_keeps
    | with_reducible apply atomicDone_keeps
    | with_reducible apply putHostLine_keeps
    | with_reducible apply setHosts_keeps
    | with_reducible apply issue_keeps
    | with_reducible apply hostRoom_keeps
    | with_reducible apply ev_keeps
    | split

theorem retryAtomics_keeps {s₀ s : State} (hk : Keeps s₀ s) {j : Nat} {src dest : Epc} {off : Nat} : Keeps s₀ (retryAtomics s j src dest off) := by
  unfold retryAtomics
  try dsimp only
  repeat' first
    | with_reducible assumption
    | with_reducible apply setHosts_keeps
    | with_reducible apply hostAtomic_keeps
    | (with_reducible refine forEach_keeps (fun _ _ _ => ?_) ?_)
    | split

theorem bar2Atomic_keeps {s₀ s : State} {j f x size aop : Nat} {operand compare : BitVec 128} {malformed : State → State}
    (hf : ∀ s, Keeps s₀ s → Keeps s₀ (malformed s)) (hk : Keeps s₀ s) :
    Keeps s₀ (bar2Atomic s j f x size aop operand compare malformed) := by
  unfold bar2Atomic
  dsimp only
  split
  · exact hk
  · repeat' first
      | exact hf _ (hostBusy_keeps hk)
      | exact fnFail_keeps (hostBusy_keeps hk)
      | exact hostAtomic_keeps (hostBusy_keeps hk)
      | split

theorem atomicAnswered_keeps {s₀ s : State} (hk : Keeps s₀ s) {r : OutReq} {j f x size aop : Nat} {operand compare : BitVec 128} {p : Packet} : Keeps s₀ (atomicAnswered s r j f x size aop operand compare p) := by
  unfold atomicAnswered
  try dsimp only
  repeat' first
    | with_reducible assumption
    | with_reducible apply atomicDone_keeps
    | with_reducible apply putHostLine_keeps
    | with_reducible apply sendCompAck_keeps
    | with_reducible apply fnFail_keeps
    | with_reducible apply retryAtomics_keeps
    | with_reducible apply answerHeld_keeps
    | with_reducible apply takeFree_keeps
    | (with_reducible refine answerHeld_keeps_eq ?_ (by assumption))
    | split

theorem hostGiven_keeps {s₀ s : State} (hk : Keeps s₀ s) {r : OutReq} {j status : Nat} : Keeps s₀ (hostGiven s r j status) := by
  unfold hostGiven
  try dsimp only
  repeat' first
    | with_reducible assumption
    | with_reducible apply putHostLine_keeps
    | with_reducible apply issue_keeps
    | with_reducible apply retryAtomics_keeps
    | split

theorem hostSnoop_keeps {s₀ s : State} (hk : Keeps s₀ s) {j : Nat} {p : Packet} : Keeps s₀ (hostSnoop s j p) := by
  unfold hostSnoop
  try dsimp only
  repeat' first
    | with_reducible assumption
    | with_reducible apply takeC2_keeps
    | with_reducible apply putHostLine_keeps
    | with_reducible apply setHostLines_keeps
    | (with_reducible refine takeC2_keeps_eq ?_ (by assumption))
    | split

theorem fnFence_keeps {s₀ s : State} (hk : Keeps s₀ s) {j : Fin 2} {f : Fin 128} : Keeps s₀ (fnFence s j f) := by
  unfold fnFence
  try dsimp only
  repeat' first
    | with_reducible assumption
    | with_reducible apply wr64_keeps
    | with_reducible apply startFence_keeps
    | split

theorem fnFenceEnds_keeps {s₀ s : State} (hk : Keeps s₀ s) {r : FenceRun} {j f : Nat} : Keeps s₀ (fnFenceEnds s r j f) := by
  unfold fnFenceEnds
  try dsimp only
  repeat' first
    | with_reducible assumption
    | with_reducible apply wr64_keeps
    | with_reducible apply endFence_keeps
    | with_reducible apply msix_keeps
    | (with_reducible refine endFence_keeps_eq ?_ (by assumption))
    | split

theorem inboundRefused_keeps {s₀ s : State} (hk : Keeps s₀ s) {j : Nat} {p : Packet} {status : Nat} : Keeps s₀ (inboundRefused s j p status) := by
  unfold inboundRefused
  try dsimp only
  repeat' first
    | with_reducible assumption
    | with_reducible apply bump64_keeps
    | with_reducible apply respond_keeps
    | split

theorem hostStore_keeps {s₀ s : State} (hk : Keeps s₀ s) {j f at_ : Nat} {p : Packet} : Keeps s₀ (hostStore s j f at_ p) := by
  unfold hostStore
  try dsimp only
  repeat' first
    | with_reducible assumption
    | with_reducible apply emit_keeps
    | (with_reducible refine forEach_keeps (fun _ _ _ => ?_) ?_)
    | split

theorem inboundRequest_keeps {s₀ s : State} (hk : Keeps s₀ s) {d : Delivered} : Keeps s₀ (inboundRequest s d) := by
  unfold inboundRequest
  try dsimp only
  repeat' first
    | with_reducible assumption
    | with_reducible apply inboundRefused_keeps
    | with_reducible apply hostStore_keeps
    | with_reducible apply setHosts_keeps
    | with_reducible apply emit_keeps
    | with_reducible apply bump64_keeps
    | with_reducible apply hostBusy_keeps
    | with_reducible apply ev_keeps
    | with_reducible apply respond_keeps
    | split

theorem dropInbound_keeps {s₀ s : State} (hk : Keeps s₀ s) {i : Inbound} : Keeps s₀ (dropInbound s i) := by
  unfold dropInbound
  try dsimp only
  repeat' first
    | with_reducible assumption
    | with_reducible apply setHosts_keeps
    | split

theorem dmaComplete_keeps {s₀ s : State} (hk : Keeps s₀ s) {j n : Nat} {data : List Byte} : Keeps s₀ (dmaComplete s j n data) := by
  unfold dmaComplete
  try dsimp only
  repeat' first
    | with_reducible assumption
    | with_reducible apply hostBusy_keeps
    | with_reducible apply dropInbound_keeps
    | with_reducible apply respond_keeps
    | split

theorem dmaTimeout_keeps {s₀ s : State} (hk : Keeps s₀ s) {j n : Nat} : Keeps s₀ (dmaTimeout s j n) := by
  unfold dmaTimeout
  try dsimp only
  repeat' first
    | with_reducible assumption
    | with_reducible apply hostErr_keeps
    | with_reducible apply fault_keeps
    | with_reducible apply dropInbound_keeps
    | with_reducible apply respond_keeps
    | split

theorem msixHoldoff_keeps {s₀ s : State} (hk : Keeps s₀ s) {j f v : Nat} : Keeps s₀ (msixHoldoff s j f v) := by
  unfold msixHoldoff
  try dsimp only
  repeat' first
    | with_reducible assumption
    | with_reducible apply setBitOf_keeps
    | with_reducible apply msix_keeps
    | split

theorem vfEnable_keeps {s₀ s : State} (hk : Keeps s₀ s) {j : Nat} {on : Bool} {n : Nat} : Keeps s₀ (vfEnable s j on n) := by
  unfold vfEnable
  try dsimp only
  repeat' first
    | with_reducible assumption
    | with_reducible apply setBitOf_keeps
    | with_reducible apply setFld_keeps
    | split

theorem dropHostReqs_keeps {s₀ s : State} (hk : Keeps s₀ s) {j : Nat} : Keeps s₀ (dropHostReqs s j) := by
  unfold dropHostReqs
  try dsimp only
  repeat' first
    | with_reducible assumption
    | with_reducible apply setHosts_keeps
    | split
    | with_reducible rfl
    | (with_reducible refine mk_keeps ?_ ?_ ?_ ?_; first | with_reducible assumption | with_reducible apply setHosts_keeps | split)

theorem dropFences_keeps {s₀ s : State} (hk : Keeps s₀ s) {j : Nat} : Keeps s₀ (dropFences s j) := by
  unfold dropFences
  try dsimp only
  repeat' first
    | with_reducible assumption
    | with_reducible apply setBitOf_keeps
    | (with_reducible refine forEach_keeps (fun _ _ _ => ?_) ?_)
    | split
    | with_reducible rfl
    | (with_reducible refine mk_keeps ?_ ?_ ?_ ?_; first | with_reducible assumption | with_reducible apply setBitOf_keeps | (with_reducible refine forEach_keeps (fun _ _ _ => ?_) ?_) | split)

theorem hostLinkGone_keeps {s₀ s : State} (hk : Keeps s₀ s) {j : Nat} : Keeps s₀ (hostLinkGone s j) := by
  unfold hostLinkGone
  try dsimp only
  repeat' first
    | with_reducible assumption
    | with_reducible apply dropFences_keeps
    | with_reducible apply setHosts_keeps
    | with_reducible apply relink_keeps
    | with_reducible apply setFld_keeps
    | with_reducible apply dropHostReqs_keeps
    | with_reducible apply respond_keeps
    | (with_reducible refine forEach_keeps (fun _ _ _ => ?_) ?_)
    | split

theorem hostPerst_keeps {s₀ s : State} (hk : Keeps s₀ s) {j : Nat} : Keeps s₀ (hostPerst s j) := by
  unfold hostPerst
  try dsimp only
  repeat' first
    | with_reducible assumption
    | with_reducible apply setBitOf_keeps
    | with_reducible apply hostLinkGone_keeps
    | with_reducible apply setHosts_keeps
    | with_reducible apply setFld_keeps
    | with_reducible apply wr_keeps
    | (with_reducible refine forEach_keeps (fun _ _ _ => ?_) ?_)
    | split

theorem hostLinkDown_keeps {s₀ s : State} (hk : Keeps s₀ s) {j : Nat} : Keeps s₀ (hostLinkDown s j) := by
  unfold hostLinkDown
  try dsimp only
  repeat' first
    | with_reducible assumption
    | with_reducible apply hostErr_keeps
    | with_reducible apply hostLinkGone_keeps
    | with_reducible apply fault_keeps
    | split

theorem hostLinkUp_keeps {s₀ s : State} (hk : Keeps s₀ s) {j rate width : Nat} : Keeps s₀ (hostLinkUp s j rate width) := by
  unfold hostLinkUp
  try dsimp only
  repeat' first
    | with_reducible assumption
    | with_reducible apply noteActivePath_keeps
    | with_reducible apply setFld_keeps
    | with_reducible apply hostBusy_keeps
    | split

theorem hostTlpErr_keeps {s₀ s : State} (hk : Keeps s₀ s) {j : Nat} {poisoned : Bool} : Keeps s₀ (hostTlpErr s j poisoned) := by
  unfold hostTlpErr
  try dsimp only
  repeat' first
    | with_reducible assumption
    | with_reducible apply noteSince_keeps
    | with_reducible apply hostErr_keeps
    | with_reducible apply fault_keeps
    | with_reducible apply hostBusy_keeps
    | split

theorem noteTail_keeps {s₀ s : State} (hk : Keeps s₀ s) {j f v : Nat} : Keeps s₀ (noteTail s j f v) := by
  unfold noteTail
  try dsimp only
  repeat' first
    | with_reducible assumption
    | with_reducible apply wr_keeps
    | split

theorem apBaseWrite_keeps {s₀ s : State} (hk : Keeps s₀ s) {j f a v : Nat} : Keeps s₀ (apBaseWrite s j f a v) := by
  unfold apBaseWrite
  try dsimp only
  repeat' first
    | with_reducible assumption
    | with_reducible apply wr64_keeps
    | with_reducible apply fnErr_keeps
    | split

theorem apCtrlWrite_keeps {s₀ s : State} (hk : Keeps s₀ s) {j f a v : Nat} : Keeps s₀ (apCtrlWrite s j f a v) := by
  unfold apCtrlWrite
  try dsimp only
  repeat' first
    | with_reducible assumption
    | with_reducible apply fnErr_keeps
    | with_reducible apply wr_keeps
    | split

theorem sendControl_keeps {s₀ s : State} (hk : Keeps s₀ s) {p : Nat} : Keeps s₀ (sendControl s p) := by
  unfold sendControl
  try dsimp only
  repeat' first
    | with_reducible assumption
    | with_reducible apply setLink_keeps
    | with_reducible apply lnkEv_keeps
    | with_reducible apply emit_keeps
    | split

theorem chooseClass_keeps {s₀ s : State} (hk : Keeps s₀ s) {eg : Egress} : Keeps s₀ (chooseClass s eg).1 := by
  unfold chooseClass
  try dsimp only
  repeat' first
    | with_reducible assumption
    | with_reducible apply setPsw_keeps
    | split
theorem chooseClass_keeps_eq {s₀ s : State} (hk : Keeps s₀ s) {eg : Egress} {x0 x1} (heq : chooseClass s eg = (x0, x1)) : Keeps s₀ x0 := by
  have := chooseClass_keeps (s₀ := s₀) (s := s) hk (eg := eg)
  rw [heq] at this; exact this

theorem beginPacket_keeps {s₀ s : State} (hk : Keeps s₀ s) {eg : Egress} {p : Packet} : Keeps s₀ (beginPacket s eg p) := by
  unfold beginPacket
  try dsimp only
  repeat' first
    | with_reducible assumption
    | with_reducible apply setLink_keeps
    | with_reducible apply setPsw_keeps
    | split

theorem packetPassed_keeps {s₀ s : State} (hk : Keeps s₀ s) {eg : Egress} {e : QEntry} : Keeps s₀ (packetPassed s eg e) := by
  unfold packetPassed
  try dsimp only
  repeat' first
    | with_reducible assumption
    | with_reducible apply ev_keeps
    | split
    | with_reducible rfl
    | (with_reducible refine mk_keeps ?_ ?_ ?_ ?_; first | with_reducible assumption | with_reducible apply ev_keeps | split)

theorem sendBytes_keeps {s₀ s : State} (hk : Keeps s₀ s) {eg : Egress} {i : Nat} {e : QEntry} {room : Nat} : Keeps s₀ (sendBytes s eg i e room).1 := by
  unfold sendBytes
  try dsimp only
  repeat' first
    | with_reducible assumption
    | with_reducible apply freeCells_keeps
    | with_reducible apply packetPassed_keeps
    | (with_reducible refine foldl_keeps (fun _ _ _ => ?_) ?_)
    | (with_reducible refine fold1_keeps (fun _ _ _ => ?_) ?_)
    | (with_reducible refine fold2_keeps (fun _ _ _ => ?_) ?_)
    | (with_reducible refine fold3_keeps (fun _ _ _ => ?_) ?_)
    | split
    | with_reducible rfl
    | (with_reducible refine mk_keeps ?_ ?_ ?_ ?_; first | with_reducible assumption | with_reducible apply freeCells_keeps | with_reducible apply packetPassed_keeps | (with_reducible refine foldl_keeps (fun _ _ _ => ?_) ?_) | (with_reducible refine fold1_keeps (fun _ _ _ => ?_) ?_) | (with_reducible refine fold2_keeps (fun _ _ _ => ?_) ?_) | (with_reducible refine fold3_keeps (fun _ _ _ => ?_) ?_) | split)
theorem sendBytes_keeps_eq {s₀ s : State} (hk : Keeps s₀ s) {eg : Egress} {i : Nat} {e : QEntry} {room : Nat} {x0 x1} (heq : sendBytes s eg i e room = (x0, x1)) : Keeps s₀ x0 := by
  have := sendBytes_keeps (s₀ := s₀) (s := s) hk (eg := eg) (i := i) (e := e) (room := room)
  rw [heq] at this; exact this

theorem fillFlit_keeps {s₀ : State} {eg : Egress} {c : Nat} : ∀ {f : Nat} {s : State} {room : Nat} {bs : List Byte} {ps : List Packet},
    Keeps s₀ s → Keeps s₀ (fillFlit eg c f s room bs ps).1 := by
  intro f
  induction f with
  | zero => exact fun h => h
  | succ f ih =>
    intro s room bs ps hk
    unfold fillFlit
    dsimp only
    split
    · split
      · exact hk
      · refine ih (sendBytes_keeps ?_)
        split
        · exact beginPacket_keeps hk
        · exact hk
    · exact hk

theorem gatherC5_keeps {s₀ s : State} (hk : Keeps s₀ s) {eg : Egress} : Keeps s₀ (gatherC5 s eg) := by
  unfold gatherC5
  try dsimp only
  repeat' first
    | with_reducible assumption
    | with_reducible apply setPsw_keeps
    | split

theorem slotIs_keeps {s₀ s : State} (hk : Keeps s₀ s) {p k : Nat} : Keeps s₀ (slotIs s p k) := by
  unfold slotIs
  try dsimp only
  repeat' first
    | with_reducible assumption
    | with_reducible apply ev_keeps
    | split

theorem countFlit_keeps {s₀ s : State} (hk : Keeps s₀ s) {p c : Nat} : Keeps s₀ (countFlit s p c) := by
  unfold countFlit
  try dsimp only
  repeat' first
    | with_reducible assumption
    | with_reducible apply ev_keeps
    | split

theorem unusedSlot_keeps {s₀ s : State} (hk : Keeps s₀ s) {p : Nat} : Keeps s₀ (unusedSlot s p) := by
  unfold unusedSlot
  try dsimp only
  repeat' first
    | with_reducible assumption
    | with_reducible apply sendControl_keeps
    | with_reducible apply emit_keeps
    | with_reducible apply slotIs_keeps
    | split

theorem sendReplay_keeps {s₀ s : State} (hk : Keeps s₀ s) {p i : Nat} {e : ReplayEntry} : Keeps s₀ (sendReplay s p i e) := by
  unfold sendReplay
  try dsimp only
  repeat' first
    | with_reducible assumption
    | with_reducible apply setLink_keeps
    | with_reducible apply lnkEv_keeps
    | with_reducible apply emit_keeps
    | with_reducible apply countFlit_keeps
    | with_reducible apply slotIs_keeps
    | with_reducible apply ev_keeps
    | split

theorem sendNew_keeps {s₀ s : State} (hk : Keeps s₀ s) {p c : Nat} : Keeps s₀ (sendNew s p c) := by
  unfold sendNew
  try dsimp only
  repeat' first
    | with_reducible assumption
    | with_reducible apply setLink_keeps
    | with_reducible apply fillFlit_keeps
    | with_reducible apply emit_keeps
    | with_reducible apply countFlit_keeps
    | with_reducible apply slotIs_keeps
    | split

theorem portSlot_keeps {s₀ s : State} (hk : Keeps s₀ s) {p : Nat} : Keeps s₀ (portSlot s p) := by
  unfold portSlot
  try dsimp only
  repeat' first
    | with_reducible assumption
    | with_reducible apply sendReplay_keeps
    | with_reducible apply chooseClass_keeps
    | with_reducible apply unusedSlot_keeps
    | with_reducible apply setLink_keeps
    | with_reducible apply lnkEv_keeps
    | with_reducible apply gatherC5_keeps
    | with_reducible apply sendNew_keeps
    | (with_reducible refine chooseClass_keeps_eq ?_ (by assumption))
    | split

theorem internalSlot_keeps {s₀ s : State} (hk : Keeps s₀ s) {eg : Egress} : Keeps s₀ (internalSlot s eg) := by
  unfold internalSlot
  try dsimp only
  repeat' first
    | with_reducible assumption
    | with_reducible apply chooseClass_keeps
    | with_reducible apply fillFlit_keeps
    | with_reducible apply gatherC5_keeps
    | (with_reducible refine chooseClass_keeps_eq ?_ (by assumption))
    | split

theorem transmitSlot_keeps {s₀ s : State} (hk : Keeps s₀ s) {eg : Egress} : Keeps s₀ (transmitSlot s eg) := by
  unfold transmitSlot
  try dsimp only
  repeat' first
    | with_reducible assumption
    | with_reducible apply portSlot_keeps
    | with_reducible apply internalSlot_keeps
    | with_reducible apply slotIs_keeps
    | split

theorem setPwr_keeps {s₀ s : State} (hk : Keeps s₀ s) {p : Pwr} : Keeps s₀ (setPwr s p) := by
  unfold setPwr
  try dsimp only
  repeat' first
    | with_reducible assumption
    | split
    | with_reducible rfl
    | (with_reducible refine mk_keeps ?_ ?_ ?_ ?_; first | with_reducible assumption | split)

theorem setPwrState_keeps {s₀ s : State} (hk : Keeps s₀ s) {v : Nat} : Keeps s₀ (setPwrState s v) := by
  unfold setPwrState
  try dsimp only
  repeat' first
    | with_reducible assumption
    | with_reducible apply setFld_keeps
    | split

theorem aside_keeps {s₀ s : State} {f : State → State} (hf : ∀ s, Keeps s₀ s → Keeps s₀ (f s)) (hk : Keeps s₀ s) :
    Keeps s₀ (aside s f) := by
  have := hf s hk
  exact ⟨this.part, hk.pending, this.out, this.free, this.now, fun c => { this.canon c with }⟩

theorem setPwrBit_keeps {s₀ s : State} (hk : Keeps s₀ s) {b : Nat} {v : Bool} : Keeps s₀ (setPwrBit s b v) := by
  unfold setPwrBit
  try dsimp only
  repeat' first
    | with_reducible assumption
    | with_reducible apply setBitOf_keeps
    | with_reducible apply alertEdge_keeps
    | split

theorem keptRegs_keeps {s₀ s r : State} {cause : Nat} (hk : Keeps s₀ r) : Keeps s₀ (keptRegs s cause r) :=
  wr_keeps (setBitOf_keeps (wr_keeps (setBitOf_keeps (wr_keeps (wr_keeps hk)))))

theorem sAbove_keptLanes {k : Nat} {m : SMap Lane} (h : sAbove k m = true) :
    sAbove k (m.filterMap fun e => if e.2.stored then some (e.1, ({ stored := true } : Lane)) else none) = true := by
  simp only [sAbove, List.all_eq_true, decide_eq_true_eq, List.mem_filterMap] at *
  rintro e ⟨x, hx, hxe⟩
  split at hxe
  · obtain rfl := Option.some.inj hxe
    exact h x hx
  · exact absurd hxe (by simp)
theorem keptLanes_wf {m : SMap Lane} (h : swf (fun _ => ({} : Lane)) m = true) :
    swf (fun _ => ({} : Lane)) (m.filterMap fun e => if e.2.stored then some (e.1, ({ stored := true } : Lane)) else none) = true := by
  induction m with
  | nil => rfl
  | cons e m ih =>
    obtain ⟨a, v⟩ := e
    simp only [swf, Bool.and_eq_true, decide_eq_true_eq] at h
    rw [List.filterMap_cons]
    dsimp only
    by_cases hv : v.stored = true
    · simp only [hv, if_true, swf, Bool.and_eq_true, decide_eq_true_eq]
      exact ⟨⟨by decide, sAbove_keptLanes h.1.2⟩, ih h.2⟩
    · simp only [hv, if_false, Bool.false_eq_true]
      exact ih h.2
theorem resetState_keeps {s₀ s : State} (hk : Keeps s₀ s) {ph cause : Nat} {retained : Nat → Bool} :
    Keeps s₀ (resetState s ph cause retained) := by
  unfold resetState
  refine setFld_keeps (keptRegs_keeps (hk.trans ?_))
  exact ⟨PartInfo.Same.refl _, rfl, List.prefix_refl _, Nat.le_refl _, Or.inl rfl,
    fun c => ⟨rfl, keptLanes_wf c.lanes, rfl, c.mem, rfl, rfl⟩⟩

theorem resetNow_keeps {s₀ s : State} (hk : Keeps s₀ s) {cause : Nat} : Keeps s₀ (resetNow s cause) := by
  unfold resetNow
  try dsimp only
  repeat' first
    | with_reducible assumption
    | with_reducible apply resetState_keeps
    | split

theorem State.Canon.nil_regs : swf regReset ([] : SMap Word) = true := rfl
theorem powerOn_keeps {s₀ s : State} (hk : Keeps s₀ s) : Keeps s₀ (powerOn s) :=
  hk.trans ⟨PartInfo.Same.refl _, rfl, List.prefix_refl _, Nat.le_refl _, Or.inr rfl, fun _ => ⟨rfl, rfl, rfl, rfl, rfl, rfl⟩⟩

theorem switchOff_keeps {s₀ s : State} (hk : Keeps s₀ s) : Keeps s₀ (switchOff s) := by
  unfold switchOff
  try dsimp only
  repeat' first
    | with_reducible assumption
    | with_reducible apply setPwr_keeps
    | with_reducible apply powerOn_keeps
    | split

theorem degradeAll_keeps {s₀ s : State} (hk : Keeps s₀ s) : Keeps s₀ (degradeAll s) := by
  unfold degradeAll
  try dsimp only
  repeat' first
    | with_reducible assumption
    | with_reducible apply markDegraded_keeps
    | (with_reducible refine forEach_keeps (fun _ _ _ => ?_) ?_)
    | split

theorem degradeOwned_keeps {s₀ s : State} (hk : Keeps s₀ s) : Keeps s₀ (degradeOwned s) := by
  unfold degradeOwned
  try dsimp only
  repeat' first
    | with_reducible assumption
    | with_reducible apply markDegraded_keeps
    | (with_reducible refine forEach_keeps (fun _ _ _ => ?_) ?_)
    | split

theorem lanesOff_keeps {s₀ s : State} (hk : Keeps s₀ s) : Keeps s₀ (lanesOff s) := by
  unfold lanesOff
  try dsimp only
  repeat' first
    | with_reducible assumption
    | with_reducible apply laneOff_keeps
    | (with_reducible refine forEach_keeps (fun _ _ _ => ?_) ?_)
    | split

theorem portsLeave_keeps {s₀ s : State} (hk : Keeps s₀ s) : Keeps s₀ (portsLeave s) := by
  unfold portsLeave
  try dsimp only
  repeat' first
    | with_reducible assumption
    | with_reducible apply leaveService_keeps
    | with_reducible apply degradeAll_keeps
    | with_reducible apply setTwin_keeps
    | with_reducible apply lanesOff_keeps
    | (with_reducible refine forEach_keeps (fun _ _ _ => ?_) ?_)
    | split

theorem pwrProgress_keeps {s₀ s : State} (hk : Keeps s₀ s) : Keeps s₀ (pwrProgress s) := by
  unfold pwrProgress
  try dsimp only
  repeat' first
    | with_reducible assumption
    | with_reducible apply resetNow_keeps
    | with_reducible apply portsLeave_keeps
    | with_reducible apply recallWhere_keeps
    | with_reducible apply setPwr_keeps
    | with_reducible apply ctxStop_keeps
    | (with_reducible refine forEach_keeps (fun _ _ _ => ?_) ?_)
    | split

theorem startEntry_keeps {s₀ s : State} (hk : Keeps s₀ s) {tgt : Nat} : Keeps s₀ (startEntry s tgt) := by
  unfold startEntry
  try dsimp only
  repeat' first
    | with_reducible assumption
    | with_reducible apply setPwr_keeps
    | with_reducible apply setBitOf_keeps
    | with_reducible apply pwrProgress_keeps
    | with_reducible apply startHandoff_keeps
    | split

theorem requestReset_keeps {s₀ s : State} (hk : Keeps s₀ s) {tgt : Nat} : Keeps s₀ (requestReset s tgt) := by
  unfold requestReset
  try dsimp only
  repeat' first
    | with_reducible assumption
    | with_reducible apply setPwr_keeps
    | with_reducible apply setBitOf_keeps
    | with_reducible apply pwrProgress_keeps
    | with_reducible apply startHandoff_keeps
    | split

theorem cellFold_wf {α : Type} {f : α → Nat} {g : α → Byte} : ∀ {xs : List α} {m : List Host.Cell}, Memory.wf m = true →
    Memory.wf (xs.foldl (fun m e => cellSet m (f e) (g e)) m) = true := by
  intro xs
  induction xs with
  | nil => exact fun h => h
  | cons x xs ih => exact fun h => ih (cellSet_wf _ _ _ h)
theorem pantryLost_keeps {s₀ s : State} (hk : Keeps s₀ s) : Keeps s₀ (pantryLost s) := by
  unfold pantryLost setHall
  dsimp only
  exact mk_keeps_wf hk id id id id (fun _ => cellFold_wf Memory.wf_nil) id (Nat.le_add_right _ _) (List.prefix_refl _)

theorem enterDeep_keeps {s₀ s : State} (hk : Keeps s₀ s) : Keeps s₀ (enterDeep s) := by
  unfold enterDeep
  try dsimp only
  repeat' first
    | with_reducible assumption
    | with_reducible apply setPwr_keeps
    | with_reducible apply setBitOf_keeps
    | with_reducible apply setPwrState_keeps
    | with_reducible apply pantryLost_keeps
    | with_reducible apply hostLinkGone_keeps
    | with_reducible apply setFld_keeps
    | with_reducible apply ev_keeps
    | (with_reducible refine foldl_keeps (fun _ _ _ => ?_) ?_)
    | (with_reducible refine fold1_keeps (fun _ _ _ => ?_) ?_)
    | (with_reducible refine fold2_keeps (fun _ _ _ => ?_) ?_)
    | (with_reducible refine fold3_keeps (fun _ _ _ => ?_) ?_)
    | split
    | with_reducible rfl
    | (with_reducible refine mk_keeps ?_ ?_ ?_ ?_; first | with_reducible assumption | with_reducible apply setPwr_keeps | with_reducible apply setBitOf_keeps | with_reducible apply setPwrState_keeps | with_reducible apply pantryLost_keeps | with_reducible apply hostLinkGone_keeps | with_reducible apply setFld_keeps | with_reducible apply ev_keeps | (with_reducible refine foldl_keeps (fun _ _ _ => ?_) ?_) | (with_reducible refine fold1_keeps (fun _ _ _ => ?_) ?_) | (with_reducible refine fold2_keeps (fun _ _ _ => ?_) ?_) | (with_reducible refine fold3_keeps (fun _ _ _ => ?_) ?_) | split)

theorem stateEntered_keeps {s₀ s : State} (hk : Keeps s₀ s) : Keeps s₀ (stateEntered s) := by
  unfold stateEntered
  try dsimp only
  repeat' first
    | with_reducible assumption
    | with_reducible apply pwrProgress_keeps
    | with_reducible apply enterDeep_keeps
    | split

theorem portsUp_keeps {s₀ s : State} (hk : Keeps s₀ s) : Keeps s₀ (portsUp s) := by
  unfold portsUp
  try dsimp only
  repeat' first
    | with_reducible assumption
    | with_reducible apply bringUpPort_keeps
    | with_reducible apply setTwin_keeps
    | (with_reducible refine forEach_keeps (fun _ _ _ => ?_) ?_)
    | split

theorem abandonEntry_keeps {s₀ s : State} (hk : Keeps s₀ s) : Keeps s₀ (abandonEntry s) := by
  unfold abandonEntry
  try dsimp only
  repeat' first
    | with_reducible assumption
    | with_reducible apply fault0_keeps
    | with_reducible apply setPwr_keeps
    | with_reducible apply setBitOf_keeps
    | with_reducible apply portsUp_keeps
    | split

theorem wakeRun_keeps {s₀ s : State} (hk : Keeps s₀ s) : Keeps s₀ (wakeRun s) := by
  unfold wakeRun
  try dsimp only
  repeat' first
    | with_reducible assumption
    | with_reducible apply setPwr_keeps
    | with_reducible apply setLink_keeps
    | with_reducible apply setPwrState_keeps
    | with_reducible apply hallKick_keeps
    | (with_reducible refine forEach_keeps (fun _ _ _ => ?_) ?_)
    | split

theorem contentLost_keeps {s₀ s : State} (hk : Keeps s₀ s) {tier : Nat} : Keeps s₀ (contentLost s tier) := by
  unfold contentLost
  try dsimp only
  repeat' first
    | with_reducible assumption
    | with_reducible apply fault_keeps
    | split

theorem stillExit_keeps {s₀ s : State} (hk : Keeps s₀ s) : Keeps s₀ (stillExit s) := by
  unfold stillExit
  try dsimp only
  repeat' first
    | with_reducible assumption
    | with_reducible apply setPwr_keeps
    | with_reducible apply setBitOf_keeps
    | with_reducible apply setPwrState_keeps
    | with_reducible apply portsUp_keeps
    | with_reducible apply contentLost_keeps
    | split
    | with_reducible rfl
    | (with_reducible refine mk_keeps ?_ ?_ ?_ ?_; first | with_reducible assumption | with_reducible apply setPwr_keeps | with_reducible apply setBitOf_keeps | with_reducible apply setPwrState_keeps | with_reducible apply portsUp_keeps | with_reducible apply contentLost_keeps | split)

theorem vigilExit_keeps {s₀ s : State} (hk : Keeps s₀ s) : Keeps s₀ (vigilExit s) := by
  unfold vigilExit
  try dsimp only
  repeat' first
    | with_reducible assumption
    | with_reducible apply setPwr_keeps
    | with_reducible apply setBitOf_keeps
    | with_reducible apply resetState_keeps
    | with_reducible apply contentLost_keeps
    | split

theorem wakeEvent_keeps {s₀ s : State} (hk : Keeps s₀ s) {e : WakeEvent} : Keeps s₀ (wakeEvent s e) := by
  unfold wakeEvent
  try dsimp only
  repeat' first
    | with_reducible assumption
    | with_reducible apply setPwr_keeps
    | with_reducible apply vigilExit_keeps
    | with_reducible apply stillExit_keeps
    | with_reducible apply wakeRun_keeps
    | with_reducible apply abandonEntry_keeps
    | split

theorem cmdRun_keeps {s₀ s : State} (hk : Keeps s₀ s) {i3c : Bool} : Keeps s₀ (cmdRun s i3c) := by
  unfold cmdRun
  try dsimp only
  repeat' first
    | with_reducible assumption
    | with_reducible apply wakeEvent_keeps
    | split

theorem poiseEntry_keeps {s₀ s : State} (hk : Keeps s₀ s) : Keeps s₀ (poiseEntry s) := by
  unfold poiseEntry
  try dsimp only
  repeat' first
    | with_reducible assumption
    | with_reducible apply setPwr_keeps
    | with_reducible apply setPwrState_keeps
    | with_reducible apply wakeRun_keeps
    | with_reducible apply ev_keeps
    | split

theorem hushEntry_keeps {s₀ s : State} (hk : Keeps s₀ s) : Keeps s₀ (hushEntry s) := by
  unfold hushEntry
  try dsimp only
  repeat' first
    | with_reducible assumption
    | with_reducible apply setLink_keeps
    | with_reducible apply setPwrState_keeps
    | with_reducible apply sendControl_keeps
    | with_reducible apply ev_keeps
    | (with_reducible refine forEach_keeps (fun _ _ _ => ?_) ?_)
    | split

theorem planWidth_keeps {s₀ s : State} (hk : Keeps s₀ s) {p : Nat} {narrow : Bool} : Keeps s₀ (planWidth s p narrow) := by
  unfold planWidth
  try dsimp only
  repeat' first
    | with_reducible assumption
    | with_reducible apply setLink_keeps
    | with_reducible apply setFld_keeps
    | with_reducible apply announceWidth_keeps
    | split

theorem tighten_keeps {s₀ s : State} (hk : Keeps s₀ s) {watts : Nat} : Keeps s₀ (tighten s watts) := by
  unfold tighten
  try dsimp only
  repeat' first
    | with_reducible assumption
    | with_reducible apply setPwrBit_keeps
    | with_reducible apply setFld_keeps
    | with_reducible apply fault_keeps
    | with_reducible apply planWidth_keeps
    | with_reducible apply countGap_keeps
    | split

theorem release1_keeps {s₀ s : State} (hk : Keeps s₀ s) : Keeps s₀ (release1 s) := by
  unfold release1
  try dsimp only
  repeat' first
    | with_reducible assumption
    | with_reducible apply setPwrBit_keeps
    | with_reducible apply setPwr_keeps
    | with_reducible apply setLink_keeps
    | with_reducible apply arrayKick_keeps
    | with_reducible apply hallKick_keeps
    | with_reducible apply setFld_keeps
    | with_reducible apply planWidth_keeps
    | with_reducible apply countGap_keeps
    | split

theorem capControl_keeps {s₀ s : State} (hk : Keeps s₀ s) {watts : Nat} : Keeps s₀ (capControl s watts) := by
  unfold capControl
  try dsimp only
  repeat' first
    | with_reducible assumption
    | with_reducible apply setLink_keeps
    | with_reducible apply tighten_keeps
    | with_reducible apply wr_keeps
    | with_reducible apply takeFree_keeps
    | with_reducible apply release1_keeps
    | (with_reducible refine forEach_keeps (fun _ _ _ => ?_) ?_)
    | split

theorem capWritten_keeps {s₀ s : State} (hk : Keeps s₀ s) {v : Nat} : Keeps s₀ (capWritten s v) := by
  unfold capWritten
  try dsimp only
  repeat' first
    | with_reducible assumption
    | with_reducible apply setPwr_keeps
    | with_reducible apply wr_keeps
    | split

theorem throttleOn_keeps {s₀ s : State} (hk : Keeps s₀ s) : Keeps s₀ (throttleOn s) := by
  unfold throttleOn
  try dsimp only
  repeat' first
    | with_reducible assumption
    | with_reducible apply setPwrBit_keeps
    | with_reducible apply fault0_keeps
    | with_reducible apply countGap_keeps
    | split

theorem throttleOff_keeps {s₀ s : State} (hk : Keeps s₀ s) : Keeps s₀ (throttleOff s) := by
  unfold throttleOff
  try dsimp only
  repeat' first
    | with_reducible assumption
    | with_reducible apply setPwrBit_keeps
    | with_reducible apply hallKick_keeps
    | with_reducible apply countGap_keeps
    | split

theorem thermalTrip_keeps {s₀ s : State} (hk : Keeps s₀ s) {d : Die} : Keeps s₀ (thermalTrip s d) := by
  unfold thermalTrip
  try dsimp only
  repeat' first
    | with_reducible assumption
    | with_reducible apply setPwr_keeps
    | with_reducible apply fault_keeps
    | split

theorem thermalRestart_keeps {s₀ s : State} (hk : Keeps s₀ s) : Keeps s₀ (thermalRestart s) := by
  unfold thermalRestart
  try dsimp only
  repeat' first
    | with_reducible assumption
    | with_reducible apply resetNow_keeps
    | split

theorem setInput_keeps {s₀ s : State} (hk : Keeps s₀ s) {i : Sys2Proof.Input} {x : InputState} : Keeps s₀ (setInput s i x) := by
  unfold setInput
  try dsimp only
  repeat' first
    | with_reducible assumption
    | with_reducible apply setPwr_keeps
    | split

theorem noteChange_keeps {s₀ s : State} (hk : Keeps s₀ s) {i : Sys2Proof.Input} {active : Bool} : Keeps s₀ (noteChange s i active) := by
  unfold noteChange
  try dsimp only
  repeat' first
    | with_reducible assumption
    | with_reducible apply setBitOf_keeps
    | with_reducible apply setInput_keeps
    | with_reducible apply alertEdge_keeps
    | with_reducible apply fault_keeps
    | split

theorem inputActs_keeps {s₀ s : State} (hk : Keeps s₀ s) {i : Sys2Proof.Input} {active : Bool} : Keeps s₀ (inputActs s i active) := by
  unfold inputActs
  try dsimp only
  repeat' first
    | with_reducible assumption
    | with_reducible apply declareLost_keeps
    | with_reducible apply hostPerst_keeps
    | with_reducible apply switchOff_keeps
    | with_reducible apply throttleOn_keeps
    | with_reducible apply wakeEvent_keeps
    | split

theorem inputAccept_keeps {s₀ s : State} (hk : Keeps s₀ s) {i : Sys2Proof.Input} {active : Bool} : Keeps s₀ (inputAccept s i active) := by
  unfold inputAccept
  try dsimp only
  repeat' first
    | with_reducible assumption
    | with_reducible apply setBitOf_keeps
    | with_reducible apply noteChange_keeps
    | with_reducible apply powerOn_keeps
    | with_reducible apply inputActs_keeps
    | with_reducible apply wakeRun_keeps
    | split

theorem inputStuck_keeps {s₀ s : State} (hk : Keeps s₀ s) {i : Sys2Proof.Input} : Keeps s₀ (inputStuck s i) := by
  unfold inputStuck
  try dsimp only
  repeat' first
    | with_reducible assumption
    | with_reducible apply setBitOf_keeps
    | with_reducible apply setInput_keeps
    | with_reducible apply alertEdge_keeps
    | with_reducible apply fault_keeps
    | split

theorem dampingEnd_keeps {s₀ s : State} (hk : Keeps s₀ s) {i : Sys2Proof.Input} : Keeps s₀ (dampingEnd s i) := by
  unfold dampingEnd
  try dsimp only
  repeat' first
    | with_reducible assumption
    | with_reducible apply setInput_keeps
    | split

theorem deviceLost_keeps {s₀ s : State} (hk : Keeps s₀ s) {n code : Nat} : Keeps s₀ (deviceLost s n code) := by
  unfold deviceLost
  try dsimp only
  repeat' first
    | with_reducible assumption
    | with_reducible apply setBitOf_keeps
    | with_reducible apply fault_keeps
    | with_reducible apply startHandoff_keeps
    | split

theorem trainingDone_keeps {s₀ s : State} (hk : Keeps s₀ s) {n : Nat} {ok stored : Bool} : Keeps s₀ (trainingDone s n ok stored) := by
  unfold trainingDone
  try dsimp only
  repeat' first
    | with_reducible assumption
    | with_reducible apply deviceLost_keeps
    | with_reducible apply setBitOf_keeps
    | split
    | with_reducible rfl
    | (with_reducible refine mk_keeps ?_ ?_ ?_ ?_; first | with_reducible assumption | with_reducible apply deviceLost_keeps | with_reducible apply setBitOf_keeps | split)

theorem memLost_keeps {s₀ s : State} (hk : Keeps s₀ s) {n : Nat} : Keeps s₀ (memLost s n) := by
  unfold memLost
  try dsimp only
  repeat' first
    | with_reducible assumption
    | with_reducible apply deviceLost_keeps
    | split

theorem markingDone_keeps {s₀ s : State} (hk : Keeps s₀ s) {cellar : Bool} : Keeps s₀ (markingDone s cellar) := by
  unfold markingDone
  try dsimp only
  repeat' first
    | with_reducible assumption
    | with_reducible apply setBitOf_keeps
    | with_reducible apply settle_keeps
    | (with_reducible refine forEach_keeps (fun _ _ _ => ?_) ?_)
    | split

theorem evacRestored_keeps {s₀ s : State} (hk : Keeps s₀ s) {i : Nat} : Keeps s₀ (evacRestored s i) := by
  unfold evacRestored
  try dsimp only
  repeat' first
    | with_reducible assumption
    | with_reducible apply setBitOf_keeps
    | with_reducible apply restoreLine_keeps
    | (with_reducible refine forEach_keeps (fun _ _ _ => ?_) ?_)
    | split

theorem flushEgress_keeps {s₀ s : State} (hk : Keeps s₀ s) {eg : Egress} : Keeps s₀ (flushEgress s eg) := by
  unfold flushEgress
  try dsimp only
  repeat' first
    | with_reducible assumption
    | with_reducible apply freeCells_keeps
    | (with_reducible refine forEach_keeps (fun _ _ _ => ?_) ?_)
    | split
    | with_reducible rfl
    | (with_reducible refine mk_keeps ?_ ?_ ?_ ?_; first | with_reducible assumption | with_reducible apply freeCells_keeps | (with_reducible refine forEach_keeps (fun _ _ _ => ?_) ?_) | split)

theorem hallLost_keeps {s₀ s : State} (hk : Keeps s₀ s) : Keeps s₀ { s with hall := {} } :=
  mk_keeps_wf hk id id id id (fun _ => Memory.wf_nil) id (Nat.le_refl _) (List.prefix_refl _)
theorem dieEffects_keeps {s₀ s : State} (hk : Keeps s₀ s) {d : Die} : Keeps s₀ (dieEffects s d) := by
  cases d with
  | hearth => exact wr_keeps (lanesOff_keeps (forEach_keeps (fun _ h _ => leaveService_keeps h) hk))
  | store i => exact startHandoff_keeps (degradeOwned_keeps (forEach_keeps (fun _ h _ => ctxStop_keeps h) hk))
  | hall =>
    refine degradeOwned_keeps (wr_keeps ?_)
    refine mk_keeps (forEach_keeps (fun _ h _ => wr_keeps h) (hallLost_keeps (flushEgress_keeps hk))) rfl rfl rfl
  | port k =>
    have h1 := forEach_keeps (f := fun s p => forEach (lanesOf s p) (portDown s p) laneOff) (xs := portsOnDie s k.val)
      (fun _ h _ => forEach_keeps (fun _ h _ => laneOff_keeps h) (portDown_keeps h)) hk
    unfold dieEffects
    dsimp only
    repeat' first
      | exact h1
      | with_reducible apply setBitOf_keeps
      | with_reducible apply flushEgress_keeps
      | with_reducible apply hostLinkGone_keeps
      | split

theorem dieLost_keeps {s₀ s : State} (hk : Keeps s₀ s) {d : Die} : Keeps s₀ (dieLost s d) := by
  unfold dieLost
  try dsimp only
  repeat' first
    | with_reducible assumption
    | with_reducible apply dieEffects_keeps
    | with_reducible apply updateService_keeps
    | with_reducible apply fault_keeps
    | split
    | with_reducible rfl
    | (with_reducible refine mk_keeps ?_ ?_ ?_ ?_; first | with_reducible assumption | with_reducible apply dieEffects_keeps | with_reducible apply updateService_keeps | with_reducible apply fault_keeps | split)

theorem domainEffects_keeps {s₀ s : State} (hk : Keeps s₀ s) {d : Domain} : Keeps s₀ (domainEffects s d) := by
  unfold domainEffects
  try dsimp only
  repeat' first
    | with_reducible assumption
    | with_reducible apply freeCells_keeps
    | with_reducible apply noteHeld_keeps
    | with_reducible apply setHall_keeps
    | with_reducible apply setHctx_keeps
    | with_reducible apply flushEgress_keeps
    | with_reducible apply hostLinkGone_keeps
    | with_reducible apply lossOfLock_keeps
    | with_reducible apply noteHome_keeps
    | with_reducible apply retrain_keeps
    | with_reducible apply setFld_keeps
    | with_reducible apply noteArray_keeps
    | with_reducible apply setWState_keeps
    | with_reducible rfl
    | (with_reducible refine forEach_keeps (fun _ _ _ => ?_) ?_)
    | split
    | with_reducible rfl
    | (with_reducible refine mk_keeps ?_ ?_ ?_ ?_; first | with_reducible assumption | with_reducible apply freeCells_keeps | with_reducible apply noteHeld_keeps | with_reducible apply setHall_keeps | with_reducible apply setHctx_keeps | with_reducible apply flushEgress_keeps | with_reducible apply hostLinkGone_keeps | with_reducible apply lossOfLock_keeps | with_reducible apply noteHome_keeps | with_reducible apply retrain_keeps | with_reducible apply setFld_keeps | with_reducible apply noteArray_keeps | with_reducible apply setWState_keeps | with_reducible rfl | (with_reducible refine forEach_keeps (fun _ _ _ => ?_) ?_) | split)

theorem domainReset_keeps {s₀ s : State} (hk : Keeps s₀ s) {d : Domain} : Keeps s₀ (domainReset s d) := by
  unfold domainReset
  try dsimp only
  repeat' first
    | with_reducible assumption
    | with_reducible apply setPwr_keeps
    | with_reducible apply fault_keeps
    | with_reducible apply domainEffects_keeps
    | split

theorem crossingResume_keeps {s₀ s : State} (hk : Keeps s₀ s) {d : Domain} : Keeps s₀ (crossingResume s d) := by
  unfold crossingResume
  try dsimp only
  repeat' first
    | with_reducible assumption
    | with_reducible apply setPwr_keeps
    | with_reducible apply hallKick_keeps
    | split

theorem notePhase_keeps {s₀ s : State} (hk : Keeps s₀ s) {n : Nat} : Keeps s₀ (notePhase s n) := by
  unfold notePhase
  try dsimp only
  repeat' first
    | with_reducible assumption
    | with_reducible apply setFld_keeps
    | with_reducible apply wr_keeps
    | split

theorem aliasCheck_keeps {s₀ s : State} (hk : Keeps s₀ s) : Keeps s₀ (aliasCheck s) := by
  unfold aliasCheck
  try dsimp only
  repeat' first
    | with_reducible assumption
    | with_reducible apply setPwr_keeps
    | with_reducible apply setBitOf_keeps
    | with_reducible apply takeFree_keeps
    | (with_reducible refine forEach_keeps (fun _ _ _ => ?_) ?_)
    | split

theorem startServing_keeps {s₀ s : State} (hk : Keeps s₀ s) : Keeps s₀ (startServing s) := by
  unfold startServing
  try dsimp only
  repeat' first
    | with_reducible assumption
    | with_reducible apply aliasCheck_keeps
    | with_reducible apply notePhase_keeps
    | with_reducible apply fault0_keeps
    | with_reducible apply setPwr_keeps
    | with_reducible apply partitionEnters_keeps
    | with_reducible apply alertEdge_keeps
    | with_reducible apply setTwin_keeps
    | with_reducible apply updateService_keeps
    | with_reducible apply wr_keeps
    | with_reducible apply startProbation_keeps
    | (with_reducible refine forEach_keeps (fun _ _ _ => ?_) ?_)
    | split

theorem phaseEnd_keeps {s₀ s : State} (hk : Keeps s₀ s) : Keeps s₀ (phaseEnd s) := by
  unfold phaseEnd
  try dsimp only
  repeat' first
    | with_reducible assumption
    | with_reducible apply readConfig_keeps
    | with_reducible apply bringUpPort_keeps
    | with_reducible apply notePhase_keeps
    | with_reducible apply setPwr_keeps
    | with_reducible apply setBitOf_keeps
    | with_reducible apply chooseClasp_keeps
    | with_reducible apply startServing_keeps
    | with_reducible apply wr_keeps
    | with_reducible apply sendDigest_keeps
    | (with_reducible refine forEach_keeps (fun _ _ _ => ?_) ?_)
    | split

theorem startupLate_keeps {s₀ s : State} (hk : Keeps s₀ s) : Keeps s₀ (startupLate s) := by
  unfold startupLate
  try dsimp only
  repeat' first
    | with_reducible assumption
    | with_reducible apply fault0_keeps
    | with_reducible apply setPwr_keeps
    | split

end Sys2Proof.Machine
end

