-- ==== Sys2Proof/Laws/KeepsEvents.lean ====
section
/-! SUPPORT. Keeps, function by function: events of lanes and ports, counters, register accesses, responses, arrivals. -/

set_option linter.unusedTactic false
set_option linter.unreachableTactic false
set_option linter.unusedVariables false

namespace Sys2Proof.Machine

theorem codeword_keeps {s₀ s : State} (hk : Keeps s₀ s) {n errs : Nat} {corrects : Bool} : Keeps s₀ (codeword s n errs corrects) := by
  unfold codeword
  try dsimp only
  repeat' first
    | with_reducible assumption
    | with_reducible apply lnkEv_keeps
    | with_reducible apply bump64_keeps
    | split

theorem decodePair_keeps {s₀ s : State} (hk : Keeps s₀ s) {n errA errB : Nat} {burst : Bool} : Keeps s₀ (decodePair s n errA errB burst) := by
  unfold decodePair
  try dsimp only
  repeat' first
    | with_reducible assumption
    | with_reducible apply codeword_keeps
    | split

theorem setLock_keeps {s₀ s : State} (hk : Keeps s₀ s) {n b : Nat} : Keeps s₀ (setLock s n b) := by
  unfold setLock
  try dsimp only
  repeat' first
    | with_reducible assumption
    | with_reducible apply setBitOf_keeps
    | split

theorem fecLocked_keeps {s₀ s : State} (hk : Keeps s₀ s) {n : Nat} : Keeps s₀ (fecLocked s n) := by
  unfold fecLocked
  try dsimp only
  repeat' first
    | with_reducible assumption
    | with_reducible apply setLock_keeps
    | with_reducible apply setLane_keeps
    | split

theorem blockLocked_keeps {s₀ s : State} (hk : Keeps s₀ s) {n : Nat} : Keeps s₀ (blockLocked s n) := by
  unfold blockLocked
  try dsimp only
  repeat' first
    | with_reducible assumption
    | with_reducible apply setLock_keeps
    | split

theorem sfLocked_keeps {s₀ s : State} (hk : Keeps s₀ s) {n : Nat} : Keeps s₀ (sfLocked s n) := by
  unfold sfLocked
  try dsimp only
  repeat' first
    | with_reducible assumption
    | with_reducible apply setLock_keeps
    | with_reducible apply enterPhase_keeps
    | split

theorem losesLock_keeps {s₀ s : State} (hk : Keeps s₀ s) {n : Nat} : Keeps s₀ (losesLock s n) := by
  unfold losesLock
  try dsimp only
  repeat' first
    | with_reducible assumption
    | with_reducible apply lossOfLock_keeps
    | split

theorem quarReceived_keeps {s₀ s : State} (hk : Keeps s₀ s) {n secs : Nat} : Keeps s₀ (quarReceived s n secs) := by
  unfold quarReceived
  try dsimp only
  repeat' first
    | with_reducible assumption
    | with_reducible apply laneLeaves_keeps
    | with_reducible apply enterPhase_keeps
    | with_reducible apply setLane_keeps
    | with_reducible apply clearLocks_keeps
    | with_reducible apply setLaneState_keeps
    | split

theorem quarantineEnds_keeps {s₀ s : State} (hk : Keeps s₀ s) {n : Nat} : Keeps s₀ (quarantineEnds s n) := by
  unfold quarantineEnds
  try dsimp only
  repeat' first
    | with_reducible assumption
    | with_reducible apply setLaneState_keeps
    | with_reducible apply startDetect_keeps
    | split

theorem levelReset_keeps {s₀ s : State} (hk : Keeps s₀ s) {n : Nat} : Keeps s₀ (levelReset s n) := by
  unfold levelReset
  try dsimp only
  repeat' first
    | with_reducible assumption
    | with_reducible apply setFld_keeps
    | split

theorem laneDetected_keeps {s₀ s : State} (hk : Keeps s₀ s) {n : Nat} : Keeps s₀ (laneDetected s n) := by
  unfold laneDetected
  try dsimp only
  repeat' first
    | with_reducible assumption
    | with_reducible apply startStep_keeps
    | with_reducible apply setLane_keeps
    | split

theorem capSets_keeps {s₀ s : State} (hk : Keeps s₀ s) {n : Nat} {a b : BitVec 384} : Keeps s₀ (capSets s n a b) := by
  unfold capSets
  try dsimp only
  repeat' first
    | with_reducible assumption
    | with_reducible apply acceptCap_keeps
    | split

theorem equalised_keeps {s₀ s : State} (hk : Keeps s₀ s) {n : Nat} : Keeps s₀ (equalised s n) := by
  unfold equalised
  try dsimp only
  repeat' first
    | with_reducible assumption
    | with_reducible apply stepCompleted_keeps
    | split

theorem verified_keeps {s₀ s : State} (hk : Keeps s₀ s) {n : Nat} {ok : Bool} : Keeps s₀ (verified s n ok) := by
  unfold verified
  try dsimp only
  repeat' first
    | with_reducible assumption
    | with_reducible apply stepCompleted_keeps
    | with_reducible apply enterPhase_keeps
    | split

theorem phaseTimeout_keeps {s₀ s : State} (hk : Keeps s₀ s) {n : Nat} : Keeps s₀ (phaseTimeout s n) := by
  unfold phaseTimeout
  try dsimp only
  repeat' first
    | with_reducible assumption
    | with_reducible apply phaseTimesOut_keeps
    | split

theorem stepAdvances_keeps {s₀ s : State} (hk : Keeps s₀ s) {n : Nat} : Keeps s₀ (stepAdvances s n) := by
  unfold stepAdvances
  try dsimp only
  repeat' first
    | with_reducible assumption
    | with_reducible apply startStep_keeps
    | with_reducible apply setLane_keeps
    | split

theorem laneRestarts_keeps {s₀ s : State} (hk : Keeps s₀ s) {n : Nat} : Keeps s₀ (laneRestarts s n) := by
  unfold laneRestarts
  try dsimp only
  repeat' first
    | with_reducible assumption
    | with_reducible apply startDetect_keeps
    | split

theorem laneServes_keeps {s₀ s : State} (hk : Keeps s₀ s) {n : Nat} : Keeps s₀ (laneServes s n) := by
  unfold laneServes
  try dsimp only
  repeat' first
    | with_reducible assumption
    | with_reducible apply setLane_keeps
    | with_reducible apply setLaneState_keeps
    | split

theorem twinArrives_keeps {s₀ s : State} (hk : Keeps s₀ s) {was : Bool} : Keeps s₀ (twinArrives s was) := by
  unfold twinArrives
  try dsimp only
  repeat' first
    | with_reducible assumption
    | with_reducible apply twinLocketSend_keeps
    | with_reducible apply noteActivePath_keeps
    | with_reducible apply setTwin_keeps
    | with_reducible apply chooseTwinPort_keeps
    | with_reducible apply startResync_keeps
    | split

theorem routePort_keeps {s₀ s : State} (hk : Keeps s₀ s) {p : Nat} : Keeps s₀ (routePort s p) := by
  unfold routePort
  try dsimp only
  repeat' first
    | with_reducible assumption
    | with_reducible apply routeAdd_keeps
    | with_reducible apply setBitOf_keeps
    | split
    | with_reducible rfl
    | (with_reducible refine mk_keeps ?_ ?_ ?_ ?_; first | with_reducible assumption | with_reducible apply routeAdd_keeps | with_reducible apply setBitOf_keeps | split)

theorem enterService_keeps {s₀ s : State} (hk : Keeps s₀ s) {p : Nat} {ls : List Nat} : Keeps s₀ (enterService s p ls) := by
  unfold enterService
  try dsimp only
  repeat' first
    | with_reducible assumption
    | with_reducible apply routePort_keeps
    | with_reducible apply twinArrives_keeps
    | with_reducible apply laneServes_keeps
    | with_reducible apply setLink_keeps
    | with_reducible apply setFld_keeps
    | with_reducible apply updateService_keeps
    | with_reducible apply wr_keeps
    | (with_reducible refine forEach_keeps (fun _ _ _ => ?_) ?_)
    | split

theorem checked_keeps {s₀ s : State} (hk : Keeps s₀ s) {p skew : Nat} : Keeps s₀ (checked s p skew) := by
  unfold checked
  try dsimp only
  repeat' first
    | with_reducible assumption
    | with_reducible apply setLink_keeps
    | with_reducible apply setFld_keeps
    | with_reducible apply miswire_keeps
    | with_reducible apply enterService_keeps
    | split

theorem checkingAgain_keeps {s₀ s : State} (hk : Keeps s₀ s) {p : Nat} : Keeps s₀ (checkingAgain s p) := by
  unfold checkingAgain
  try dsimp only
  repeat' first
    | with_reducible assumption
    | with_reducible apply setLink_keeps
    | with_reducible apply setFld_keeps
    | with_reducible apply startDetect_keeps
    | (with_reducible refine forEach_keeps (fun _ _ _ => ?_) ?_)
    | split

theorem manualWritten_keeps {s₀ s : State} (hk : Keeps s₀ s) {n : Nat} {on : Bool} : Keeps s₀ (manualWritten s n on) := by
  unfold manualWritten
  try dsimp only
  repeat' first
    | with_reducible assumption
    | with_reducible apply setBitOf_keeps
    | with_reducible apply setLane_keeps
    | with_reducible apply setFld_keeps
    | split

theorem slipWritten_keeps {s₀ s : State} (hk : Keeps s₀ s) {n : Nat} : Keeps s₀ (slipWritten s n) := by
  unfold slipWritten
  try dsimp only
  repeat' first
    | with_reducible assumption
    | with_reducible apply setBitOf_keeps
    | with_reducible apply setFld_keeps
    | split

theorem manualTimeout_keeps {s₀ s : State} (hk : Keeps s₀ s) {n : Nat} : Keeps s₀ (manualTimeout s n) := by
  unfold manualTimeout
  try dsimp only
  repeat' first
    | with_reducible assumption
    | with_reducible apply phaseTimesOut_keeps
    | split

theorem setTxIdle_keeps {s₀ s : State} (hk : Keeps s₀ s) {p : Nat} {b : Bool} : Keeps s₀ (setTxIdle s p b) := by
  unfold setTxIdle
  try dsimp only
  repeat' first
    | with_reducible assumption
    | with_reducible apply setBitOf_keeps
    | split

theorem idleEnters_keeps {s₀ s : State} (hk : Keeps s₀ s) {p : Nat} : Keeps s₀ (idleEnters s p) := by
  unfold idleEnters
  try dsimp only
  repeat' first
    | with_reducible assumption
    | with_reducible apply setTxIdle_keeps
    | with_reducible apply setLink_keeps
    | with_reducible apply lnkEv_keeps
    | with_reducible apply emit_keeps
    | with_reducible apply sendBlock_keeps
    | (with_reducible refine forEach_keeps (fun _ _ _ => ?_) ?_)
    | split

theorem noteRxIdle_keeps {s₀ s : State} (hk : Keeps s₀ s) {p : Nat} : Keeps s₀ (noteRxIdle s p) := by
  unfold noteRxIdle
  try dsimp only
  repeat' first
    | with_reducible assumption
    | with_reducible apply setBitOf_keeps
    | split

theorem idleHeard_keeps {s₀ s : State} (hk : Keeps s₀ s) {n : Nat} : Keeps s₀ (idleHeard s n) := by
  unfold idleHeard
  try dsimp only
  repeat' first
    | with_reducible assumption
    | with_reducible apply noteRxIdle_keeps
    | with_reducible apply setBitOf_keeps
    | with_reducible apply setLane_keeps
    | with_reducible apply setLaneState_keeps
    | split

theorem idleExits_keeps {s₀ s : State} (hk : Keeps s₀ s) {p : Nat} : Keeps s₀ (idleExits s p) := by
  unfold idleExits
  try dsimp only
  repeat' first
    | with_reducible assumption
    | with_reducible apply setTxIdle_keeps
    | with_reducible apply setLink_keeps
    | with_reducible apply emit_keeps
    | with_reducible apply sendBlock_keeps
    | (with_reducible refine forEach_keeps (fun _ _ _ => ?_) ?_)
    | split

theorem burstHeard_keeps {s₀ s : State} (hk : Keeps s₀ s) {n : Nat} : Keeps s₀ (burstHeard s n) := by
  unfold burstHeard
  try dsimp only
  repeat' first
    | with_reducible assumption
    | with_reducible apply noteRxIdle_keeps
    | with_reducible apply setLane_keeps
    | with_reducible apply setLaneState_keeps
    | with_reducible apply wakeRun_keeps
    | split

theorem idleExitFails_keeps {s₀ s : State} (hk : Keeps s₀ s) {n : Nat} : Keeps s₀ (idleExitFails s n) := by
  unfold idleExitFails
  try dsimp only
  repeat' first
    | with_reducible assumption
    | with_reducible apply lnkEv_keeps
    | with_reducible apply lossOfLock_keeps
    | with_reducible apply setLane_keeps
    | with_reducible apply portEvent_keeps
    | split

theorem widthHeard_keeps {s₀ s : State} (hk : Keeps s₀ s) {p : Nat} {sq mask : Byte} {boundary : BitVec 24} : Keeps s₀ (widthHeard s p sq mask boundary) := by
  unfold widthHeard
  try dsimp only
  repeat' first
    | with_reducible assumption
    | with_reducible apply setLink_keeps
    | with_reducible apply announceWidth_keeps
    | split

theorem applyMask_keeps {s₀ s : State} (hk : Keeps s₀ s) {p mask : Nat} : Keeps s₀ (applyMask s p mask) := by
  unfold applyMask
  try dsimp only
  repeat' first
    | with_reducible assumption
    | with_reducible apply noteRxIdle_keeps
    | with_reducible apply laneServes_keeps
    | with_reducible apply lnkEv_keeps
    | with_reducible apply setFld_keeps
    | with_reducible apply portEvent_keeps
    | with_reducible apply setLaneState_keeps
    | with_reducible apply portFault_keeps
    | (with_reducible refine forEach_keeps (fun _ _ _ => ?_) ?_)
    | split

theorem widthApplies_keeps {s₀ s : State} (hk : Keeps s₀ s) {p : Nat} : Keeps s₀ (widthApplies s p) := by
  unfold widthApplies
  try dsimp only
  repeat' first
    | with_reducible assumption
    | with_reducible apply portDown_keeps
    | with_reducible apply applyMask_keeps
    | with_reducible apply setLink_keeps
    | split

theorem twinReturns_keeps {s₀ s : State} (hk : Keeps s₀ s) : Keeps s₀ (twinReturns s) := by
  unfold twinReturns
  try dsimp only
  repeat' first
    | with_reducible assumption
    | with_reducible apply setFld_keeps
    | split

theorem eyeSearched_keeps {s₀ s : State} (hk : Keeps s₀ s) {n width height eye : Nat} : Keeps s₀ (eyeSearched s n width height eye) := by
  unfold eyeSearched
  try dsimp only
  repeat' first
    | with_reducible assumption
    | with_reducible apply wr_keeps
    | with_reducible apply marginWarn_keeps
    | split

theorem eyeCounted_keeps {s₀ s : State} (hk : Keeps s₀ s) {n count : Nat} : Keeps s₀ (eyeCounted s n count) := by
  unfold eyeCounted
  try dsimp only
  repeat' first
    | with_reducible assumption
    | with_reducible apply wr64_keeps
    | with_reducible apply setBitOf_keeps
    | split

theorem opticalRead_keeps {s₀ s : State} (hk : Keeps s₀ s) {n rx oma bias laser : Nat} : Keeps s₀ (opticalRead s n rx oma bias laser) := by
  unfold opticalRead
  try dsimp only
  repeat' first
    | with_reducible assumption
    | with_reducible apply wr_keeps
    | with_reducible apply marginWarn_keeps
    | split

theorem droopSeen_keeps {s₀ s : State} (hk : Keeps s₀ s) {d i mv margin : Nat} : Keeps s₀ (droopSeen s d i mv margin) := by
  unfold droopSeen
  try dsimp only
  repeat' first
    | with_reducible assumption
    | with_reducible apply wr_keeps
    | with_reducible apply marginWarn_keeps
    | split

theorem setCnt_keeps {s₀ s : State} (hk : Keeps s₀ s) {c : Counters} (he : c.ev = s.cnt.ev) : Keeps s₀ (setCnt s c) :=
  mk_keeps hk rfl rfl he

theorem latchView_keeps {s₀ s : State} (hk : Keeps s₀ s) {p : Path} {i : Nat} {v st : Nat} : Keeps s₀ (latchView s p i v st) := by
  unfold latchView
  try dsimp only
  repeat' first
    | with_reducible assumption
    | with_reducible apply setCnt_keeps
    | with_reducible rfl
    | split

theorem liveRead_keeps {s₀ s : State} (hk : Keeps s₀ s) {p : Path} {i : Nat} : Keeps s₀ (liveRead s p i).2 := by
  unfold liveRead
  try dsimp only
  repeat' first
    | with_reducible assumption
    | with_reducible apply latchView_keeps
    | with_reducible apply countGap_keeps
    | split
theorem liveRead_keeps_eq {s₀ s : State} (hk : Keeps s₀ s) {p : Path} {i : Nat} {x0 x1} (heq : liveRead s p i = (x0, x1)) : Keeps s₀ x1 := by
  have := liveRead_keeps (s₀ := s₀) (s := s) hk (p := p) (i := i)
  rw [heq] at this; exact this

theorem takeLatch_keeps_eq {s₀ s : State} (hk : Keeps s₀ s) {p : Path} {off : Nat} {v : Nat} {t : State}
    (heq : takeLatch s p off = some (v, t)) : Keeps s₀ t := by
  unfold takeLatch at heq
  split at heq
  · obtain ⟨-, rfl⟩ := Prod.mk.inj (Option.some.inj heq)
    exact setCnt_keeps hk rfl
  · exact absurd heq (by simp)

theorem zeroEvent_keeps {s₀ s : State} (hk : Keeps s₀ s) {n : Nat} : Keeps s₀ (zeroEvent s n) := by
  unfold zeroEvent
  try dsimp only
  repeat' first
    | with_reducible assumption
    | with_reducible apply setBitOf_keeps
    | with_reducible apply evSet_keeps
    | split

theorem clearNow_keeps {s₀ s : State} (hk : Keeps s₀ s) {n : Nat} : Keeps s₀ (clearNow s n) := by
  unfold clearNow
  try dsimp only
  repeat' first
    | with_reducible assumption
    | with_reducible apply zeroEvent_keeps
    | split

theorem chainNow_keeps {s₀ s : State} (hk : Keeps s₀ s) {k : Nat} {on : Bool} : Keeps s₀ (chainNow s k on) := by
  unfold chainNow
  try dsimp only
  repeat' first
    | with_reducible assumption
    | with_reducible apply setBitOf_keeps
    | with_reducible apply evSet_keeps
    | split

theorem cntOp_keeps {s₀ s : State} (hk : Keeps s₀ s) {o : HeldOp} : Keeps s₀ (cntOp s o) := by
  unfold cntOp
  try dsimp only
  repeat' first
    | with_reducible assumption
    | with_reducible apply clearNow_keeps
    | with_reducible apply setCnt_keeps
    | with_reducible apply chainNow_keeps
    | with_reducible rfl
    | split

theorem setCnt_keeps_wf {s₀ s : State} (hk : Keeps s₀ s) {c : Counters}
    (he : swf (fun _ => (0 : BitVec 48)) s.cnt.ev = true → swf (fun _ => (0 : BitVec 48)) c.ev = true) : Keeps s₀ (setCnt s c) :=
  mk_keeps_wf hk id id id id id he (Nat.le_refl _) (List.prefix_refl _)
theorem clearEvery_keeps {s₀ s : State} (hk : Keeps s₀ s) : Keeps s₀ (clearEvery s) := by
  unfold clearEvery
  dsimp only
  refine forEach_keeps (fun _ h _ => cntOp_keeps (cntOp_keeps h)) (forEach_keeps (fun _ h _ => ?_)
    (setCnt_keeps_wf (countGap_keeps hk) (fun k => swf_filter _ _ k)))
  split
  · exact forEach_keeps (fun _ h _ => setBitOf_keeps h) h
  · exact wr_keeps h

theorem chainWrite_keeps {s₀ s : State} (hk : Keeps s₀ s) {w v : Nat} : Keeps s₀ (chainWrite s w v) := by
  unfold chainWrite
  try dsimp only
  repeat' first
    | with_reducible assumption
    | with_reducible apply cntOp_keeps
    | (with_reducible refine forEach_keeps (fun _ _ _ => ?_) ?_)
    | split

theorem snapSlot_keeps {s₀ s : State} (hk : Keeps s₀ s) {i stamp : Nat} : Keeps s₀ (snapSlot s i stamp) := by
  unfold snapSlot
  try dsimp only
  repeat' first
    | with_reducible assumption
    | with_reducible apply setBitOf_keeps
    | with_reducible apply setCnt_keeps
    | with_reducible rfl
    | (with_reducible refine event_keeps (fun _ _ => ?_) ?_)
    | split

theorem snapWrite_keeps {s₀ s : State} (hk : Keeps s₀ s) {p : Path} {mask : Nat} : Keeps s₀ (snapWrite s p mask) := by
  unfold snapWrite
  try dsimp only
  repeat' first
    | with_reducible assumption
    | with_reducible apply snapSlot_keeps
    | with_reducible apply takeFree_keeps
    | (with_reducible refine forEach_keeps (fun _ _ _ => ?_) ?_)
    | split

theorem releaseHeldOps_keeps {s₀ s : State} (hk : Keeps s₀ s) : Keeps s₀ (releaseHeldOps s) := by
  unfold releaseHeldOps
  try dsimp only
  repeat' first
    | with_reducible assumption
    | with_reducible apply setCnt_keeps
    | with_reducible apply cntOp_keeps
    | with_reducible rfl
    | (with_reducible refine forEach_keeps (fun _ _ _ => ?_) ?_)
    | split

theorem captureDue_keeps {s₀ s : State} (hk : Keeps s₀ s) : Keeps s₀ (captureDue s) := by
  unfold captureDue
  try dsimp only
  repeat' first
    | with_reducible assumption
    | with_reducible apply taken_keeps
    | with_reducible apply setCnt_keeps
    | with_reducible apply releaseHeldOps_keeps
    | with_reducible apply countGap_keeps
    | with_reducible rfl
    | (with_reducible refine event_keeps (fun _ _ => ?_) ?_)
    | split

theorem snapDone_keeps {s₀ s : State} (hk : Keeps s₀ s) {i : Nat} : Keeps s₀ (snapDone s i) := by
  unfold snapDone
  try dsimp only
  repeat' first
    | with_reducible assumption
    | with_reducible apply taken_keeps
    | with_reducible apply wr64_keeps
    | with_reducible apply captureDue_keeps
    | with_reducible apply setCnt_keeps
    | with_reducible apply wr_keeps
    | with_reducible rfl
    | (with_reducible refine event_keeps (fun _ _ => ?_) ?_)
    | split

theorem readWord_keeps {s₀ s : State} (hk : Keeps s₀ s) {p : Path} {off : Nat} : Keeps s₀ (readWord s p off).2.1 := by
  unfold readWord
  dsimp only
  repeat' first
    | with_reducible assumption
    | exact accessErr_keeps hk
    | exact liveRead_keeps hk
    | exact takeLatch_keeps_eq hk ‹_›
    | exact countGap_keeps hk
    | exact setPwr_keeps hk
    | split

theorem readWide_keeps {s₀ s : State} (hk : Keeps s₀ s) {p : Path} {off : Nat} {r : RegRow} : Keeps s₀ (readWide s p off r).2.1 := by
  unfold readWide
  try dsimp only
  repeat' first
    | with_reducible assumption
    | with_reducible apply accessErr_keeps
    | with_reducible apply liveRead_keeps
    | with_reducible apply countGap_keeps
    | (with_reducible refine liveRead_keeps_eq ?_ (by assumption))
    | split
theorem readWide_keeps_eq {s₀ s : State} (hk : Keeps s₀ s) {p : Path} {off : Nat} {r : RegRow} {x0 x1 x2} (heq : readWide s p off r = (x0, x1, x2)) : Keeps s₀ x1 := by
  have := readWide_keeps (s₀ := s₀) (s := s) hk (p := p) (off := off) (r := r)
  rw [heq] at this; exact this

theorem mrsRead_keeps {s₀ s : State} (hk : Keeps s₀ s) {p : Path} {off size : Nat} : Keeps s₀ (mrsRead s p off size).2.1 := by
  unfold mrsRead
  split
  · exact hk
  · split
    · exact accessErr_keeps hk
    · split
      · exact readWord_keeps hk
      · split
        · exact readWide_keeps hk
        · have h1 := readWord_keeps hk (p := p) (off := off)
          generalize readWord s p off = a at h1 ⊢
          have h2 := readWord_keeps h1 (p := p) (off := off + 4)
          dsimp only
          generalize readWord a.2.1 p (off + 4) = b at h2 ⊢
          exact h2

theorem cfgCmd_keeps {s₀ s : State} (hk : Keeps s₀ s) {v : Nat} : Keeps s₀ (cfgCmd s v) := by
  unfold cfgCmd
  try dsimp only
  repeat' first
    | with_reducible assumption
    | with_reducible apply summaryCmd_keeps
    | with_reducible apply confirmCmd_keeps
    | with_reducible apply returnCmd_keeps
    | with_reducible apply commitCmd_keeps
    | with_reducible apply stageCmd_keeps
    | with_reducible apply stageFwCmd_keeps
    | split

theorem pwrCmd_keeps {s₀ s : State} (hk : Keeps s₀ s) {i3c : Bool} {v : Nat} : Keeps s₀ (pwrCmd s i3c v) := by
  unfold pwrCmd
  try dsimp only
  repeat' first
    | with_reducible assumption
    | with_reducible apply cmdRun_keeps
    | with_reducible apply requestReset_keeps
    | with_reducible apply startEntry_keeps
    | with_reducible apply wakeRun_keeps
    | split

theorem cntCmd_keeps {s₀ s : State} (hk : Keeps s₀ s) {p : Path} {v : Nat} : Keeps s₀ (cntCmd s p v) := by
  unfold cntCmd
  try dsimp only
  repeat' first
    | with_reducible assumption
    | with_reducible apply cntOp_keeps
    | with_reducible apply clearEvery_keeps
    | with_reducible apply countGap_keeps
    | split

theorem alignWrite_keeps {s₀ s : State} (hk : Keeps s₀ s) {n v : Nat} : Keeps s₀ (alignWrite s n v) := by
  unfold alignWrite
  try dsimp only
  repeat' first
    | with_reducible assumption
    | with_reducible apply slipWritten_keeps
    | with_reducible apply setBitOf_keeps
    | with_reducible apply manualWritten_keeps
    | split

theorem secCmd_keeps {s₀ s : State} (hk : Keeps s₀ s) {p : Path} {w v : Nat} : Keeps s₀ (secCmd s p w v) := by
  unfold secCmd
  try dsimp only
  repeat' first
    | with_reducible assumption
    | with_reducible apply windowCmd_keeps
    | split

/-- An optional state, if there is one, is kept to. -/
def KeepsIf (s₀ : State) (o : Option State) : Prop := ∀ t, o = some t → Keeps s₀ t
theorem KeepsIf.some {s₀ t : State} (h : Keeps s₀ t) : KeepsIf s₀ (Option.some t) := fun _ e => Option.some.inj e ▸ h
theorem KeepsIf.none {s₀ : State} : KeepsIf s₀ Option.none := fun _ e => absurd e (by simp)
theorem KeepsIf.ite {s₀ : State} {c : Prop} [Decidable c] {a b : Option State} (ha : KeepsIf s₀ a) (hb : KeepsIf s₀ b) :
    KeepsIf s₀ (if c then a else b) := by
  split
  · exact ha
  · exact hb
theorem commandWrite_keepsIf {s₀ s : State} (hk : Keeps s₀ s) {p : Path} {is : List Nat} {base w n v : Nat} :
    KeepsIf s₀ (commandWrite s p is base w n v) := by
  unfold commandWrite
  dsimp only
  refine .ite (.some (cfgCmd_keeps hk)) ?_
  refine .ite (.some (capWritten_keeps hk)) ?_
  refine .ite (.some (pwrCmd_keeps hk)) ?_
  refine .ite (.some (halSemAdd_keeps (wakeRun_keeps hk))) ?_
  refine .ite (.some (ctxListWrite_keeps hk)) ?_
  refine .ite (.some ?_) ?_
  · repeat' first
      | with_reducible assumption
      | with_reducible apply ctxStart_keeps
      | with_reducible apply ctxStop_keeps
      | split
  refine .ite (.some (ringTailWrite_keeps hk)) ?_
  refine .ite (.some (by split <;> first | exact queuePop_keeps hk | exact hk)) ?_
  refine .ite (.some (by split <;> first | exact ovfClear_keeps hk | exact hk)) ?_
  refine .ite (.some (by split <;> first | exact startHandoff_keeps hk | exact hk)) ?_
  refine .ite (.some (secCmd_keeps hk)) ?_
  refine .ite (.some (by split <;> first | exact snapWrite_keeps hk | exact hk)) ?_
  refine .ite (.some (cntCmd_keeps hk)) ?_
  refine .ite (.some (chainWrite_keeps (countGap_keeps hk))) ?_
  refine .ite (.some (by split <;> first | exact fnFence_keeps hk | exact hk)) ?_
  refine .ite (.some (noteTail_keeps hk)) ?_
  refine .ite (.some (apBaseWrite_keeps hk)) ?_
  refine .ite (.some (apCtrlWrite_keeps hk)) ?_
  split
  · exact .some (by split <;> first | exact retrain_keeps hk | exact hk)
  · exact .some (alignWrite_keeps hk)
  · refine .ite (.some (by split <;> first | exact wr_keeps hk | exact hk)) .none

theorem afterStore_keeps {s₀ s : State} (hk : Keeps s₀ s) {off v : Nat} : Keeps s₀ (afterStore s off v) := by
  unfold afterStore
  try dsimp only
  repeat' first
    | with_reducible assumption
    | with_reducible apply setBitOf_keeps
    | with_reducible apply msixHoldoff_keeps
    | split

theorem storeField_keeps {s₀ s : State} (hk : Keeps s₀ s) {off : Nat} {f : FieldRow} {x : Nat} : Keeps s₀ (storeField s off f x) := by
  unfold storeField
  try dsimp only
  repeat' first
    | with_reducible assumption
    | with_reducible apply setBitOf_keeps
    | with_reducible apply setFld_keeps
    | split

theorem writeRun_keeps {s₀ s : State} (hk : Keeps s₀ s) {p : Path} {off n v : Nat} {is : List Nat} {w : Nat}
    {fs : List (FieldRow × Nat)} : Keeps s₀ (writeReg.run s p off n v is w fs) := by
  unfold writeReg.run
  have h1 : Keeps s₀ (if reservedIn off fs v then accessErr s p off 4 else s) := by
    split
    · exact accessErr_keeps hk
    · exact hk
  generalize (if reservedIn off fs v then accessErr s p off 4 else s) = t at h1 ⊢
  dsimp only
  split
  · exact commandWrite_keepsIf h1 _ ‹_›
  · refine afterStore_keeps (forEach_keeps (fun _ h _ => ?_) h1)
    split
    · exact storeField_keeps h
    · exact h
theorem writeReg_keeps {s₀ s : State} (hk : Keeps s₀ s) {p : Path} {off n v : Nat} : Keeps s₀ (writeReg s p off n v).1 := by
  unfold writeReg
  dsimp only
  repeat' first
    | with_reducible assumption
    | exact accessErr_keeps hk
    | exact setBitOf_keeps hk
    | exact writeRun_keeps hk
    | split

theorem mrsWrite_keeps {s₀ s : State} (hk : Keeps s₀ s) {p : Path} {off size v : Nat} : Keeps s₀ (mrsWrite s p off size v).1 := by
  unfold mrsWrite
  split
  · exact hk
  · split
    · exact accessErr_keeps hk
    · split
      · exact writeReg_keeps hk
      · split
        · exact writeReg_keeps hk
        · exact writeReg_keeps (writeReg_keeps hk)

theorem hostTouch_keeps {s₀ s : State} (hk : Keeps s₀ s) {p : Path} : Keeps s₀ (hostTouch s p) := by
  unfold hostTouch
  try dsimp only
  repeat' first
    | with_reducible assumption
    | with_reducible apply hostBusy_keeps
    | with_reducible apply wakeRun_keeps
    | split

theorem onPath_keeps {s₀ s : State} {p : Path} {f : State → State} (hf : ∀ s, Keeps s₀ s → Keeps s₀ (f s)) (hk : Keeps s₀ s) :
    Keeps s₀ (onPath s p f) := by
  unfold onPath
  split
  · exact hf _ (hostTouch_keeps hk)
  · exact hk

theorem pathWrite_keeps {s₀ s : State} (hk : Keeps s₀ s) {p : Path} {off size v : Nat} : Keeps s₀ (pathWrite s p off size v) := by
  unfold pathWrite
  try dsimp only
  repeat' first
    | with_reducible assumption
    | with_reducible apply mrsWrite_keeps
    | (with_reducible refine mrsWrite_keeps_eq ?_ (by assumption))
    | (with_reducible refine onPath_keeps (fun _ _ => ?_) ?_)
    | split

theorem pathRead_keeps {s₀ s : State} (hk : Keeps s₀ s) {p : Path} {off size : Nat} : Keeps s₀ (pathRead s p off size) := by
  unfold pathRead
  try dsimp only
  repeat' first
    | with_reducible assumption
    | with_reducible apply mrsRead_keeps
    | with_reducible apply emit_keeps
    | (with_reducible refine mrsRead_keeps_eq ?_ (by assumption))
    | (with_reducible refine onPath_keeps (fun _ _ => ?_) ?_)
    | split

theorem takeInbox_keeps {s₀ s : State} (hk : Keeps s₀ s) {d : Delivered} : Keeps s₀ (takeInbox s d) := by
  unfold takeInbox
  try dsimp only
  repeat' first
    | with_reducible assumption
    | split
    | with_reducible rfl
    | (with_reducible refine mk_keeps ?_ ?_ ?_ ?_; first | with_reducible assumption | split)

theorem event_keeps {s₀ s : State} {f : State → State} (hf : ∀ s, Keeps s₀ s → Keeps s₀ (f s)) (hk : Keeps s₀ s) :
    Keeps s₀ (event s f) := act_keeps (fun s h => progress_keeps (hf s h)) hk

theorem takenBy_keeps {s₀ s : State} {d : Delivered} {f : State → Delivered → State} (hf : ∀ s, Keeps s₀ s → Keeps s₀ (f s d))
    (hk : Keeps s₀ s) : Keeps s₀ (takenBy s d f) := event_keeps (fun _ h => hf _ (takeInbox_keeps h)) hk

theorem taken_keeps {s₀ s : State} {d : Delivered} {op : Byte} {f : State → Delivered → State}
    (hf : ∀ s, Keeps s₀ s → Keeps s₀ (f s d)) (hk : Keeps s₀ s) : Keeps s₀ (taken s d op f) := by
  unfold taken
  split
  · exact takenBy_keeps hf hk
  · exact hk

theorem collAnswered_keeps {s₀ s : State} (hk : Keeps s₀ s) {r : OutReq} {status : Nat} {p : Packet} : Keeps s₀ (collAnswered s r status p) := by
  unfold collAnswered
  try dsimp only
  repeat' first
    | with_reducible assumption
    | with_reducible apply gatherLine_keeps
    | with_reducible apply revokeToSteward_keeps
    | with_reducible apply gatherFails_keeps
    | with_reducible apply semAdd_keeps
    | with_reducible apply setStep_keeps
    | split

theorem completeReq_keeps {s₀ s : State} (hk : Keeps s₀ s) {r : OutReq} {status : Nat} {p : Packet} : Keeps s₀ (completeReq s r status p) := by
  unfold completeReq
  try dsimp only
  repeat' first
    | with_reducible assumption
    | with_reducible apply walkData_keeps
    | with_reducible apply collAnswered_keeps
    | with_reducible apply deliveryAnswered_keeps
    | with_reducible apply barAnswered_keeps
    | with_reducible apply claspAnswered_keeps
    | with_reducible apply fetchData_keeps
    | with_reducible apply dmaData_keeps
    | with_reducible apply atomicAnswered_keeps
    | with_reducible apply probeAnswered_keeps
    | with_reducible apply hostGiven_keeps
    | with_reducible apply ringAnswered_keeps
    | split

theorem endReq_keeps {s₀ s : State} (hk : Keeps s₀ s) {r : OutReq} {status : Nat} : Keeps s₀ (endReq s r status) := by
  unfold endReq
  try dsimp only
  repeat' first
    | with_reducible assumption
    | with_reducible apply completeReq_keeps
    | with_reducible apply retire_keeps
    | split

theorem pairDies_keeps {s₀ s : State} (hk : Keeps s₀ s) {src dst : Epc} : Keeps s₀ (pairDies s src dst) := by
  unfold pairDies
  try dsimp only
  repeat' first
    | with_reducible assumption
    | with_reducible apply endReq_keeps
    | with_reducible apply setSrcPair_keeps
    | (with_reducible refine forEach_keeps (fun _ _ _ => ?_) ?_)
    | split

theorem responseAt_keeps {s₀ s : State} (hk : Keeps s₀ s) {d : Delivered} : Keeps s₀ (responseAt s d) := by
  unfold responseAt
  try dsimp only
  repeat' first
    | with_reducible assumption
    | with_reducible apply completeReq_keeps
    | with_reducible apply pump_keeps
    | with_reducible apply retire_keeps
    | with_reducible apply pairDies_keeps
    | with_reducible apply noteDeferred_keeps
    | split

theorem retryTimeout_keeps {s₀ s : State} (hk : Keeps s₀ s) {src dst : Epc} : Keeps s₀ (retryTimeout s src dst) := by
  unfold retryTimeout
  try dsimp only
  repeat' first
    | with_reducible assumption
    | with_reducible apply pump_keeps
    | with_reducible apply retransmit_keeps
    | with_reducible apply pairDies_keeps
    | (with_reducible refine forEach_keeps (fun _ _ _ => ?_) ?_)
    | split

theorem c0Timeout_keeps {s₀ s : State} (hk : Keeps s₀ s) {n : Nat} : Keeps s₀ (c0Timeout s n) := by
  unfold c0Timeout
  try dsimp only
  repeat' first
    | with_reducible assumption
    | with_reducible apply pump_keeps
    | with_reducible apply endReq_keeps
    | split

theorem closePair_keeps {s₀ s : State} (hk : Keeps s₀ s) {src dst : Epc} : Keeps s₀ (closePair s src dst) := by
  unfold closePair
  try dsimp only
  repeat' first
    | with_reducible assumption
    | with_reducible apply pump_keeps
    | with_reducible apply setSrcPair_keeps
    | split

theorem releaseFlagged_keeps {s₀ s : State} (hk : Keeps s₀ s) {n : Nat} : Keeps s₀ (releaseFlagged s n) := by
  unfold releaseFlagged
  try dsimp only
  repeat' first
    | with_reducible assumption
    | with_reducible apply pump_keeps
    | with_reducible apply sendFirst_keeps
    | split

theorem hallFenceEnds_keeps {s₀ s : State} (hk : Keeps s₀ s) {r : FenceRun} {c : Nat} : Keeps s₀ (hallFenceEnds s r c) := by
  unfold hallFenceEnds
  try dsimp only
  repeat' first
    | with_reducible assumption
    | with_reducible apply endFence_keeps
    | with_reducible apply pWrite_keeps
    | with_reducible apply setCmd_keeps
    | (with_reducible refine endFence_keeps_eq ?_ (by assumption))
    | split

theorem fenceEnds_keeps {s₀ s : State} (hk : Keeps s₀ s) {f : FenceId} : Keeps s₀ (fenceEnds s f) := by
  unfold fenceEnds
  try dsimp only
  repeat' first
    | with_reducible assumption
    | with_reducible apply fnFenceEnds_keeps
    | with_reducible apply hallFenceEnds_keeps
    | split

theorem takeSample_keeps {s₀ s : State} (hk : Keeps s₀ s) {q c : Nat} {p : Packet} : Keeps s₀ (takeSample s q c p) := by
  unfold takeSample
  try dsimp only
  repeat' first
    | with_reducible assumption
    | with_reducible apply takeCells_keeps
    | with_reducible apply bump64_keeps
    | with_reducible apply setPsw_keeps
    | with_reducible apply ev_keeps
    | split
    | with_reducible rfl
    | (with_reducible refine mk_keeps ?_ ?_ ?_ ?_; first | with_reducible assumption | with_reducible apply takeCells_keeps | with_reducible apply bump64_keeps | with_reducible apply setPsw_keeps | with_reducible apply ev_keeps | split)

theorem mirrorSample_keeps {s₀ s : State} (hk : Keeps s₀ s) {p : Packet} {ing : Ingress} : Keeps s₀ (mirrorSample s p ing) := by
  unfold mirrorSample
  try dsimp only
  repeat' first
    | with_reducible assumption
    | with_reducible apply takeSample_keeps
    | with_reducible apply setPsw_keeps
    | split

theorem mirrorDelivered_keeps {s₀ s : State} (hk : Keeps s₀ s) : Keeps s₀ (mirrorDelivered s) := by
  unfold mirrorDelivered
  try dsimp only
  repeat' first
    | with_reducible assumption
    | with_reducible apply checkReserve_keeps
    | with_reducible apply emit_keeps
    | split
    | with_reducible rfl
    | (with_reducible refine mk_keeps ?_ ?_ ?_ ?_; first | with_reducible assumption | with_reducible apply checkReserve_keeps | with_reducible apply emit_keeps | split)

theorem colourOf_keeps {s₀ s : State} (hk : Keeps s₀ s) {p : Packet} {ing : Ingress} : Keeps s₀ (colourOf s p ing).2 := by
  unfold colourOf
  try dsimp only
  repeat' first
    | with_reducible assumption
    | with_reducible apply setPsw_keeps
    | split
theorem colourOf_keeps_eq {s₀ s : State} (hk : Keeps s₀ s) {p : Packet} {ing : Ingress} {x0 x1} (heq : colourOf s p ing = (x0, x1)) : Keeps s₀ x1 := by
  have := colourOf_keeps (s₀ := s₀) (s := s) hk (p := p) (ing := ing)
  rw [heq] at this; exact this

theorem malformedPkt_keeps {s₀ s : State} (hk : Keeps s₀ s) {p : Packet} {ing : Ingress} : Keeps s₀ (malformedPkt s p ing) := by
  unfold malformedPkt
  try dsimp only
  repeat' first
    | with_reducible assumption
    | with_reducible apply limitedAt_keeps
    | with_reducible apply bump64_keeps
    | with_reducible apply discardCells_keeps
    | with_reducible apply ev_keeps
    | split

theorem answerIf_keeps {s₀ s : State} (hk : Keeps s₀ s) {p : Packet} {status : Nat} : Keeps s₀ (answerIf s p status) := by
  unfold answerIf
  try dsimp only
  repeat' first
    | with_reducible assumption
    | with_reducible apply answerFor_keeps
    | split

theorem unroutable_keeps {s₀ s : State} (hk : Keeps s₀ s) {p : Packet} {ing : Ingress} : Keeps s₀ (unroutable s p ing) := by
  unfold unroutable
  try dsimp only
  repeat' first
    | with_reducible assumption
    | with_reducible apply answerIf_keeps
    | with_reducible apply discUnroute_keeps
    | split

theorem misdirected_keeps {s₀ s : State} (hk : Keeps s₀ s) {p : Packet} {ing : Ingress} : Keeps s₀ (misdirected s p ing) := by
  unfold misdirected
  try dsimp only
  repeat' first
    | with_reducible assumption
    | with_reducible apply answerIf_keeps
    | with_reducible apply bump64_keeps
    | with_reducible apply discardCells_keeps
    | with_reducible apply ev_keeps
    | split

theorem spoofed_keeps {s₀ s : State} (hk : Keeps s₀ s) {p : Packet} {ing : Ingress} : Keeps s₀ (spoofed s p ing) := by
  unfold spoofed
  try dsimp only
  repeat' first
    | with_reducible assumption
    | with_reducible apply limitedAt_keeps
    | with_reducible apply bump64_keeps
    | with_reducible apply discardCells_keeps
    | with_reducible apply ev_keeps
    | split

theorem notAdmitted_keeps {s₀ s : State} (hk : Keeps s₀ s) {p : Packet} {ing : Ingress} : Keeps s₀ (notAdmitted s p ing) := by
  unfold notAdmitted
  try dsimp only
  repeat' first
    | with_reducible assumption
    | with_reducible apply answerFor_keeps
    | with_reducible apply limitedAt_keeps
    | with_reducible apply bump64_keeps
    | with_reducible apply discardCells_keeps
    | with_reducible apply ev_keeps
    | split

theorem retiredSeat_keeps {s₀ s : State} (hk : Keeps s₀ s) {p : Packet} {ing : Ingress} : Keeps s₀ (retiredSeat s p ing) := by
  unfold retiredSeat
  try dsimp only
  repeat' first
    | with_reducible assumption
    | with_reducible apply answerFor_keeps
    | with_reducible apply discUnroute_keeps
    | with_reducible apply discardCells_keeps
    | split

theorem keyRefused_keeps {s₀ s : State} (hk : Keeps s₀ s) {p : Packet} {ing : Ingress} : Keeps s₀ (keyRefused s p ing) := by
  unfold keyRefused
  try dsimp only
  repeat' first
    | with_reducible assumption
    | with_reducible apply answerFor_keeps
    | with_reducible apply discardCells_keeps
    | split

theorem requestAtUnit_keeps {s₀ s : State} (hk : Keeps s₀ s) {p : Packet} {ing : Ingress} {u : Nat} {dup : Bool} : Keeps s₀ (requestAtUnit s p ing u dup) := by
  unfold requestAtUnit
  try dsimp only
  repeat' first
    | with_reducible assumption
    | with_reducible apply openPkt_keeps
    | with_reducible apply deliverLocal_keeps
    | with_reducible apply answerFor_keeps
    | with_reducible apply keyRefused_keeps
    | with_reducible apply discardCells_keeps
    | with_reducible apply jobKeyFail_keeps
    | with_reducible apply respond_keeps
    | (with_reducible refine openPkt_keeps_eq ?_ (by assumption))
    | split

theorem throughPair_keeps {s₀ s : State} {p : Packet} {ing : Ingress} {go : State → Bool → State}
    (hf : ∀ s, Keeps s₀ s → ∀ b, Keeps s₀ (go s b)) (hk : Keeps s₀ s) : Keeps s₀ (throughPair s p ing go) := by
  unfold throughPair
  split
  · exact hf _ hk _
  · split
    · exact hf _ (pairCheck_keeps_eq hk ‹_›) _
    · exact hf _ (pairCheck_keeps_eq hk ‹_›) _
    · exact discardCells_keeps (pairCheck_keeps_eq hk ‹_›)
    · exact discardCells_keeps (mk_keeps (pairCheck_keeps_eq hk ‹_›) rfl rfl rfl)
    · exact respond_keeps (discardCells_keeps (pairCheck_keeps_eq hk ‹_›))
    · exact respond_keeps (discardCells_keeps (pairCheck_keeps_eq hk ‹_›))
    · exact respond_keeps (discardCells_keeps (pairCheck_keeps_eq hk ‹_›))

theorem deputy_keeps {s₀ s : State} (hk : Keeps s₀ s) {p : Packet} : Keeps s₀ (deputy s p) := by
  unfold deputy
  try dsimp only
  repeat' first
    | with_reducible assumption
    | with_reducible apply stewardRevoke_keeps
    | with_reducible apply markDegraded_keeps
    | with_reducible apply fault_keeps
    | (with_reducible refine foldl_keeps (fun _ _ _ => ?_) ?_)
    | (with_reducible refine fold1_keeps (fun _ _ _ => ?_) ?_)
    | (with_reducible refine fold2_keeps (fun _ _ _ => ?_) ?_)
    | (with_reducible refine fold3_keeps (fun _ _ _ => ?_) ?_)
    | split

theorem atOwnUnit_keeps {s₀ s : State} (hk : Keeps s₀ s) {p : Packet} {ing : Ingress} {u : Nat} {col : Colour} : Keeps s₀ (atOwnUnit s p ing u col) := by
  unfold atOwnUnit
  try dsimp only
  repeat' first
    | with_reducible assumption
    | with_reducible apply openPkt_keeps
    | with_reducible apply unroutable_keeps
    | with_reducible apply requestAtUnit_keeps
    | with_reducible apply discUnroute_keeps
    | with_reducible apply deputy_keeps
    | with_reducible apply placeLocal_keeps
    | with_reducible apply jobKeyFail_keeps
    | (with_reducible refine openPkt_keeps_eq ?_ (by assumption))
    | (with_reducible refine throughPair_keeps (fun _ _ _ => ?_) ?_)
    | split

theorem hostCount_keeps {s₀ s : State} (hk : Keeps s₀ s) {j : Nat} {p : Packet} : Keeps s₀ (hostCount s j p) := by
  unfold hostCount
  try dsimp only
  repeat' first
    | with_reducible assumption
    | with_reducible apply notice_keeps
    | (with_reducible refine forEach_keeps (fun _ _ _ => ?_) ?_)
    | split

theorem atHostPort_keeps {s₀ s : State} (hk : Keeps s₀ s) {p : Packet} {ing : Ingress} {j : Fin 2} {col : Colour} : Keeps s₀ (atHostPort s p ing j col) := by
  unfold atHostPort
  try dsimp only
  repeat' first
    | with_reducible assumption
    | with_reducible apply hostCount_keeps
    | with_reducible apply openPkt_keeps
    | with_reducible apply linkOut_keeps
    | with_reducible apply answerFor_keeps
    | with_reducible apply discardCells_keeps
    | with_reducible apply jobKeyFail_keeps
    | (with_reducible refine openPkt_keeps_eq ?_ (by assumption))
    | (with_reducible refine throughPair_keeps (fun _ _ _ => ?_) ?_)
    | split

theorem a2aTaken_keeps {s₀ s : State} (hk : Keeps s₀ s) {p : Packet} : Keeps s₀ (a2aTaken s p).2 := by
  unfold a2aTaken
  try dsimp only
  repeat' first
    | with_reducible assumption
    | with_reducible apply openPkt_keeps
    | (with_reducible refine openPkt_keeps_eq ?_ (by assumption))
    | split
theorem a2aTaken_keeps_eq {s₀ s : State} (hk : Keeps s₀ s) {p : Packet} {x0 x1} (heq : a2aTaken s p = (x0, x1)) : Keeps s₀ x1 := by
  have := a2aTaken_keeps (s₀ := s₀) (s := s) hk (p := p)
  rw [heq] at this; exact this

theorem lookedUp_keeps {s₀ s : State} (hk : Keeps s₀ s) {p : Packet} {ing : Ingress} {col : Colour} : Keeps s₀ (lookedUp s p ing col) := by
  unfold lookedUp
  try dsimp only
  repeat' first
    | with_reducible assumption
    | with_reducible apply linkHold_keeps
    | with_reducible apply linkOut_keeps
    | with_reducible apply atHostPort_keeps
    | with_reducible apply deliverLocal_keeps
    | with_reducible apply route_keeps
    | with_reducible apply unroutable_keeps
    | with_reducible apply answerIf_keeps
    | with_reducible apply discDead_keeps
    | with_reducible apply atOwnUnit_keeps
    | with_reducible apply a2aTaken_keeps
    | (with_reducible refine route_keeps_eq ?_ (by assumption))
    | (with_reducible refine a2aTaken_keeps_eq ?_ (by assumption))
    | split

theorem pastIngress_keeps {s₀ s : State} (hk : Keeps s₀ s) {p : Packet} {ing : Ingress} : Keeps s₀ (pastIngress s p ing) := by
  unfold pastIngress
  try dsimp only
  repeat' first
    | with_reducible assumption
    | with_reducible apply multicast_keeps
    | with_reducible apply misdirected_keeps
    | with_reducible apply unroutable_keeps
    | with_reducible apply retiredSeat_keeps
    | with_reducible apply colourOf_keeps
    | with_reducible apply lookedUp_keeps
    | with_reducible apply discardCells_keeps
    | with_reducible apply ev_keeps
    | (with_reducible refine colourOf_keeps_eq ?_ (by assumption))
    | split

theorem framingError_keeps {s₀ s : State} (hk : Keeps s₀ s) {p : Packet} {ing : Ingress} : Keeps s₀ (framingError s p ing) := by
  unfold framingError
  try dsimp only
  repeat' first
    | with_reducible assumption
    | with_reducible apply limitedAt_keeps
    | with_reducible apply retrain_keeps
    | with_reducible apply bump64_keeps
    | with_reducible apply fault_keeps
    | with_reducible apply ev_keeps
    | split

theorem packetArrive_keeps {s₀ s : State} (hk : Keeps s₀ s) {ing : Ingress} {p : Packet} : Keeps s₀ (packetArrive s ing p) := by
  unfold packetArrive
  try dsimp only
  repeat' first
    | with_reducible assumption
    | with_reducible apply takeCells_keeps
    | with_reducible apply pastIngress_keeps
    | with_reducible apply mirrorSample_keeps
    | with_reducible apply malformedPkt_keeps
    | with_reducible apply notAdmitted_keeps
    | with_reducible apply spoofed_keeps
    | with_reducible apply framingError_keeps
    | with_reducible apply ev_keeps
    | split
    | with_reducible rfl
    | (with_reducible refine mk_keeps ?_ ?_ ?_ ?_; first | with_reducible assumption | with_reducible apply takeCells_keeps | with_reducible apply pastIngress_keeps | with_reducible apply mirrorSample_keeps | with_reducible apply malformedPkt_keeps | with_reducible apply notAdmitted_keeps | with_reducible apply spoofed_keeps | with_reducible apply framingError_keeps | with_reducible apply ev_keeps | split)

theorem congestionNote_keeps {s₀ s : State} (hk : Keeps s₀ s) {q c : Nat} : Keeps s₀ (congestionNote s q c) := by
  unfold congestionNote
  try dsimp only
  repeat' first
    | with_reducible assumption
    | with_reducible apply sendPlain_keeps
    | with_reducible apply setPsw_keeps
    | with_reducible apply ev_keeps
    | split

theorem routeAdd_keeps {s₀ s : State} (hk : Keeps s₀ s) {p : Nat} : Keeps s₀ (routeAdd s p) := by
  unfold routeAdd
  try dsimp only
  repeat' first
    | with_reducible assumption
    | with_reducible apply startDrain_keeps
    | split
    | with_reducible rfl
    | (with_reducible refine mk_keeps ?_ ?_ ?_ ?_; first | with_reducible assumption | with_reducible apply startDrain_keeps | split)

theorem bufAudit_keeps {s₀ s : State} (hk : Keeps s₀ s) : Keeps s₀ (bufAudit s) := by
  unfold bufAudit
  try dsimp only
  repeat' first
    | with_reducible assumption
    | with_reducible apply bumpSat_keeps
    | with_reducible apply checkReserve_keeps
    | with_reducible apply setFld_keeps
    | with_reducible apply fault_keeps
    | with_reducible apply ev_keeps
    | with_reducible apply takeFree_keeps
    | (with_reducible refine forEach_keeps (fun _ _ _ => ?_) ?_)
    | split
    | with_reducible rfl
    | (with_reducible refine mk_keeps ?_ ?_ ?_ ?_; first | with_reducible assumption | with_reducible apply bumpSat_keeps | with_reducible apply checkReserve_keeps | with_reducible apply setFld_keeps | with_reducible apply fault_keeps | with_reducible apply ev_keeps | with_reducible apply takeFree_keeps | (with_reducible refine forEach_keeps (fun _ _ _ => ?_) ?_) | split)

theorem relinkHeld_keeps {s₀ s : State} (hk : Keeps s₀ s) : Keeps s₀ (relinkHeld s) := by
  unfold relinkHeld
  try dsimp only
  repeat' first
    | with_reducible assumption
    | with_reducible apply noteHeld_keeps
    | with_reducible apply multicast_keeps
    | with_reducible apply lookedUp_keeps
    | (with_reducible refine forEach_keeps (fun _ _ _ => ?_) ?_)
    | split
    | with_reducible rfl
    | (with_reducible refine mk_keeps ?_ ?_ ?_ ?_; first | with_reducible assumption | with_reducible apply noteHeld_keeps | with_reducible apply multicast_keeps | with_reducible apply lookedUp_keeps | (with_reducible refine forEach_keeps (fun _ _ _ => ?_) ?_) | split)

theorem drainQuiesced_keeps {s₀ s : State} (hk : Keeps s₀ s) : Keeps s₀ (drainQuiesced s) := by
  unfold drainQuiesced
  try dsimp only
  repeat' first
    | with_reducible assumption
    | with_reducible apply setFld_keeps
    | split
    | with_reducible rfl
    | (with_reducible refine mk_keeps ?_ ?_ ?_ ?_; first | with_reducible assumption | with_reducible apply setFld_keeps | split)

theorem drainSettled_keeps {s₀ s : State} (hk : Keeps s₀ s) : Keeps s₀ (drainSettled s) := by
  unfold drainSettled
  try dsimp only
  repeat' first
    | with_reducible assumption
    | with_reducible apply drainGoLive_keeps
    | with_reducible apply relinkHeld_keeps
    | split

theorem holdEmpty_keeps {s₀ s : State} (hk : Keeps s₀ s) : Keeps s₀ (holdEmpty s) := by
  unfold holdEmpty
  try dsimp only
  repeat' first
    | with_reducible assumption
    | with_reducible apply drainOver_keeps
    | split

theorem drainAbandon_keeps {s₀ s : State} (hk : Keeps s₀ s) : Keeps s₀ (drainAbandon s) := by
  unfold drainAbandon
  try dsimp only
  repeat' first
    | with_reducible assumption
    | with_reducible apply routeAdd_keeps
    | with_reducible apply fault0_keeps
    | with_reducible apply setBitOf_keeps
    | with_reducible apply ownerAbandoned_keeps
    | with_reducible apply drainOver_keeps
    | with_reducible apply jobAbandoned_keeps
    | with_reducible apply relinkHeld_keeps
    | with_reducible apply ev_keeps
    | split
    | with_reducible rfl
    | (with_reducible refine mk_keeps ?_ ?_ ?_ ?_; first | with_reducible assumption | with_reducible apply routeAdd_keeps | with_reducible apply fault0_keeps | with_reducible apply setBitOf_keeps | with_reducible apply ownerAbandoned_keeps | with_reducible apply drainOver_keeps | with_reducible apply jobAbandoned_keeps | with_reducible apply relinkHeld_keeps | with_reducible apply ev_keeps | split)

end Sys2Proof.Machine
end

