-- ==== Sys2Proof/Laws/KeepsCommands.lean ====
section
/-! SUPPORT. Keeps, function by function: collective packets, the services the meanings call, and time. -/

set_option linter.unusedTactic false
set_option linter.unreachableTactic false
set_option linter.unusedVariables false

namespace Sys2Proof.Machine

theorem dropInput_keeps {s₀ s : State} (hk : Keeps s₀ s) {d : Delivered} {period cells : Nat} : Keeps s₀ (dropInput s d period cells) := by
  unfold dropInput
  try dsimp only
  repeat' first
    | with_reducible assumption
    | with_reducible apply freeCells_keeps
    | split

theorem duplicateInput_keeps {s₀ s : State} (hk : Keeps s₀ s) {d : Delivered} {period cells : Nat} : Keeps s₀ (duplicateInput s d period cells) := by
  unfold duplicateInput
  try dsimp only
  repeat' first
    | with_reducible assumption
    | with_reducible apply dropInput_keeps
    | with_reducible apply bump64_keeps
    | with_reducible apply ev_keeps
    | split

theorem malformedInput_keeps {s₀ s : State} (hk : Keeps s₀ s) {d : Delivered} {period cells : Nat} : Keeps s₀ (malformedInput s d period cells) := by
  unfold malformedInput
  try dsimp only
  repeat' first
    | with_reducible assumption
    | with_reducible apply dropInput_keeps
    | with_reducible apply limitedAt_keeps
    | with_reducible apply bump64_keeps
    | with_reducible apply ev_keeps
    | split

theorem strayInput_keeps {s₀ s : State} (hk : Keeps s₀ s) {d : Delivered} {period cells : Nat} : Keeps s₀ (strayInput s d period cells) := by
  unfold strayInput
  try dsimp only
  repeat' first
    | with_reducible assumption
    | with_reducible apply dropInput_keeps
    | with_reducible apply bump64_keeps
    | with_reducible apply ev_keeps
    | split

theorem holdInput_keeps {s₀ s : State} (hk : Keeps s₀ s) {d : Delivered} {period cells : Nat} : Keeps s₀ (holdInput s d period cells) := by
  unfold holdInput
  try dsimp only
  repeat' first
    | with_reducible assumption
    | with_reducible apply duplicateInput_keeps
    | with_reducible apply setHalf_keeps
    | split
    | with_reducible rfl
    | (with_reducible refine mk_keeps ?_ ?_ ?_ ?_; first | with_reducible assumption | with_reducible apply duplicateInput_keeps | with_reducible apply setHalf_keeps | split)

theorem pushIn_keeps {s₀ s : State} (hk : Keeps s₀ s) {d : Delivered} : Keeps s₀ (pushIn s d) := by
  unfold pushIn
  try dsimp only
  repeat' first
    | with_reducible assumption
    | with_reducible apply malformedInput_keeps
    | with_reducible apply takeHearth_keeps
    | with_reducible apply holdInput_keeps
    | with_reducible apply strayInput_keeps
    | with_reducible apply duplicateInput_keeps
    | with_reducible apply ev_keeps
    | (with_reducible refine takeHearth_keeps_eq ?_ (by assumption))
    | split

theorem partialIn_keeps {s₀ s : State} (hk : Keeps s₀ s) {d : Delivered} : Keeps s₀ (partialIn s d) := by
  unfold partialIn
  try dsimp only
  repeat' first
    | with_reducible assumption
    | with_reducible apply malformedInput_keeps
    | with_reducible apply takeHearth_keeps
    | with_reducible apply holdInput_keeps
    | with_reducible apply strayInput_keeps
    | with_reducible apply openStep_keeps
    | with_reducible apply duplicateInput_keeps
    | with_reducible apply ev_keeps
    | (with_reducible refine takeHearth_keeps_eq ?_ (by assumption))
    | split

theorem pieceFails_keeps {s₀ s : State} (hk : Keeps s₀ s) {h : Half} {piece : Nat} : Keeps s₀ (pieceFails s h piece) := by
  unfold pieceFails
  try dsimp only
  repeat' first
    | with_reducible assumption
    | with_reducible apply noteSince_keeps
    | with_reducible apply abandonHalf_keeps
    | with_reducible apply revokeToSteward_keeps
    | with_reducible apply bump64_keeps
    | with_reducible apply groupFault_keeps
    | with_reducible apply colErr_keeps
    | with_reducible apply ev_keeps
    | with_reducible apply setHalf_keeps
    | split

theorem piecePasses_keeps {s₀ s : State} (hk : Keeps s₀ s) {h : Half} {piece : Nat} : Keeps s₀ (piecePasses s h piece) := by
  unfold piecePasses
  try dsimp only
  repeat' first
    | with_reducible assumption
    | with_reducible apply freeInputs_keeps
    | with_reducible apply dropHalf_keeps
    | with_reducible apply sendHalf_keeps
    | with_reducible apply setHalf_keeps
    | split
    | with_reducible rfl
    | (with_reducible refine mk_keeps ?_ ?_ ?_ ?_; first | with_reducible assumption | with_reducible apply freeInputs_keeps | with_reducible apply dropHalf_keeps | with_reducible apply sendHalf_keeps | with_reducible apply setHalf_keeps | split)

theorem combineDone_keeps {s₀ s : State} (hk : Keeps s₀ s) {g : Nat} {step chunk : Word} {strand : Bool} {piece : Nat} {ok : Bool} : Keeps s₀ (combineDone s g step chunk strand piece ok) := by
  unfold combineDone
  try dsimp only
  repeat' first
    | with_reducible assumption
    | with_reducible apply pieceFails_keeps
    | with_reducible apply piecePasses_keeps
    | with_reducible apply ev_keeps
    | split

theorem ownerResult_keeps {s₀ s : State} (hk : Keeps s₀ s) {p : Packet} : Keeps s₀ (ownerResult s p) := by
  unfold ownerResult
  try dsimp only
  repeat' first
    | with_reducible assumption
    | with_reducible apply openStep_keeps
    | with_reducible apply writeChunk_keeps
    | with_reducible apply setStep_keeps
    | split

theorem resultIn_keeps {s₀ s : State} (hk : Keeps s₀ s) {d : Delivered} : Keeps s₀ (resultIn s d) := by
  unfold resultIn
  try dsimp only
  repeat' first
    | with_reducible assumption
    | with_reducible apply malformedInput_keeps
    | with_reducible apply takeHearth_keeps
    | with_reducible apply strayInput_keeps
    | with_reducible apply ownerResult_keeps
    | with_reducible apply dropInput_keeps
    | (with_reducible refine takeHearth_keeps_eq ?_ (by assumption))
    | split

theorem shardReleased_keeps {s₀ s : State} (hk : Keeps s₀ s) {g : Nat} {step : Word} : Keeps s₀ (shardReleased s g step) := by
  unfold shardReleased
  try dsimp only
  repeat' first
    | with_reducible assumption
    | with_reducible apply sendCount_keeps
    | with_reducible apply writeStepRec_keeps
    | with_reducible apply setStep_keeps
    | split

theorem reissueAll_keeps {s₀ s : State} (hk : Keeps s₀ s) {g : Nat} {step chunk : Word} {strand : Bool} : Keeps s₀ (reissueAll s g step chunk strand) := by
  unfold reissueAll
  try dsimp only
  repeat' first
    | with_reducible assumption
    | with_reducible apply sendReissue_keeps
    | (with_reducible refine forEach_keeps (fun _ _ _ => ?_) ?_)
    | (with_reducible refine foldl_keeps (fun _ _ _ => ?_) ?_)
    | (with_reducible refine fold1_keeps (fun _ _ _ => ?_) ?_)
    | (with_reducible refine fold2_keeps (fun _ _ _ => ?_) ?_)
    | (with_reducible refine fold3_keeps (fun _ _ _ => ?_) ?_)
    | split

theorem reissueIn_keeps {s₀ s : State} (hk : Keeps s₀ s) {d : Delivered} : Keeps s₀ (reissueIn s d) := by
  unfold reissueIn
  try dsimp only
  repeat' first
    | with_reducible assumption
    | with_reducible apply reissueAll_keeps
    | split
    | with_reducible rfl
    | (with_reducible refine mk_keeps ?_ ?_ ?_ ?_; first | with_reducible assumption | with_reducible apply reissueAll_keeps | split)

theorem combinerReissue_keeps {s₀ s : State} (hk : Keeps s₀ s) {h : Half} : Keeps s₀ (combinerReissue s h) := by
  unfold combinerReissue
  try dsimp only
  repeat' first
    | with_reducible assumption
    | with_reducible apply sendReissue_keeps
    | with_reducible apply setHalf_keeps
    | (with_reducible refine forEach_keeps (fun _ _ _ => ?_) ?_)
    | split

theorem ownerReissue_keeps {s₀ s : State} (hk : Keeps s₀ s) {r : StepRec} {c : Nat} {strand : Bool} : Keeps s₀ (ownerReissue s r c strand) := by
  unfold ownerReissue
  try dsimp only
  repeat' first
    | with_reducible assumption
    | with_reducible apply sendReissue_keeps
    | with_reducible apply setStep_keeps
    | split

theorem reissueDue_keeps {s₀ s : State} (hk : Keeps s₀ s) {g : Nat} {step chunk : Word} {strand : Bool} : Keeps s₀ (reissueDue s g step chunk strand) := by
  unfold reissueDue
  try dsimp only
  repeat' first
    | with_reducible assumption
    | with_reducible apply combinerReissue_keeps
    | with_reducible apply ownerReissue_keeps
    | split

theorem voteIn_keeps {s₀ s : State} (hk : Keeps s₀ s) {d : Delivered} : Keeps s₀ (voteIn s d) := by
  unfold voteIn
  try dsimp only
  repeat' first
    | with_reducible assumption
    | with_reducible apply commitIfComplete_keeps
    | with_reducible apply setTally_keeps
    | split

theorem committedIn_keeps {s₀ s : State} (hk : Keeps s₀ s) {d : Delivered} : Keeps s₀ (committedIn s d) := by
  unfold committedIn
  try dsimp only
  repeat' first
    | with_reducible assumption
    | with_reducible apply commitHere_keeps
    | split

theorem barrierHere_keeps {s₀ s : State} (hk : Keeps s₀ s) {g : Nat} {step : Word} : Keeps s₀ (barrierHere s g step) := by
  unfold barrierHere
  try dsimp only
  repeat' first
    | with_reducible assumption
    | with_reducible apply setMemState_keeps
    | with_reducible apply closeStep_keeps
    | with_reducible apply sendCount_keeps
    | (with_reducible refine forEach_keeps (fun _ _ _ => ?_) ?_)
    | split

theorem releaseStep_keeps {s₀ s : State} (hk : Keeps s₀ s) {g : Nat} {step : Word} : Keeps s₀ (releaseStep s g step) := by
  unfold releaseStep
  try dsimp only
  repeat' first
    | with_reducible assumption
    | with_reducible apply sendCount_keeps
    | with_reducible apply barrierHere_keeps
    | (with_reducible refine forEach_keeps (fun _ _ _ => ?_) ?_)
    | split

theorem arrivedIn_keeps {s₀ s : State} (hk : Keeps s₀ s) {d : Delivered} : Keeps s₀ (arrivedIn s d) := by
  unfold arrivedIn
  try dsimp only
  repeat' first
    | with_reducible assumption
    | with_reducible apply releaseStep_keeps
    | with_reducible apply setTally_keeps
    | split

theorem releaseIn_keeps {s₀ s : State} (hk : Keeps s₀ s) {d : Delivered} : Keeps s₀ (releaseIn s d) := by
  unfold releaseIn
  try dsimp only
  repeat' first
    | with_reducible assumption
    | with_reducible apply openStep_keeps
    | with_reducible apply startGather_keeps
    | with_reducible apply barrierHere_keeps
    | split

theorem regatherIn_keeps {s₀ s : State} (hk : Keeps s₀ s) {d : Delivered} : Keeps s₀ (regatherIn s d) := by
  unfold regatherIn
  try dsimp only
  repeat' first
    | with_reducible assumption
    | with_reducible apply beginGathers_keeps
    | split

theorem revokeAtSteward_keeps {s₀ s : State} (hk : Keeps s₀ s) {p : Packet} : Keeps s₀ (revokeAtSteward s p) := by
  unfold revokeAtSteward
  try dsimp only
  repeat' first
    | with_reducible assumption
    | with_reducible apply stewardRevoke_keeps
    | with_reducible apply fault_keeps
    | with_reducible apply colErr_keeps
    | split

theorem revokeIn_keeps {s₀ s : State} (hk : Keeps s₀ s) {d : Delivered} : Keeps s₀ (revokeIn s d) := by
  unfold revokeIn
  try dsimp only
  repeat' first
    | with_reducible assumption
    | with_reducible apply bump64_keeps
    | with_reducible apply revokeAtSteward_keeps
    | with_reducible apply noticeAll_keeps
    | with_reducible apply revokeHere_keeps
    | with_reducible apply ev_keeps
    | split

theorem voteDue_keeps {s₀ s : State} (hk : Keeps s₀ s) {g : Nat} : Keeps s₀ (voteDue s g) := by
  unfold voteDue
  try dsimp only
  repeat' first
    | with_reducible assumption
    | with_reducible apply stewardRevoke_keeps
    | (with_reducible refine foldl_keeps (fun _ _ _ => ?_) ?_)
    | (with_reducible refine fold1_keeps (fun _ _ _ => ?_) ?_)
    | (with_reducible refine fold2_keeps (fun _ _ _ => ?_) ?_)
    | (with_reducible refine fold3_keeps (fun _ _ _ => ?_) ?_)
    | split

theorem setA2a_keeps {s₀ s : State} (hk : Keeps s₀ s) {x : A2aPair} : Keeps s₀ (setA2a s x) := by
  unfold setA2a
  try dsimp only
  repeat' first
    | with_reducible assumption
    | split
    | with_reducible rfl
    | (with_reducible refine mk_keeps ?_ ?_ ?_ ?_; first | with_reducible assumption | split)

theorem tellA2a_keeps {s₀ s : State} (hk : Keeps s₀ s) {g : Nat} {step : Word} {dst kind : Nat} {vec : List Nat} : Keeps s₀ (tellA2a s g step dst kind vec) := by
  unfold tellA2a
  try dsimp only
  repeat' first
    | with_reducible assumption
    | with_reducible apply sendCount_keeps
    | split
    | with_reducible rfl
    | (with_reducible refine mk_keeps ?_ ?_ ?_ ?_; first | with_reducible assumption | with_reducible apply sendCount_keeps | split)

theorem padProgress_keeps {s₀ s : State} (hk : Keeps s₀ s) {g : Nat} {step : Word} {src dst : Nat} : Keeps s₀ (padProgress s g step src dst) := by
  unfold padProgress
  try dsimp only
  repeat' first
    | with_reducible assumption
    | with_reducible apply tellA2a_keeps
    | with_reducible apply sendCount_keeps
    | with_reducible apply setA2a_keeps
    | split

theorem srcIndex_keeps {s₀ s : State} (hk : Keeps s₀ s) {p : Packet} : Keeps s₀ (srcIndex s p).2 := by
  unfold srcIndex
  try dsimp only
  repeat' first
    | with_reducible assumption
    | with_reducible apply openPkt_keeps
    | (with_reducible refine openPkt_keeps_eq ?_ (by assumption))
    | split
theorem srcIndex_keeps_eq {s₀ s : State} (hk : Keeps s₀ s) {p : Packet} {x0 x1} (heq : srcIndex s p = (x0, x1)) : Keeps s₀ x1 := by
  have := srcIndex_keeps (s₀ := s₀) (s := s) hk (p := p)
  rw [heq] at this; exact this

theorem padRecords_keeps {s₀ s : State} (hk : Keeps s₀ s) {d : Delivered} {period cells src dst n : Nat} : Keeps s₀ (padRecords s d period cells src dst n) := by
  unfold padRecords
  try dsimp only
  repeat' first
    | with_reducible assumption
    | with_reducible apply srcIndex_keeps
    | with_reducible apply dropInput_keeps
    | with_reducible apply padProgress_keeps
    | with_reducible apply forward_keeps
    | with_reducible apply bump64_keeps
    | with_reducible apply setA2a_keeps
    | with_reducible apply colErr_keeps
    | with_reducible apply ev_keeps
    | (with_reducible refine srcIndex_keeps_eq ?_ (by assumption))
    | split

theorem countRecords_keeps {s₀ s : State} (hk : Keeps s₀ s) {d : Delivered} {period cells dst n : Nat} : Keeps s₀ (countRecords s d period cells dst n) := by
  unfold countRecords
  try dsimp only
  repeat' first
    | with_reducible assumption
    | with_reducible apply forward_keeps
    | with_reducible apply ev_keeps
    | split
    | with_reducible rfl
    | (with_reducible refine mk_keeps ?_ ?_ ?_ ?_; first | with_reducible assumption | with_reducible apply forward_keeps | with_reducible apply ev_keeps | split)

theorem a2aIn_keeps {s₀ s : State} (hk : Keeps s₀ s) {d : Delivered} : Keeps s₀ (a2aIn s d) := by
  unfold a2aIn
  try dsimp only
  repeat' first
    | with_reducible assumption
    | with_reducible apply countRecords_keeps
    | with_reducible apply malformedInput_keeps
    | with_reducible apply padRecords_keeps
    | with_reducible apply takeHearth_keeps
    | with_reducible apply strayInput_keeps
    | with_reducible apply duplicateInput_keeps
    | (with_reducible refine takeHearth_keeps_eq ?_ (by assumption))
    | split

theorem a2aEndIn_keeps {s₀ s : State} (hk : Keeps s₀ s) {d : Delivered} : Keeps s₀ (a2aEndIn s d) := by
  unfold a2aEndIn
  try dsimp only
  repeat' first
    | with_reducible assumption
    | with_reducible apply padProgress_keeps
    | with_reducible apply setA2a_keeps
    | split

theorem releaseA2a_keeps {s₀ s : State} (hk : Keeps s₀ s) {g : Nat} {step : Word} {dst : Nat} : Keeps s₀ (releaseA2a s g step dst) := by
  unfold releaseA2a
  try dsimp only
  repeat' first
    | with_reducible assumption
    | with_reducible apply forward_keeps
    | with_reducible apply ev_keeps
    | (with_reducible refine forEach_keeps (fun _ _ _ => ?_) ?_)
    | split
    | with_reducible rfl
    | (with_reducible refine mk_keeps ?_ ?_ ?_ ?_; first | with_reducible assumption | with_reducible apply forward_keeps | with_reducible apply ev_keeps | (with_reducible refine forEach_keeps (fun _ _ _ => ?_) ?_) | split)

theorem a2aCountIn_keeps {s₀ s : State} (hk : Keeps s₀ s) {d : Delivered} : Keeps s₀ (a2aCountIn s d) := by
  unfold a2aCountIn
  try dsimp only
  repeat' first
    | with_reducible assumption
    | with_reducible apply tellA2a_keeps
    | with_reducible apply releaseA2a_keeps
    | with_reducible apply setA2a_keeps
    | split

theorem countTaken_keeps {s₀ s : State} {d : Delivered} {kind : Nat} {f : State → Delivered → State}
    (hf : ∀ s, Keeps s₀ s → Keeps s₀ (f s d)) (hk : Keeps s₀ s) : Keeps s₀ (countTaken s d kind f) := by
  unfold countTaken
  split
  · refine takenBy_keeps (fun s h => ?_) hk
    split
    · exact malformedInput_keeps h
    · exact hf s h
  · exact hk

theorem atHome_keeps {s₀ s : State} (hk : Keeps s₀ s) {d : Delivered} : Keeps s₀ (atHome s d) := by
  unfold atHome
  try dsimp only
  repeat' first
    | with_reducible assumption
    | with_reducible apply homeRequest_keeps
    | with_reducible apply respond_keeps
    | split

theorem lapseToken_keeps {s₀ s : State} (hk : Keeps s₀ s) {line : Nat} {token : BitVec 16} : Keeps s₀ (lapseToken s line token) := by
  unfold lapseToken
  try dsimp only
  repeat' first
    | with_reducible assumption
    | with_reducible apply exitHot_keeps
    | with_reducible apply noteHome_keeps
    | with_reducible apply settle_keeps
    | split
    | with_reducible rfl
    | (with_reducible refine mk_keeps ?_ ?_ ?_ ?_; first | with_reducible assumption | with_reducible apply exitHot_keeps | with_reducible apply noteHome_keeps | with_reducible apply settle_keeps | split)

theorem errLast_keeps {s₀ s : State} (hk : Keeps s₀ s) {off kind dev : Nat} : Keeps s₀ (errLast s off kind dev) := by
  unfold errLast
  try dsimp only
  repeat' first
    | with_reducible assumption
    | with_reducible apply wr64_keeps
    | split

theorem correctedError_keeps {s₀ s : State} (hk : Keeps s₀ s) {line : Nat} {dev row : Nat} : Keeps s₀ (correctedError s line dev row) := by
  unfold correctedError
  try dsimp only
  repeat' first
    | with_reducible assumption
    | with_reducible apply bumpSat_keeps
    | with_reducible apply noteSince_keeps
    | with_reducible apply errLast_keeps
    | with_reducible apply bump64_keeps
    | with_reducible apply fault_keeps
    | with_reducible apply ev_keeps
    | split
    | with_reducible rfl
    | (with_reducible refine mk_keeps ?_ ?_ ?_ ?_; first | with_reducible assumption | with_reducible apply bumpSat_keeps | with_reducible apply noteSince_keeps | with_reducible apply errLast_keeps | with_reducible apply bump64_keeps | with_reducible apply fault_keeps | with_reducible apply ev_keeps | split)

theorem sealFail_keeps {s₀ s : State} (hk : Keeps s₀ s) {line level : Nat} : Keeps s₀ (sealFail s line level) := by
  unfold sealFail
  try dsimp only
  repeat' first
    | with_reducible assumption
    | with_reducible apply setSealLine_keeps
    | with_reducible apply noteDir_keeps
    | with_reducible apply ev_keeps
    | split
    | with_reducible rfl
    | (with_reducible refine mk_keeps ?_ ?_ ?_ ?_; first | with_reducible assumption | with_reducible apply setSealLine_keeps | with_reducible apply noteDir_keeps | with_reducible apply ev_keeps | split)

theorem scrubRead_keeps {s₀ s : State} (hk : Keeps s₀ s) {line : Nat} {obs : CheckResult} : Keeps s₀ (scrubRead s line obs) := by
  unfold scrubRead
  extract_lets off owned s1 store t3 t4 s2 t6 src
  split
  · exact hk
  · have h1 : Keeps s₀ s1 := ev_keeps hk
    have h2 : Keeps s₀ s2 := by
      cases obs with
      | clean => exact h1
      | corrected dev row => exact correctedError_keeps h1
      | uncorrectable dev =>
        exact lineFault_keeps (poisonAndForget_keeps (errLast_keeps (ev_keeps (bump64_keeps h1))))
      | tagFail => exact lineFault_keeps (poisonAndForget_keeps (errLast_keeps (ev_keeps (bump64_keeps h1))))
      | counterFail level cl => exact fault_keeps (sealFail_keeps (errLast_keeps (ev_keeps (bump64_keeps h1))))
    clear_value s2
    split
    · exact mk_keeps (setFld_keeps h2) rfl rfl rfl
    · exact h2

theorem telemetryIn_keeps {s₀ s : State} (hk : Keeps s₀ s) {d : Delivered} : Keeps s₀ (telemetryIn s d) := by
  unfold telemetryIn
  try dsimp only
  repeat' first
    | with_reducible assumption
    | with_reducible apply emit_keeps
    | split

theorem access_keeps {s₀ s : State} {f : State → State} (hf : ∀ s, Keeps s₀ s → Keeps s₀ (f s)) (hk : Keeps s₀ s) :
    Keeps s₀ (access s f) := by
  unfold access
  split
  · exact hk
  · refine aside_keeps (fun s h => ?_) hk
    split
    · exact hf s h
    · exact progress_keeps (hf s h)

theorem windowRead_keeps {s₀ s : State} (hk : Keeps s₀ s) {d : Delivered} : Keeps s₀ (windowRead s d) := by
  unfold windowRead
  try dsimp only
  repeat' first
    | with_reducible assumption
    | with_reducible apply mrsRead_keeps
    | with_reducible apply respond_keeps
    | (with_reducible refine mrsRead_keeps_eq ?_ (by assumption))
    | split

theorem windowWrite_keeps {s₀ s : State} (hk : Keeps s₀ s) {d : Delivered} : Keeps s₀ (windowWrite s d) := by
  unfold windowWrite
  try dsimp only
  repeat' first
    | with_reducible assumption
    | with_reducible apply mrsWrite_keeps
    | with_reducible apply respond_keeps
    | (with_reducible refine mrsWrite_keeps_eq ?_ (by assumption))
    | split

theorem cacheTakes_keeps {s₀ s : State} (hk : Keeps s₀ s) {d : Delivered} : Keeps s₀ (cacheTakes s d) := by
  unfold cacheTakes
  try dsimp only
  repeat' first
    | with_reducible assumption
    | with_reducible apply hostSnoop_keeps
    | with_reducible apply cupSnoop_keeps
    | split

theorem handoffOver_keeps {s₀ s : State} (hk : Keeps s₀ s) : Keeps s₀ (handoffOver s) := by
  unfold handoffOver
  try dsimp only
  repeat' first
    | with_reducible assumption
    | with_reducible apply setPwr_keeps
    | with_reducible apply pwrProgress_keeps
    | with_reducible apply handoffComplete_keeps
    | split

theorem commitTakes_keeps {s₀ s : State} (hk : Keeps s₀ s) : Keeps s₀ (commitTakes s) := by
  unfold commitTakes
  try dsimp only
  repeat' first
    | with_reducible assumption
    | with_reducible apply commitApply_keeps
    | with_reducible apply requestReset_keeps
    | (with_reducible refine commitApply_keeps_eq ?_ (by assumption))
    | split

theorem hostDoes_keeps {s₀ s : State} {j : Nat} {f : State → State} (hf : ∀ s, Keeps s₀ s → Keeps s₀ (f s)) (hk : Keeps s₀ s) :
    Keeps s₀ (hostDoes s j f) := by
  unfold hostDoes
  split
  · exact hf _ (wakeRun_keeps (hostBusy_keeps hk))
  · exact hk

theorem hostTakes_keeps {s₀ s : State} (hk : Keeps s₀ s) {d : Delivered} : Keeps s₀ (hostTakes s d) := by
  unfold hostTakes
  try dsimp only
  repeat' first
    | with_reducible assumption
    | with_reducible apply hostCount_keeps
    | with_reducible apply inboundRequest_keeps
    | split

theorem countNanos_keeps {s₀ s : State} (hk : Keeps s₀ s) : Keeps s₀ (countNanos s) := by
  unfold countNanos
  try dsimp only
  repeat' first
    | with_reducible assumption
    | with_reducible apply ev_keeps
    | (with_reducible refine forEach_keeps (fun _ _ _ => ?_) ?_)
    | split

theorem countCycles_keeps {s₀ s : State} (hk : Keeps s₀ s) : Keeps s₀ (countCycles s) := by
  unfold countCycles
  try dsimp only
  repeat' first
    | with_reducible assumption
    | with_reducible apply ev_keeps
    | (with_reducible refine forEach_keeps (fun _ _ _ => ?_) ?_)
    | split

theorem watchIdle_keeps {s₀ s : State} (hk : Keeps s₀ s) : Keeps s₀ (watchIdle s) := by
  unfold watchIdle
  try dsimp only
  repeat' first
    | with_reducible assumption
    | with_reducible apply setPwr_keeps
    | split

theorem tick_keeps {s : State} (h : s.pwr.off = false) : Keeps { s with now := (s.now + 1) % 2 ^ 64 } (tick s) := by
  unfold tick
  rw [if_neg (by simp [h])]
  have h0 : Keeps { s with now := (s.now + 1) % 2 ^ 64 }
      (captureDue (countCycles (countNanos { s with now := (s.now + 1) % 2 ^ 64 }))) :=
    captureDue_keeps (countCycles_keeps (countNanos_keeps (Keeps.refl _)))
  generalize hc : captureDue (countCycles (countNanos { s with now := (s.now + 1) % 2 ^ 64 })) = c at h0
  have h1 : Keeps { s with now := (s.now + 1) % 2 ^ 64 } (if c.pwr.dark then c
      else pwrProgress (watchIdle (if fldOf (progress (watchProbation (pump c))) PWR_MEASURES 9 2 ≠ 0 then
        arrayKick (progress (watchProbation (pump c))) else progress (watchProbation (pump c))))) := by
    split
    · exact h0
    · refine pwrProgress_keeps (watchIdle_keeps ?_)
      have h2 := progress_keeps (watchProbation_keeps (pump_keeps h0))
      split
      · exact arrayKick_keeps h2
      · exact h2
  unfold aside
  dsimp only
  rw [hc]
  exact ⟨h1.part, rfl, h1.out, h1.free, h1.now, fun c => { h1.canon c with }⟩

end Sys2Proof.Machine
end

