-- ==== Sys2Proof/Laws/State.lean ====
section
/-! SUPPORT. One lemma per field per named update of the state: what the field holds afterwards, true by definition. -/

namespace Sys2Proof.Machine

variable (s : State)

@[simp] theorem wr_part (o v : Nat) : (wr s o v).part = s.part := rfl
@[simp] theorem wr_now (o v : Nat) : (wr s o v).now = s.now := rfl
@[simp] theorem wr_regs (o v : Nat) : (wr s o v).regs = sset regReset s.regs o (BitVec.ofNat 32 v) := rfl
@[simp] theorem wr_lanes (o v : Nat) : (wr s o v).lanes = s.lanes := rfl
@[simp] theorem wr_links (o v : Nat) : (wr s o v).links = s.links := rfl
@[simp] theorem wr_psw (o v : Nat) : (wr s o v).psw = s.psw := rfl
@[simp] theorem wr_sw (o v : Nat) : (wr s o v).sw = s.sw := rfl
@[simp] theorem wr_e2e (o v : Nat) : (wr s o v).e2e = s.e2e := rfl
@[simp] theorem wr_homes (o v : Nat) : (wr s o v).homes = s.homes := rfl
@[simp] theorem wr_hall (o v : Nat) : (wr s o v).hall = s.hall := rfl
@[simp] theorem wr_coll (o v : Nat) : (wr s o v).coll = s.coll := rfl
@[simp] theorem wr_res (o v : Nat) : (wr s o v).res = s.res := rfl
@[simp] theorem wr_sec (o v : Nat) : (wr s o v).sec = s.sec := rfl
@[simp] theorem wr_cfg (o v : Nat) : (wr s o v).cfg = s.cfg := rfl
@[simp] theorem wr_pwr (o v : Nat) : (wr s o v).pwr = s.pwr := rfl
@[simp] theorem wr_hosts (o v : Nat) : (wr s o v).hosts = s.hosts := rfl
@[simp] theorem wr_cnt (o v : Nat) : (wr s o v).cnt = s.cnt := rfl
@[simp] theorem wr_arrivals (o v : Nat) : (wr s o v).arrivals = s.arrivals := rfl
@[simp] theorem wr_inbox (o v : Nat) : (wr s o v).inbox = s.inbox := rfl
@[simp] theorem wr_freeIdx (o v : Nat) : (wr s o v).freeIdx = s.freeIdx := rfl
@[simp] theorem wr_out (o v : Nat) : (wr s o v).out = s.out := rfl
@[simp] theorem wr_pending (o v : Nat) : (wr s o v).pending = s.pending := rfl

@[simp] theorem setFld_part (o hi lo v : Nat) : (setFld s o hi lo v).part = s.part := wr_part s _ _
@[simp] theorem setFld_now (o hi lo v : Nat) : (setFld s o hi lo v).now = s.now := wr_now s _ _
@[simp] theorem setFld_regs (o hi lo v : Nat) : (setFld s o hi lo v).regs = sset regReset s.regs o (BitVec.ofNat 32 (setBits (rd s o) hi lo v)) := rfl
@[simp] theorem setFld_lanes (o hi lo v : Nat) : (setFld s o hi lo v).lanes = s.lanes := wr_lanes s _ _
@[simp] theorem setFld_links (o hi lo v : Nat) : (setFld s o hi lo v).links = s.links := wr_links s _ _
@[simp] theorem setFld_psw (o hi lo v : Nat) : (setFld s o hi lo v).psw = s.psw := wr_psw s _ _
@[simp] theorem setFld_sw (o hi lo v : Nat) : (setFld s o hi lo v).sw = s.sw := wr_sw s _ _
@[simp] theorem setFld_e2e (o hi lo v : Nat) : (setFld s o hi lo v).e2e = s.e2e := wr_e2e s _ _
@[simp] theorem setFld_homes (o hi lo v : Nat) : (setFld s o hi lo v).homes = s.homes := wr_homes s _ _
@[simp] theorem setFld_hall (o hi lo v : Nat) : (setFld s o hi lo v).hall = s.hall := wr_hall s _ _
@[simp] theorem setFld_coll (o hi lo v : Nat) : (setFld s o hi lo v).coll = s.coll := wr_coll s _ _
@[simp] theorem setFld_res (o hi lo v : Nat) : (setFld s o hi lo v).res = s.res := wr_res s _ _
@[simp] theorem setFld_sec (o hi lo v : Nat) : (setFld s o hi lo v).sec = s.sec := wr_sec s _ _
@[simp] theorem setFld_cfg (o hi lo v : Nat) : (setFld s o hi lo v).cfg = s.cfg := wr_cfg s _ _
@[simp] theorem setFld_pwr (o hi lo v : Nat) : (setFld s o hi lo v).pwr = s.pwr := wr_pwr s _ _
@[simp] theorem setFld_hosts (o hi lo v : Nat) : (setFld s o hi lo v).hosts = s.hosts := wr_hosts s _ _
@[simp] theorem setFld_cnt (o hi lo v : Nat) : (setFld s o hi lo v).cnt = s.cnt := wr_cnt s _ _
@[simp] theorem setFld_arrivals (o hi lo v : Nat) : (setFld s o hi lo v).arrivals = s.arrivals := wr_arrivals s _ _
@[simp] theorem setFld_inbox (o hi lo v : Nat) : (setFld s o hi lo v).inbox = s.inbox := wr_inbox s _ _
@[simp] theorem setFld_freeIdx (o hi lo v : Nat) : (setFld s o hi lo v).freeIdx = s.freeIdx := wr_freeIdx s _ _
@[simp] theorem setFld_out (o hi lo v : Nat) : (setFld s o hi lo v).out = s.out := wr_out s _ _
@[simp] theorem setFld_pending (o hi lo v : Nat) : (setFld s o hi lo v).pending = s.pending := wr_pending s _ _

@[simp] theorem setBitOf_part (o n : Nat) (b : Bool) : (setBitOf s o n b).part = s.part := setFld_part s _ _ _ _
@[simp] theorem setBitOf_now (o n : Nat) (b : Bool) : (setBitOf s o n b).now = s.now := setFld_now s _ _ _ _
@[simp] theorem setBitOf_regs (o n : Nat) (b : Bool) : (setBitOf s o n b).regs = sset regReset s.regs o (BitVec.ofNat 32 (setBits (rd s o) n n (b2n b))) := rfl
@[simp] theorem setBitOf_lanes (o n : Nat) (b : Bool) : (setBitOf s o n b).lanes = s.lanes := setFld_lanes s _ _ _ _
@[simp] theorem setBitOf_links (o n : Nat) (b : Bool) : (setBitOf s o n b).links = s.links := setFld_links s _ _ _ _
@[simp] theorem setBitOf_psw (o n : Nat) (b : Bool) : (setBitOf s o n b).psw = s.psw := setFld_psw s _ _ _ _
@[simp] theorem setBitOf_sw (o n : Nat) (b : Bool) : (setBitOf s o n b).sw = s.sw := setFld_sw s _ _ _ _
@[simp] theorem setBitOf_e2e (o n : Nat) (b : Bool) : (setBitOf s o n b).e2e = s.e2e := setFld_e2e s _ _ _ _
@[simp] theorem setBitOf_homes (o n : Nat) (b : Bool) : (setBitOf s o n b).homes = s.homes := setFld_homes s _ _ _ _
@[simp] theorem setBitOf_hall (o n : Nat) (b : Bool) : (setBitOf s o n b).hall = s.hall := setFld_hall s _ _ _ _
@[simp] theorem setBitOf_coll (o n : Nat) (b : Bool) : (setBitOf s o n b).coll = s.coll := setFld_coll s _ _ _ _
@[simp] theorem setBitOf_res (o n : Nat) (b : Bool) : (setBitOf s o n b).res = s.res := setFld_res s _ _ _ _
@[simp] theorem setBitOf_sec (o n : Nat) (b : Bool) : (setBitOf s o n b).sec = s.sec := setFld_sec s _ _ _ _
@[simp] theorem setBitOf_cfg (o n : Nat) (b : Bool) : (setBitOf s o n b).cfg = s.cfg := setFld_cfg s _ _ _ _
@[simp] theorem setBitOf_pwr (o n : Nat) (b : Bool) : (setBitOf s o n b).pwr = s.pwr := setFld_pwr s _ _ _ _
@[simp] theorem setBitOf_hosts (o n : Nat) (b : Bool) : (setBitOf s o n b).hosts = s.hosts := setFld_hosts s _ _ _ _
@[simp] theorem setBitOf_cnt (o n : Nat) (b : Bool) : (setBitOf s o n b).cnt = s.cnt := setFld_cnt s _ _ _ _
@[simp] theorem setBitOf_arrivals (o n : Nat) (b : Bool) : (setBitOf s o n b).arrivals = s.arrivals := setFld_arrivals s _ _ _ _
@[simp] theorem setBitOf_inbox (o n : Nat) (b : Bool) : (setBitOf s o n b).inbox = s.inbox := setFld_inbox s _ _ _ _
@[simp] theorem setBitOf_freeIdx (o n : Nat) (b : Bool) : (setBitOf s o n b).freeIdx = s.freeIdx := setFld_freeIdx s _ _ _ _
@[simp] theorem setBitOf_out (o n : Nat) (b : Bool) : (setBitOf s o n b).out = s.out := setFld_out s _ _ _ _
@[simp] theorem setBitOf_pending (o n : Nat) (b : Bool) : (setBitOf s o n b).pending = s.pending := setFld_pending s _ _ _ _

@[simp] theorem wr64_part (o v : Nat) : (wr64 s o v).part = s.part := (wr_part _ _ _).trans (wr_part s _ _)
@[simp] theorem wr64_now (o v : Nat) : (wr64 s o v).now = s.now := (wr_now _ _ _).trans (wr_now s _ _)
@[simp] theorem wr64_lanes (o v : Nat) : (wr64 s o v).lanes = s.lanes := (wr_lanes _ _ _).trans (wr_lanes s _ _)
@[simp] theorem wr64_links (o v : Nat) : (wr64 s o v).links = s.links := (wr_links _ _ _).trans (wr_links s _ _)
@[simp] theorem wr64_psw (o v : Nat) : (wr64 s o v).psw = s.psw := (wr_psw _ _ _).trans (wr_psw s _ _)
@[simp] theorem wr64_sw (o v : Nat) : (wr64 s o v).sw = s.sw := (wr_sw _ _ _).trans (wr_sw s _ _)
@[simp] theorem wr64_e2e (o v : Nat) : (wr64 s o v).e2e = s.e2e := (wr_e2e _ _ _).trans (wr_e2e s _ _)
@[simp] theorem wr64_homes (o v : Nat) : (wr64 s o v).homes = s.homes := (wr_homes _ _ _).trans (wr_homes s _ _)
@[simp] theorem wr64_hall (o v : Nat) : (wr64 s o v).hall = s.hall := (wr_hall _ _ _).trans (wr_hall s _ _)
@[simp] theorem wr64_coll (o v : Nat) : (wr64 s o v).coll = s.coll := (wr_coll _ _ _).trans (wr_coll s _ _)
@[simp] theorem wr64_res (o v : Nat) : (wr64 s o v).res = s.res := (wr_res _ _ _).trans (wr_res s _ _)
@[simp] theorem wr64_sec (o v : Nat) : (wr64 s o v).sec = s.sec := (wr_sec _ _ _).trans (wr_sec s _ _)
@[simp] theorem wr64_cfg (o v : Nat) : (wr64 s o v).cfg = s.cfg := (wr_cfg _ _ _).trans (wr_cfg s _ _)
@[simp] theorem wr64_pwr (o v : Nat) : (wr64 s o v).pwr = s.pwr := (wr_pwr _ _ _).trans (wr_pwr s _ _)
@[simp] theorem wr64_hosts (o v : Nat) : (wr64 s o v).hosts = s.hosts := (wr_hosts _ _ _).trans (wr_hosts s _ _)
@[simp] theorem wr64_cnt (o v : Nat) : (wr64 s o v).cnt = s.cnt := (wr_cnt _ _ _).trans (wr_cnt s _ _)
@[simp] theorem wr64_arrivals (o v : Nat) : (wr64 s o v).arrivals = s.arrivals := (wr_arrivals _ _ _).trans (wr_arrivals s _ _)
@[simp] theorem wr64_inbox (o v : Nat) : (wr64 s o v).inbox = s.inbox := (wr_inbox _ _ _).trans (wr_inbox s _ _)
@[simp] theorem wr64_freeIdx (o v : Nat) : (wr64 s o v).freeIdx = s.freeIdx := (wr_freeIdx _ _ _).trans (wr_freeIdx s _ _)
@[simp] theorem wr64_out (o v : Nat) : (wr64 s o v).out = s.out := (wr_out _ _ _).trans (wr_out s _ _)
@[simp] theorem wr64_pending (o v : Nat) : (wr64 s o v).pending = s.pending := (wr_pending _ _ _).trans (wr_pending s _ _)

@[simp] theorem bump64_part (o v : Nat) : (bump64 s o v).part = s.part := wr64_part s _ _
@[simp] theorem bump64_now (o v : Nat) : (bump64 s o v).now = s.now := wr64_now s _ _
@[simp] theorem bump64_lanes (o v : Nat) : (bump64 s o v).lanes = s.lanes := wr64_lanes s _ _
@[simp] theorem bump64_links (o v : Nat) : (bump64 s o v).links = s.links := wr64_links s _ _
@[simp] theorem bump64_psw (o v : Nat) : (bump64 s o v).psw = s.psw := wr64_psw s _ _
@[simp] theorem bump64_sw (o v : Nat) : (bump64 s o v).sw = s.sw := wr64_sw s _ _
@[simp] theorem bump64_e2e (o v : Nat) : (bump64 s o v).e2e = s.e2e := wr64_e2e s _ _
@[simp] theorem bump64_homes (o v : Nat) : (bump64 s o v).homes = s.homes := wr64_homes s _ _
@[simp] theorem bump64_hall (o v : Nat) : (bump64 s o v).hall = s.hall := wr64_hall s _ _
@[simp] theorem bump64_coll (o v : Nat) : (bump64 s o v).coll = s.coll := wr64_coll s _ _
@[simp] theorem bump64_res (o v : Nat) : (bump64 s o v).res = s.res := wr64_res s _ _
@[simp] theorem bump64_sec (o v : Nat) : (bump64 s o v).sec = s.sec := wr64_sec s _ _
@[simp] theorem bump64_cfg (o v : Nat) : (bump64 s o v).cfg = s.cfg := wr64_cfg s _ _
@[simp] theorem bump64_pwr (o v : Nat) : (bump64 s o v).pwr = s.pwr := wr64_pwr s _ _
@[simp] theorem bump64_hosts (o v : Nat) : (bump64 s o v).hosts = s.hosts := wr64_hosts s _ _
@[simp] theorem bump64_cnt (o v : Nat) : (bump64 s o v).cnt = s.cnt := wr64_cnt s _ _
@[simp] theorem bump64_arrivals (o v : Nat) : (bump64 s o v).arrivals = s.arrivals := wr64_arrivals s _ _
@[simp] theorem bump64_inbox (o v : Nat) : (bump64 s o v).inbox = s.inbox := wr64_inbox s _ _
@[simp] theorem bump64_freeIdx (o v : Nat) : (bump64 s o v).freeIdx = s.freeIdx := wr64_freeIdx s _ _
@[simp] theorem bump64_out (o v : Nat) : (bump64 s o v).out = s.out := wr64_out s _ _
@[simp] theorem bump64_pending (o v : Nat) : (bump64 s o v).pending = s.pending := wr64_pending s _ _

@[simp] theorem bumpSat_part (o hi lo k : Nat) : (bumpSat s o hi lo k).part = s.part := setFld_part s _ _ _ _
@[simp] theorem bumpSat_now (o hi lo k : Nat) : (bumpSat s o hi lo k).now = s.now := setFld_now s _ _ _ _
@[simp] theorem bumpSat_lanes (o hi lo k : Nat) : (bumpSat s o hi lo k).lanes = s.lanes := setFld_lanes s _ _ _ _
@[simp] theorem bumpSat_links (o hi lo k : Nat) : (bumpSat s o hi lo k).links = s.links := setFld_links s _ _ _ _
@[simp] theorem bumpSat_psw (o hi lo k : Nat) : (bumpSat s o hi lo k).psw = s.psw := setFld_psw s _ _ _ _
@[simp] theorem bumpSat_sw (o hi lo k : Nat) : (bumpSat s o hi lo k).sw = s.sw := setFld_sw s _ _ _ _
@[simp] theorem bumpSat_e2e (o hi lo k : Nat) : (bumpSat s o hi lo k).e2e = s.e2e := setFld_e2e s _ _ _ _
@[simp] theorem bumpSat_homes (o hi lo k : Nat) : (bumpSat s o hi lo k).homes = s.homes := setFld_homes s _ _ _ _
@[simp] theorem bumpSat_hall (o hi lo k : Nat) : (bumpSat s o hi lo k).hall = s.hall := setFld_hall s _ _ _ _
@[simp] theorem bumpSat_coll (o hi lo k : Nat) : (bumpSat s o hi lo k).coll = s.coll := setFld_coll s _ _ _ _
@[simp] theorem bumpSat_res (o hi lo k : Nat) : (bumpSat s o hi lo k).res = s.res := setFld_res s _ _ _ _
@[simp] theorem bumpSat_sec (o hi lo k : Nat) : (bumpSat s o hi lo k).sec = s.sec := setFld_sec s _ _ _ _
@[simp] theorem bumpSat_cfg (o hi lo k : Nat) : (bumpSat s o hi lo k).cfg = s.cfg := setFld_cfg s _ _ _ _
@[simp] theorem bumpSat_pwr (o hi lo k : Nat) : (bumpSat s o hi lo k).pwr = s.pwr := setFld_pwr s _ _ _ _
@[simp] theorem bumpSat_hosts (o hi lo k : Nat) : (bumpSat s o hi lo k).hosts = s.hosts := setFld_hosts s _ _ _ _
@[simp] theorem bumpSat_cnt (o hi lo k : Nat) : (bumpSat s o hi lo k).cnt = s.cnt := setFld_cnt s _ _ _ _
@[simp] theorem bumpSat_arrivals (o hi lo k : Nat) : (bumpSat s o hi lo k).arrivals = s.arrivals := setFld_arrivals s _ _ _ _
@[simp] theorem bumpSat_inbox (o hi lo k : Nat) : (bumpSat s o hi lo k).inbox = s.inbox := setFld_inbox s _ _ _ _
@[simp] theorem bumpSat_freeIdx (o hi lo k : Nat) : (bumpSat s o hi lo k).freeIdx = s.freeIdx := setFld_freeIdx s _ _ _ _
@[simp] theorem bumpSat_out (o hi lo k : Nat) : (bumpSat s o hi lo k).out = s.out := setFld_out s _ _ _ _
@[simp] theorem bumpSat_pending (o hi lo k : Nat) : (bumpSat s o hi lo k).pending = s.pending := setFld_pending s _ _ _ _

@[simp] theorem setOvf_part (n : Nat) : (setOvf s n).part = s.part := setBitOf_part s _ _ _
@[simp] theorem setOvf_now (n : Nat) : (setOvf s n).now = s.now := setBitOf_now s _ _ _
@[simp] theorem setOvf_lanes (n : Nat) : (setOvf s n).lanes = s.lanes := setBitOf_lanes s _ _ _
@[simp] theorem setOvf_links (n : Nat) : (setOvf s n).links = s.links := setBitOf_links s _ _ _
@[simp] theorem setOvf_psw (n : Nat) : (setOvf s n).psw = s.psw := setBitOf_psw s _ _ _
@[simp] theorem setOvf_sw (n : Nat) : (setOvf s n).sw = s.sw := setBitOf_sw s _ _ _
@[simp] theorem setOvf_e2e (n : Nat) : (setOvf s n).e2e = s.e2e := setBitOf_e2e s _ _ _
@[simp] theorem setOvf_homes (n : Nat) : (setOvf s n).homes = s.homes := setBitOf_homes s _ _ _
@[simp] theorem setOvf_hall (n : Nat) : (setOvf s n).hall = s.hall := setBitOf_hall s _ _ _
@[simp] theorem setOvf_coll (n : Nat) : (setOvf s n).coll = s.coll := setBitOf_coll s _ _ _
@[simp] theorem setOvf_res (n : Nat) : (setOvf s n).res = s.res := setBitOf_res s _ _ _
@[simp] theorem setOvf_sec (n : Nat) : (setOvf s n).sec = s.sec := setBitOf_sec s _ _ _
@[simp] theorem setOvf_cfg (n : Nat) : (setOvf s n).cfg = s.cfg := setBitOf_cfg s _ _ _
@[simp] theorem setOvf_pwr (n : Nat) : (setOvf s n).pwr = s.pwr := setBitOf_pwr s _ _ _
@[simp] theorem setOvf_hosts (n : Nat) : (setOvf s n).hosts = s.hosts := setBitOf_hosts s _ _ _
@[simp] theorem setOvf_cnt (n : Nat) : (setOvf s n).cnt = s.cnt := setBitOf_cnt s _ _ _
@[simp] theorem setOvf_arrivals (n : Nat) : (setOvf s n).arrivals = s.arrivals := setBitOf_arrivals s _ _ _
@[simp] theorem setOvf_inbox (n : Nat) : (setOvf s n).inbox = s.inbox := setBitOf_inbox s _ _ _
@[simp] theorem setOvf_freeIdx (n : Nat) : (setOvf s n).freeIdx = s.freeIdx := setBitOf_freeIdx s _ _ _
@[simp] theorem setOvf_out (n : Nat) : (setOvf s n).out = s.out := setBitOf_out s _ _ _
@[simp] theorem setOvf_pending (n : Nat) : (setOvf s n).pending = s.pending := setBitOf_pending s _ _ _

@[simp] theorem evSet_part (n v : Nat) : (evSet s n v).part = s.part := rfl
@[simp] theorem evSet_now (n v : Nat) : (evSet s n v).now = s.now := rfl
@[simp] theorem evSet_regs (n v : Nat) : (evSet s n v).regs = s.regs := rfl
@[simp] theorem evSet_lanes (n v : Nat) : (evSet s n v).lanes = s.lanes := rfl
@[simp] theorem evSet_links (n v : Nat) : (evSet s n v).links = s.links := rfl
@[simp] theorem evSet_psw (n v : Nat) : (evSet s n v).psw = s.psw := rfl
@[simp] theorem evSet_sw (n v : Nat) : (evSet s n v).sw = s.sw := rfl
@[simp] theorem evSet_e2e (n v : Nat) : (evSet s n v).e2e = s.e2e := rfl
@[simp] theorem evSet_homes (n v : Nat) : (evSet s n v).homes = s.homes := rfl
@[simp] theorem evSet_hall (n v : Nat) : (evSet s n v).hall = s.hall := rfl
@[simp] theorem evSet_coll (n v : Nat) : (evSet s n v).coll = s.coll := rfl
@[simp] theorem evSet_res (n v : Nat) : (evSet s n v).res = s.res := rfl
@[simp] theorem evSet_sec (n v : Nat) : (evSet s n v).sec = s.sec := rfl
@[simp] theorem evSet_cfg (n v : Nat) : (evSet s n v).cfg = s.cfg := rfl
@[simp] theorem evSet_pwr (n v : Nat) : (evSet s n v).pwr = s.pwr := rfl
@[simp] theorem evSet_hosts (n v : Nat) : (evSet s n v).hosts = s.hosts := rfl
@[simp] theorem evSet_cnt (n v : Nat) : (evSet s n v).cnt = { s.cnt with ev := cset (0 : BitVec 48) s.cnt.ev n (BitVec.ofNat 48 v) } := rfl
@[simp] theorem evSet_arrivals (n v : Nat) : (evSet s n v).arrivals = s.arrivals := rfl
@[simp] theorem evSet_inbox (n v : Nat) : (evSet s n v).inbox = s.inbox := rfl
@[simp] theorem evSet_freeIdx (n v : Nat) : (evSet s n v).freeIdx = s.freeIdx := rfl
@[simp] theorem evSet_out (n v : Nat) : (evSet s n v).out = s.out := rfl
@[simp] theorem evSet_pending (n v : Nat) : (evSet s n v).pending = s.pending := rfl

@[simp] theorem takeFree_part : (takeFree s).part = s.part := rfl
@[simp] theorem takeFree_now : (takeFree s).now = s.now := rfl
@[simp] theorem takeFree_regs : (takeFree s).regs = s.regs := rfl
@[simp] theorem takeFree_lanes : (takeFree s).lanes = s.lanes := rfl
@[simp] theorem takeFree_links : (takeFree s).links = s.links := rfl
@[simp] theorem takeFree_psw : (takeFree s).psw = s.psw := rfl
@[simp] theorem takeFree_sw : (takeFree s).sw = s.sw := rfl
@[simp] theorem takeFree_e2e : (takeFree s).e2e = s.e2e := rfl
@[simp] theorem takeFree_homes : (takeFree s).homes = s.homes := rfl
@[simp] theorem takeFree_hall : (takeFree s).hall = s.hall := rfl
@[simp] theorem takeFree_coll : (takeFree s).coll = s.coll := rfl
@[simp] theorem takeFree_res : (takeFree s).res = s.res := rfl
@[simp] theorem takeFree_sec : (takeFree s).sec = s.sec := rfl
@[simp] theorem takeFree_cfg : (takeFree s).cfg = s.cfg := rfl
@[simp] theorem takeFree_pwr : (takeFree s).pwr = s.pwr := rfl
@[simp] theorem takeFree_hosts : (takeFree s).hosts = s.hosts := rfl
@[simp] theorem takeFree_cnt : (takeFree s).cnt = s.cnt := rfl
@[simp] theorem takeFree_arrivals : (takeFree s).arrivals = s.arrivals := rfl
@[simp] theorem takeFree_inbox : (takeFree s).inbox = s.inbox := rfl
@[simp] theorem takeFree_freeIdx : (takeFree s).freeIdx = s.freeIdx + 1 := rfl
@[simp] theorem takeFree_out : (takeFree s).out = s.out := rfl
@[simp] theorem takeFree_pending : (takeFree s).pending = s.pending := rfl

@[simp] theorem emit_part (e : OutEvent) : (emit s e).part = s.part := rfl
@[simp] theorem emit_now (e : OutEvent) : (emit s e).now = s.now := rfl
@[simp] theorem emit_regs (e : OutEvent) : (emit s e).regs = s.regs := rfl
@[simp] theorem emit_lanes (e : OutEvent) : (emit s e).lanes = s.lanes := rfl
@[simp] theorem emit_links (e : OutEvent) : (emit s e).links = s.links := rfl
@[simp] theorem emit_psw (e : OutEvent) : (emit s e).psw = s.psw := rfl
@[simp] theorem emit_sw (e : OutEvent) : (emit s e).sw = s.sw := rfl
@[simp] theorem emit_e2e (e : OutEvent) : (emit s e).e2e = s.e2e := rfl
@[simp] theorem emit_homes (e : OutEvent) : (emit s e).homes = s.homes := rfl
@[simp] theorem emit_hall (e : OutEvent) : (emit s e).hall = s.hall := rfl
@[simp] theorem emit_coll (e : OutEvent) : (emit s e).coll = s.coll := rfl
@[simp] theorem emit_res (e : OutEvent) : (emit s e).res = s.res := rfl
@[simp] theorem emit_sec (e : OutEvent) : (emit s e).sec = s.sec := rfl
@[simp] theorem emit_cfg (e : OutEvent) : (emit s e).cfg = s.cfg := rfl
@[simp] theorem emit_pwr (e : OutEvent) : (emit s e).pwr = s.pwr := rfl
@[simp] theorem emit_hosts (e : OutEvent) : (emit s e).hosts = s.hosts := rfl
@[simp] theorem emit_cnt (e : OutEvent) : (emit s e).cnt = s.cnt := rfl
@[simp] theorem emit_arrivals (e : OutEvent) : (emit s e).arrivals = s.arrivals := rfl
@[simp] theorem emit_inbox (e : OutEvent) : (emit s e).inbox = s.inbox := rfl
@[simp] theorem emit_freeIdx (e : OutEvent) : (emit s e).freeIdx = s.freeIdx := rfl
@[simp] theorem emit_out (e : OutEvent) : (emit s e).out = s.out ++ [e] := rfl
@[simp] theorem emit_pending (e : OutEvent) : (emit s e).pending = s.pending := rfl

@[simp] theorem noteWindow_part (k p : Nat) : (noteWindow s k p).part = s.part := rfl
@[simp] theorem noteWindow_now (k p : Nat) : (noteWindow s k p).now = s.now := rfl
@[simp] theorem noteWindow_regs (k p : Nat) : (noteWindow s k p).regs = s.regs := rfl
@[simp] theorem noteWindow_lanes (k p : Nat) : (noteWindow s k p).lanes = s.lanes := rfl
@[simp] theorem noteWindow_links (k p : Nat) : (noteWindow s k p).links = s.links := rfl
@[simp] theorem noteWindow_psw (k p : Nat) : (noteWindow s k p).psw = s.psw := rfl
@[simp] theorem noteWindow_sw (k p : Nat) : (noteWindow s k p).sw = s.sw := rfl
@[simp] theorem noteWindow_e2e (k p : Nat) : (noteWindow s k p).e2e = s.e2e := rfl
@[simp] theorem noteWindow_homes (k p : Nat) : (noteWindow s k p).homes = s.homes := rfl
@[simp] theorem noteWindow_hall (k p : Nat) : (noteWindow s k p).hall = s.hall := rfl
@[simp] theorem noteWindow_coll (k p : Nat) : (noteWindow s k p).coll = s.coll := rfl
@[simp] theorem noteWindow_sec (k p : Nat) : (noteWindow s k p).sec = s.sec := rfl
@[simp] theorem noteWindow_cfg (k p : Nat) : (noteWindow s k p).cfg = s.cfg := rfl
@[simp] theorem noteWindow_pwr (k p : Nat) : (noteWindow s k p).pwr = s.pwr := rfl
@[simp] theorem noteWindow_hosts (k p : Nat) : (noteWindow s k p).hosts = s.hosts := rfl
@[simp] theorem noteWindow_cnt (k p : Nat) : (noteWindow s k p).cnt = s.cnt := rfl
@[simp] theorem noteWindow_arrivals (k p : Nat) : (noteWindow s k p).arrivals = s.arrivals := rfl
@[simp] theorem noteWindow_inbox (k p : Nat) : (noteWindow s k p).inbox = s.inbox := rfl
@[simp] theorem noteWindow_freeIdx (k p : Nat) : (noteWindow s k p).freeIdx = s.freeIdx := rfl
@[simp] theorem noteWindow_out (k p : Nat) : (noteWindow s k p).out = s.out := rfl
@[simp] theorem noteWindow_pending (k p : Nat) : (noteWindow s k p).pending = s.pending := rfl

@[simp] theorem setLink_part (p : Nat) (l : PortLink) : (setLink s p l).part = s.part := rfl
@[simp] theorem setLink_now (p : Nat) (l : PortLink) : (setLink s p l).now = s.now := rfl
@[simp] theorem setLink_regs (p : Nat) (l : PortLink) : (setLink s p l).regs = s.regs := rfl
@[simp] theorem setLink_lanes (p : Nat) (l : PortLink) : (setLink s p l).lanes = s.lanes := rfl
@[simp] theorem setLink_links (p : Nat) (l : PortLink) : (setLink s p l).links = cset {} s.links p l := rfl
@[simp] theorem setLink_psw (p : Nat) (l : PortLink) : (setLink s p l).psw = s.psw := rfl
@[simp] theorem setLink_sw (p : Nat) (l : PortLink) : (setLink s p l).sw = s.sw := rfl
@[simp] theorem setLink_e2e (p : Nat) (l : PortLink) : (setLink s p l).e2e = s.e2e := rfl
@[simp] theorem setLink_homes (p : Nat) (l : PortLink) : (setLink s p l).homes = s.homes := rfl
@[simp] theorem setLink_hall (p : Nat) (l : PortLink) : (setLink s p l).hall = s.hall := rfl
@[simp] theorem setLink_coll (p : Nat) (l : PortLink) : (setLink s p l).coll = s.coll := rfl
@[simp] theorem setLink_res (p : Nat) (l : PortLink) : (setLink s p l).res = s.res := rfl
@[simp] theorem setLink_sec (p : Nat) (l : PortLink) : (setLink s p l).sec = s.sec := rfl
@[simp] theorem setLink_cfg (p : Nat) (l : PortLink) : (setLink s p l).cfg = s.cfg := rfl
@[simp] theorem setLink_pwr (p : Nat) (l : PortLink) : (setLink s p l).pwr = s.pwr := rfl
@[simp] theorem setLink_hosts (p : Nat) (l : PortLink) : (setLink s p l).hosts = s.hosts := rfl
@[simp] theorem setLink_cnt (p : Nat) (l : PortLink) : (setLink s p l).cnt = s.cnt := rfl
@[simp] theorem setLink_arrivals (p : Nat) (l : PortLink) : (setLink s p l).arrivals = s.arrivals := rfl
@[simp] theorem setLink_inbox (p : Nat) (l : PortLink) : (setLink s p l).inbox = s.inbox := rfl
@[simp] theorem setLink_freeIdx (p : Nat) (l : PortLink) : (setLink s p l).freeIdx = s.freeIdx := rfl
@[simp] theorem setLink_out (p : Nat) (l : PortLink) : (setLink s p l).out = s.out := rfl
@[simp] theorem setLink_pending (p : Nat) (l : PortLink) : (setLink s p l).pending = s.pending := rfl

@[simp] theorem setLane_part (n : Nat) (l : Lane) : (setLane s n l).part = s.part := rfl
@[simp] theorem setLane_now (n : Nat) (l : Lane) : (setLane s n l).now = s.now := rfl
@[simp] theorem setLane_regs (n : Nat) (l : Lane) : (setLane s n l).regs = s.regs := rfl
@[simp] theorem setLane_lanes (n : Nat) (l : Lane) : (setLane s n l).lanes = cset {} s.lanes n l := rfl
@[simp] theorem setLane_links (n : Nat) (l : Lane) : (setLane s n l).links = s.links := rfl
@[simp] theorem setLane_psw (n : Nat) (l : Lane) : (setLane s n l).psw = s.psw := rfl
@[simp] theorem setLane_sw (n : Nat) (l : Lane) : (setLane s n l).sw = s.sw := rfl
@[simp] theorem setLane_e2e (n : Nat) (l : Lane) : (setLane s n l).e2e = s.e2e := rfl
@[simp] theorem setLane_homes (n : Nat) (l : Lane) : (setLane s n l).homes = s.homes := rfl
@[simp] theorem setLane_hall (n : Nat) (l : Lane) : (setLane s n l).hall = s.hall := rfl
@[simp] theorem setLane_coll (n : Nat) (l : Lane) : (setLane s n l).coll = s.coll := rfl
@[simp] theorem setLane_res (n : Nat) (l : Lane) : (setLane s n l).res = s.res := rfl
@[simp] theorem setLane_sec (n : Nat) (l : Lane) : (setLane s n l).sec = s.sec := rfl
@[simp] theorem setLane_cfg (n : Nat) (l : Lane) : (setLane s n l).cfg = s.cfg := rfl
@[simp] theorem setLane_pwr (n : Nat) (l : Lane) : (setLane s n l).pwr = s.pwr := rfl
@[simp] theorem setLane_hosts (n : Nat) (l : Lane) : (setLane s n l).hosts = s.hosts := rfl
@[simp] theorem setLane_cnt (n : Nat) (l : Lane) : (setLane s n l).cnt = s.cnt := rfl
@[simp] theorem setLane_arrivals (n : Nat) (l : Lane) : (setLane s n l).arrivals = s.arrivals := rfl
@[simp] theorem setLane_inbox (n : Nat) (l : Lane) : (setLane s n l).inbox = s.inbox := rfl
@[simp] theorem setLane_freeIdx (n : Nat) (l : Lane) : (setLane s n l).freeIdx = s.freeIdx := rfl
@[simp] theorem setLane_out (n : Nat) (l : Lane) : (setLane s n l).out = s.out := rfl
@[simp] theorem setLane_pending (n : Nat) (l : Lane) : (setLane s n l).pending = s.pending := rfl

@[simp] theorem setPsw_part (e : Nat) (x : PortSw) : (setPsw s e x).part = s.part := rfl
@[simp] theorem setPsw_now (e : Nat) (x : PortSw) : (setPsw s e x).now = s.now := rfl
@[simp] theorem setPsw_regs (e : Nat) (x : PortSw) : (setPsw s e x).regs = s.regs := rfl
@[simp] theorem setPsw_lanes (e : Nat) (x : PortSw) : (setPsw s e x).lanes = s.lanes := rfl
@[simp] theorem setPsw_links (e : Nat) (x : PortSw) : (setPsw s e x).links = s.links := rfl
@[simp] theorem setPsw_psw (e : Nat) (x : PortSw) : (setPsw s e x).psw = cset {} s.psw e x := rfl
@[simp] theorem setPsw_sw (e : Nat) (x : PortSw) : (setPsw s e x).sw = s.sw := rfl
@[simp] theorem setPsw_e2e (e : Nat) (x : PortSw) : (setPsw s e x).e2e = s.e2e := rfl
@[simp] theorem setPsw_homes (e : Nat) (x : PortSw) : (setPsw s e x).homes = s.homes := rfl
@[simp] theorem setPsw_hall (e : Nat) (x : PortSw) : (setPsw s e x).hall = s.hall := rfl
@[simp] theorem setPsw_coll (e : Nat) (x : PortSw) : (setPsw s e x).coll = s.coll := rfl
@[simp] theorem setPsw_res (e : Nat) (x : PortSw) : (setPsw s e x).res = s.res := rfl
@[simp] theorem setPsw_sec (e : Nat) (x : PortSw) : (setPsw s e x).sec = s.sec := rfl
@[simp] theorem setPsw_cfg (e : Nat) (x : PortSw) : (setPsw s e x).cfg = s.cfg := rfl
@[simp] theorem setPsw_pwr (e : Nat) (x : PortSw) : (setPsw s e x).pwr = s.pwr := rfl
@[simp] theorem setPsw_hosts (e : Nat) (x : PortSw) : (setPsw s e x).hosts = s.hosts := rfl
@[simp] theorem setPsw_cnt (e : Nat) (x : PortSw) : (setPsw s e x).cnt = s.cnt := rfl
@[simp] theorem setPsw_arrivals (e : Nat) (x : PortSw) : (setPsw s e x).arrivals = s.arrivals := rfl
@[simp] theorem setPsw_inbox (e : Nat) (x : PortSw) : (setPsw s e x).inbox = s.inbox := rfl
@[simp] theorem setPsw_freeIdx (e : Nat) (x : PortSw) : (setPsw s e x).freeIdx = s.freeIdx := rfl
@[simp] theorem setPsw_out (e : Nat) (x : PortSw) : (setPsw s e x).out = s.out := rfl
@[simp] theorem setPsw_pending (e : Nat) (x : PortSw) : (setPsw s e x).pending = s.pending := rfl

@[simp] theorem pushEntry_part (e : QEntry) : (pushEntry s e).part = s.part := rfl
@[simp] theorem pushEntry_now (e : QEntry) : (pushEntry s e).now = s.now := rfl
@[simp] theorem pushEntry_regs (e : QEntry) : (pushEntry s e).regs = s.regs := rfl
@[simp] theorem pushEntry_lanes (e : QEntry) : (pushEntry s e).lanes = s.lanes := rfl
@[simp] theorem pushEntry_links (e : QEntry) : (pushEntry s e).links = s.links := rfl
@[simp] theorem pushEntry_psw (e : QEntry) : (pushEntry s e).psw = s.psw := rfl
@[simp] theorem pushEntry_sw (e : QEntry) : (pushEntry s e).sw = { s.sw with queue := s.sw.queue ++ [e] } := rfl
@[simp] theorem pushEntry_e2e (e : QEntry) : (pushEntry s e).e2e = s.e2e := rfl
@[simp] theorem pushEntry_homes (e : QEntry) : (pushEntry s e).homes = s.homes := rfl
@[simp] theorem pushEntry_hall (e : QEntry) : (pushEntry s e).hall = s.hall := rfl
@[simp] theorem pushEntry_coll (e : QEntry) : (pushEntry s e).coll = s.coll := rfl
@[simp] theorem pushEntry_res (e : QEntry) : (pushEntry s e).res = s.res := rfl
@[simp] theorem pushEntry_sec (e : QEntry) : (pushEntry s e).sec = s.sec := rfl
@[simp] theorem pushEntry_cfg (e : QEntry) : (pushEntry s e).cfg = s.cfg := rfl
@[simp] theorem pushEntry_pwr (e : QEntry) : (pushEntry s e).pwr = s.pwr := rfl
@[simp] theorem pushEntry_hosts (e : QEntry) : (pushEntry s e).hosts = s.hosts := rfl
@[simp] theorem pushEntry_cnt (e : QEntry) : (pushEntry s e).cnt = s.cnt := rfl
@[simp] theorem pushEntry_arrivals (e : QEntry) : (pushEntry s e).arrivals = s.arrivals := rfl
@[simp] theorem pushEntry_inbox (e : QEntry) : (pushEntry s e).inbox = s.inbox := rfl
@[simp] theorem pushEntry_freeIdx (e : QEntry) : (pushEntry s e).freeIdx = s.freeIdx := rfl
@[simp] theorem pushEntry_out (e : QEntry) : (pushEntry s e).out = s.out := rfl
@[simp] theorem pushEntry_pending (e : QEntry) : (pushEntry s e).pending = s.pending := rfl

@[simp] theorem setPairCtx_part (c : PairCtx) : (setPairCtx s c).part = s.part := rfl
@[simp] theorem setPairCtx_now (c : PairCtx) : (setPairCtx s c).now = s.now := rfl
@[simp] theorem setPairCtx_regs (c : PairCtx) : (setPairCtx s c).regs = s.regs := rfl
@[simp] theorem setPairCtx_lanes (c : PairCtx) : (setPairCtx s c).lanes = s.lanes := rfl
@[simp] theorem setPairCtx_links (c : PairCtx) : (setPairCtx s c).links = s.links := rfl
@[simp] theorem setPairCtx_psw (c : PairCtx) : (setPairCtx s c).psw = s.psw := rfl
@[simp] theorem setPairCtx_sw (c : PairCtx) : (setPairCtx s c).sw = s.sw := rfl
@[simp] theorem setPairCtx_homes (c : PairCtx) : (setPairCtx s c).homes = s.homes := rfl
@[simp] theorem setPairCtx_hall (c : PairCtx) : (setPairCtx s c).hall = s.hall := rfl
@[simp] theorem setPairCtx_coll (c : PairCtx) : (setPairCtx s c).coll = s.coll := rfl
@[simp] theorem setPairCtx_res (c : PairCtx) : (setPairCtx s c).res = s.res := rfl
@[simp] theorem setPairCtx_sec (c : PairCtx) : (setPairCtx s c).sec = s.sec := rfl
@[simp] theorem setPairCtx_cfg (c : PairCtx) : (setPairCtx s c).cfg = s.cfg := rfl
@[simp] theorem setPairCtx_pwr (c : PairCtx) : (setPairCtx s c).pwr = s.pwr := rfl
@[simp] theorem setPairCtx_hosts (c : PairCtx) : (setPairCtx s c).hosts = s.hosts := rfl
@[simp] theorem setPairCtx_cnt (c : PairCtx) : (setPairCtx s c).cnt = s.cnt := rfl
@[simp] theorem setPairCtx_arrivals (c : PairCtx) : (setPairCtx s c).arrivals = s.arrivals := rfl
@[simp] theorem setPairCtx_inbox (c : PairCtx) : (setPairCtx s c).inbox = s.inbox := rfl
@[simp] theorem setPairCtx_freeIdx (c : PairCtx) : (setPairCtx s c).freeIdx = s.freeIdx := rfl
@[simp] theorem setPairCtx_out (c : PairCtx) : (setPairCtx s c).out = s.out := rfl
@[simp] theorem setPairCtx_pending (c : PairCtx) : (setPairCtx s c).pending = s.pending := rfl

@[simp] theorem setSrcPair_part (x : SrcPair) : (setSrcPair s x).part = s.part := rfl
@[simp] theorem setSrcPair_now (x : SrcPair) : (setSrcPair s x).now = s.now := rfl
@[simp] theorem setSrcPair_regs (x : SrcPair) : (setSrcPair s x).regs = s.regs := rfl
@[simp] theorem setSrcPair_lanes (x : SrcPair) : (setSrcPair s x).lanes = s.lanes := rfl
@[simp] theorem setSrcPair_links (x : SrcPair) : (setSrcPair s x).links = s.links := rfl
@[simp] theorem setSrcPair_psw (x : SrcPair) : (setSrcPair s x).psw = s.psw := rfl
@[simp] theorem setSrcPair_sw (x : SrcPair) : (setSrcPair s x).sw = s.sw := rfl
@[simp] theorem setSrcPair_homes (x : SrcPair) : (setSrcPair s x).homes = s.homes := rfl
@[simp] theorem setSrcPair_hall (x : SrcPair) : (setSrcPair s x).hall = s.hall := rfl
@[simp] theorem setSrcPair_coll (x : SrcPair) : (setSrcPair s x).coll = s.coll := rfl
@[simp] theorem setSrcPair_res (x : SrcPair) : (setSrcPair s x).res = s.res := rfl
@[simp] theorem setSrcPair_sec (x : SrcPair) : (setSrcPair s x).sec = s.sec := rfl
@[simp] theorem setSrcPair_cfg (x : SrcPair) : (setSrcPair s x).cfg = s.cfg := rfl
@[simp] theorem setSrcPair_pwr (x : SrcPair) : (setSrcPair s x).pwr = s.pwr := rfl
@[simp] theorem setSrcPair_hosts (x : SrcPair) : (setSrcPair s x).hosts = s.hosts := rfl
@[simp] theorem setSrcPair_cnt (x : SrcPair) : (setSrcPair s x).cnt = s.cnt := rfl
@[simp] theorem setSrcPair_arrivals (x : SrcPair) : (setSrcPair s x).arrivals = s.arrivals := rfl
@[simp] theorem setSrcPair_inbox (x : SrcPair) : (setSrcPair s x).inbox = s.inbox := rfl
@[simp] theorem setSrcPair_freeIdx (x : SrcPair) : (setSrcPair s x).freeIdx = s.freeIdx := rfl
@[simp] theorem setSrcPair_out (x : SrcPair) : (setSrcPair s x).out = s.out := rfl
@[simp] theorem setSrcPair_pending (x : SrcPair) : (setSrcPair s x).pending = s.pending := rfl

@[simp] theorem updOut_part (r : OutReq) : (updOut s r).part = s.part := rfl
@[simp] theorem updOut_now (r : OutReq) : (updOut s r).now = s.now := rfl
@[simp] theorem updOut_regs (r : OutReq) : (updOut s r).regs = s.regs := rfl
@[simp] theorem updOut_lanes (r : OutReq) : (updOut s r).lanes = s.lanes := rfl
@[simp] theorem updOut_links (r : OutReq) : (updOut s r).links = s.links := rfl
@[simp] theorem updOut_psw (r : OutReq) : (updOut s r).psw = s.psw := rfl
@[simp] theorem updOut_sw (r : OutReq) : (updOut s r).sw = s.sw := rfl
@[simp] theorem updOut_homes (r : OutReq) : (updOut s r).homes = s.homes := rfl
@[simp] theorem updOut_hall (r : OutReq) : (updOut s r).hall = s.hall := rfl
@[simp] theorem updOut_coll (r : OutReq) : (updOut s r).coll = s.coll := rfl
@[simp] theorem updOut_res (r : OutReq) : (updOut s r).res = s.res := rfl
@[simp] theorem updOut_sec (r : OutReq) : (updOut s r).sec = s.sec := rfl
@[simp] theorem updOut_cfg (r : OutReq) : (updOut s r).cfg = s.cfg := rfl
@[simp] theorem updOut_pwr (r : OutReq) : (updOut s r).pwr = s.pwr := rfl
@[simp] theorem updOut_hosts (r : OutReq) : (updOut s r).hosts = s.hosts := rfl
@[simp] theorem updOut_cnt (r : OutReq) : (updOut s r).cnt = s.cnt := rfl
@[simp] theorem updOut_arrivals (r : OutReq) : (updOut s r).arrivals = s.arrivals := rfl
@[simp] theorem updOut_inbox (r : OutReq) : (updOut s r).inbox = s.inbox := rfl
@[simp] theorem updOut_freeIdx (r : OutReq) : (updOut s r).freeIdx = s.freeIdx := rfl
@[simp] theorem updOut_out (r : OutReq) : (updOut s r).out = s.out := rfl
@[simp] theorem updOut_pending (r : OutReq) : (updOut s r).pending = s.pending := rfl

@[simp] theorem memWriteLine_part (l : Nat) (bs : List Byte) : (memWriteLine s l bs).part = s.part := rfl
@[simp] theorem memWriteLine_now (l : Nat) (bs : List Byte) : (memWriteLine s l bs).now = s.now := rfl
@[simp] theorem memWriteLine_regs (l : Nat) (bs : List Byte) : (memWriteLine s l bs).regs = s.regs := rfl
@[simp] theorem memWriteLine_lanes (l : Nat) (bs : List Byte) : (memWriteLine s l bs).lanes = s.lanes := rfl
@[simp] theorem memWriteLine_links (l : Nat) (bs : List Byte) : (memWriteLine s l bs).links = s.links := rfl
@[simp] theorem memWriteLine_psw (l : Nat) (bs : List Byte) : (memWriteLine s l bs).psw = s.psw := rfl
@[simp] theorem memWriteLine_sw (l : Nat) (bs : List Byte) : (memWriteLine s l bs).sw = s.sw := rfl
@[simp] theorem memWriteLine_e2e (l : Nat) (bs : List Byte) : (memWriteLine s l bs).e2e = s.e2e := rfl
@[simp] theorem memWriteLine_homes (l : Nat) (bs : List Byte) : (memWriteLine s l bs).homes = { s.homes with mem := cellWrite s.homes.mem (l * 128) (slice bs 0 128) } := rfl
@[simp] theorem memWriteLine_hall (l : Nat) (bs : List Byte) : (memWriteLine s l bs).hall = s.hall := rfl
@[simp] theorem memWriteLine_coll (l : Nat) (bs : List Byte) : (memWriteLine s l bs).coll = s.coll := rfl
@[simp] theorem memWriteLine_res (l : Nat) (bs : List Byte) : (memWriteLine s l bs).res = s.res := rfl
@[simp] theorem memWriteLine_sec (l : Nat) (bs : List Byte) : (memWriteLine s l bs).sec = s.sec := rfl
@[simp] theorem memWriteLine_cfg (l : Nat) (bs : List Byte) : (memWriteLine s l bs).cfg = s.cfg := rfl
@[simp] theorem memWriteLine_pwr (l : Nat) (bs : List Byte) : (memWriteLine s l bs).pwr = s.pwr := rfl
@[simp] theorem memWriteLine_hosts (l : Nat) (bs : List Byte) : (memWriteLine s l bs).hosts = s.hosts := rfl
@[simp] theorem memWriteLine_cnt (l : Nat) (bs : List Byte) : (memWriteLine s l bs).cnt = s.cnt := rfl
@[simp] theorem memWriteLine_arrivals (l : Nat) (bs : List Byte) : (memWriteLine s l bs).arrivals = s.arrivals := rfl
@[simp] theorem memWriteLine_inbox (l : Nat) (bs : List Byte) : (memWriteLine s l bs).inbox = s.inbox := rfl
@[simp] theorem memWriteLine_freeIdx (l : Nat) (bs : List Byte) : (memWriteLine s l bs).freeIdx = s.freeIdx := rfl
@[simp] theorem memWriteLine_out (l : Nat) (bs : List Byte) : (memWriteLine s l bs).out = s.out := rfl
@[simp] theorem memWriteLine_pending (l : Nat) (bs : List Byte) : (memWriteLine s l bs).pending = s.pending := rfl

@[simp] theorem setSealLine_part (k : Nat) (l : SealLine) : (setSealLine s k l).part = s.part := rfl
@[simp] theorem setSealLine_now (k : Nat) (l : SealLine) : (setSealLine s k l).now = s.now := rfl
@[simp] theorem setSealLine_regs (k : Nat) (l : SealLine) : (setSealLine s k l).regs = s.regs := rfl
@[simp] theorem setSealLine_lanes (k : Nat) (l : SealLine) : (setSealLine s k l).lanes = s.lanes := rfl
@[simp] theorem setSealLine_links (k : Nat) (l : SealLine) : (setSealLine s k l).links = s.links := rfl
@[simp] theorem setSealLine_psw (k : Nat) (l : SealLine) : (setSealLine s k l).psw = s.psw := rfl
@[simp] theorem setSealLine_sw (k : Nat) (l : SealLine) : (setSealLine s k l).sw = s.sw := rfl
@[simp] theorem setSealLine_e2e (k : Nat) (l : SealLine) : (setSealLine s k l).e2e = s.e2e := rfl
@[simp] theorem setSealLine_hall (k : Nat) (l : SealLine) : (setSealLine s k l).hall = s.hall := rfl
@[simp] theorem setSealLine_coll (k : Nat) (l : SealLine) : (setSealLine s k l).coll = s.coll := rfl
@[simp] theorem setSealLine_res (k : Nat) (l : SealLine) : (setSealLine s k l).res = s.res := rfl
@[simp] theorem setSealLine_sec (k : Nat) (l : SealLine) : (setSealLine s k l).sec = s.sec := rfl
@[simp] theorem setSealLine_cfg (k : Nat) (l : SealLine) : (setSealLine s k l).cfg = s.cfg := rfl
@[simp] theorem setSealLine_pwr (k : Nat) (l : SealLine) : (setSealLine s k l).pwr = s.pwr := rfl
@[simp] theorem setSealLine_hosts (k : Nat) (l : SealLine) : (setSealLine s k l).hosts = s.hosts := rfl
@[simp] theorem setSealLine_cnt (k : Nat) (l : SealLine) : (setSealLine s k l).cnt = s.cnt := rfl
@[simp] theorem setSealLine_arrivals (k : Nat) (l : SealLine) : (setSealLine s k l).arrivals = s.arrivals := rfl
@[simp] theorem setSealLine_inbox (k : Nat) (l : SealLine) : (setSealLine s k l).inbox = s.inbox := rfl
@[simp] theorem setSealLine_freeIdx (k : Nat) (l : SealLine) : (setSealLine s k l).freeIdx = s.freeIdx := rfl
@[simp] theorem setSealLine_out (k : Nat) (l : SealLine) : (setSealLine s k l).out = s.out := rfl
@[simp] theorem setSealLine_pending (k : Nat) (l : SealLine) : (setSealLine s k l).pending = s.pending := rfl

@[simp] theorem pWrite_part (a : Nat) (bs : List Byte) : (pWrite s a bs).part = s.part := rfl
@[simp] theorem pWrite_now (a : Nat) (bs : List Byte) : (pWrite s a bs).now = s.now := rfl
@[simp] theorem pWrite_regs (a : Nat) (bs : List Byte) : (pWrite s a bs).regs = s.regs := rfl
@[simp] theorem pWrite_lanes (a : Nat) (bs : List Byte) : (pWrite s a bs).lanes = s.lanes := rfl
@[simp] theorem pWrite_links (a : Nat) (bs : List Byte) : (pWrite s a bs).links = s.links := rfl
@[simp] theorem pWrite_psw (a : Nat) (bs : List Byte) : (pWrite s a bs).psw = s.psw := rfl
@[simp] theorem pWrite_sw (a : Nat) (bs : List Byte) : (pWrite s a bs).sw = s.sw := rfl
@[simp] theorem pWrite_e2e (a : Nat) (bs : List Byte) : (pWrite s a bs).e2e = s.e2e := rfl
@[simp] theorem pWrite_homes (a : Nat) (bs : List Byte) : (pWrite s a bs).homes = s.homes := rfl
@[simp] theorem pWrite_hall (a : Nat) (bs : List Byte) : (pWrite s a bs).hall = { s.hall with pantry := cellWrite s.hall.pantry a bs } := rfl
@[simp] theorem pWrite_coll (a : Nat) (bs : List Byte) : (pWrite s a bs).coll = s.coll := rfl
@[simp] theorem pWrite_res (a : Nat) (bs : List Byte) : (pWrite s a bs).res = s.res := rfl
@[simp] theorem pWrite_sec (a : Nat) (bs : List Byte) : (pWrite s a bs).sec = s.sec := rfl
@[simp] theorem pWrite_cfg (a : Nat) (bs : List Byte) : (pWrite s a bs).cfg = s.cfg := rfl
@[simp] theorem pWrite_pwr (a : Nat) (bs : List Byte) : (pWrite s a bs).pwr = s.pwr := rfl
@[simp] theorem pWrite_hosts (a : Nat) (bs : List Byte) : (pWrite s a bs).hosts = s.hosts := rfl
@[simp] theorem pWrite_cnt (a : Nat) (bs : List Byte) : (pWrite s a bs).cnt = s.cnt := rfl
@[simp] theorem pWrite_arrivals (a : Nat) (bs : List Byte) : (pWrite s a bs).arrivals = s.arrivals := rfl
@[simp] theorem pWrite_inbox (a : Nat) (bs : List Byte) : (pWrite s a bs).inbox = s.inbox := rfl
@[simp] theorem pWrite_freeIdx (a : Nat) (bs : List Byte) : (pWrite s a bs).freeIdx = s.freeIdx := rfl
@[simp] theorem pWrite_out (a : Nat) (bs : List Byte) : (pWrite s a bs).out = s.out := rfl
@[simp] theorem pWrite_pending (a : Nat) (bs : List Byte) : (pWrite s a bs).pending = s.pending := rfl

@[simp] theorem setHctx_part (c : Nat) (x : HallCtx) : (setHctx s c x).part = s.part := rfl
@[simp] theorem setHctx_now (c : Nat) (x : HallCtx) : (setHctx s c x).now = s.now := rfl
@[simp] theorem setHctx_regs (c : Nat) (x : HallCtx) : (setHctx s c x).regs = s.regs := rfl
@[simp] theorem setHctx_lanes (c : Nat) (x : HallCtx) : (setHctx s c x).lanes = s.lanes := rfl
@[simp] theorem setHctx_links (c : Nat) (x : HallCtx) : (setHctx s c x).links = s.links := rfl
@[simp] theorem setHctx_psw (c : Nat) (x : HallCtx) : (setHctx s c x).psw = s.psw := rfl
@[simp] theorem setHctx_sw (c : Nat) (x : HallCtx) : (setHctx s c x).sw = s.sw := rfl
@[simp] theorem setHctx_e2e (c : Nat) (x : HallCtx) : (setHctx s c x).e2e = s.e2e := rfl
@[simp] theorem setHctx_homes (c : Nat) (x : HallCtx) : (setHctx s c x).homes = s.homes := rfl
@[simp] theorem setHctx_hall (c : Nat) (x : HallCtx) : (setHctx s c x).hall = { s.hall with ctxs := cset {} s.hall.ctxs c x } := rfl
@[simp] theorem setHctx_coll (c : Nat) (x : HallCtx) : (setHctx s c x).coll = s.coll := rfl
@[simp] theorem setHctx_res (c : Nat) (x : HallCtx) : (setHctx s c x).res = s.res := rfl
@[simp] theorem setHctx_sec (c : Nat) (x : HallCtx) : (setHctx s c x).sec = s.sec := rfl
@[simp] theorem setHctx_cfg (c : Nat) (x : HallCtx) : (setHctx s c x).cfg = s.cfg := rfl
@[simp] theorem setHctx_pwr (c : Nat) (x : HallCtx) : (setHctx s c x).pwr = s.pwr := rfl
@[simp] theorem setHctx_hosts (c : Nat) (x : HallCtx) : (setHctx s c x).hosts = s.hosts := rfl
@[simp] theorem setHctx_cnt (c : Nat) (x : HallCtx) : (setHctx s c x).cnt = s.cnt := rfl
@[simp] theorem setHctx_arrivals (c : Nat) (x : HallCtx) : (setHctx s c x).arrivals = s.arrivals := rfl
@[simp] theorem setHctx_inbox (c : Nat) (x : HallCtx) : (setHctx s c x).inbox = s.inbox := rfl
@[simp] theorem setHctx_freeIdx (c : Nat) (x : HallCtx) : (setHctx s c x).freeIdx = s.freeIdx := rfl
@[simp] theorem setHctx_out (c : Nat) (x : HallCtx) : (setHctx s c x).out = s.out := rfl
@[simp] theorem setHctx_pending (c : Nat) (x : HallCtx) : (setHctx s c x).pending = s.pending := rfl

@[simp] theorem setCup_part (k : Nat) (l : CacheLine) : (setCup s k l).part = s.part := rfl
@[simp] theorem setCup_now (k : Nat) (l : CacheLine) : (setCup s k l).now = s.now := rfl
@[simp] theorem setCup_regs (k : Nat) (l : CacheLine) : (setCup s k l).regs = s.regs := rfl
@[simp] theorem setCup_lanes (k : Nat) (l : CacheLine) : (setCup s k l).lanes = s.lanes := rfl
@[simp] theorem setCup_links (k : Nat) (l : CacheLine) : (setCup s k l).links = s.links := rfl
@[simp] theorem setCup_psw (k : Nat) (l : CacheLine) : (setCup s k l).psw = s.psw := rfl
@[simp] theorem setCup_sw (k : Nat) (l : CacheLine) : (setCup s k l).sw = s.sw := rfl
@[simp] theorem setCup_e2e (k : Nat) (l : CacheLine) : (setCup s k l).e2e = s.e2e := rfl
@[simp] theorem setCup_homes (k : Nat) (l : CacheLine) : (setCup s k l).homes = s.homes := rfl
@[simp] theorem setCup_hall (k : Nat) (l : CacheLine) : (setCup s k l).hall = { s.hall with cup := cset {} s.hall.cup k l } := rfl
@[simp] theorem setCup_coll (k : Nat) (l : CacheLine) : (setCup s k l).coll = s.coll := rfl
@[simp] theorem setCup_res (k : Nat) (l : CacheLine) : (setCup s k l).res = s.res := rfl
@[simp] theorem setCup_sec (k : Nat) (l : CacheLine) : (setCup s k l).sec = s.sec := rfl
@[simp] theorem setCup_cfg (k : Nat) (l : CacheLine) : (setCup s k l).cfg = s.cfg := rfl
@[simp] theorem setCup_pwr (k : Nat) (l : CacheLine) : (setCup s k l).pwr = s.pwr := rfl
@[simp] theorem setCup_hosts (k : Nat) (l : CacheLine) : (setCup s k l).hosts = s.hosts := rfl
@[simp] theorem setCup_cnt (k : Nat) (l : CacheLine) : (setCup s k l).cnt = s.cnt := rfl
@[simp] theorem setCup_arrivals (k : Nat) (l : CacheLine) : (setCup s k l).arrivals = s.arrivals := rfl
@[simp] theorem setCup_inbox (k : Nat) (l : CacheLine) : (setCup s k l).inbox = s.inbox := rfl
@[simp] theorem setCup_freeIdx (k : Nat) (l : CacheLine) : (setCup s k l).freeIdx = s.freeIdx := rfl
@[simp] theorem setCup_out (k : Nat) (l : CacheLine) : (setCup s k l).out = s.out := rfl
@[simp] theorem setCup_pending (k : Nat) (l : CacheLine) : (setCup s k l).pending = s.pending := rfl

@[simp] theorem setHall_part (h : Hall) : (setHall s h).part = s.part := rfl
@[simp] theorem setHall_now (h : Hall) : (setHall s h).now = s.now := rfl
@[simp] theorem setHall_regs (h : Hall) : (setHall s h).regs = s.regs := rfl
@[simp] theorem setHall_lanes (h : Hall) : (setHall s h).lanes = s.lanes := rfl
@[simp] theorem setHall_links (h : Hall) : (setHall s h).links = s.links := rfl
@[simp] theorem setHall_psw (h : Hall) : (setHall s h).psw = s.psw := rfl
@[simp] theorem setHall_sw (h : Hall) : (setHall s h).sw = s.sw := rfl
@[simp] theorem setHall_e2e (h : Hall) : (setHall s h).e2e = s.e2e := rfl
@[simp] theorem setHall_homes (h : Hall) : (setHall s h).homes = s.homes := rfl
@[simp] theorem setHall_hall (h : Hall) : (setHall s h).hall = h := rfl
@[simp] theorem setHall_coll (h : Hall) : (setHall s h).coll = s.coll := rfl
@[simp] theorem setHall_res (h : Hall) : (setHall s h).res = s.res := rfl
@[simp] theorem setHall_sec (h : Hall) : (setHall s h).sec = s.sec := rfl
@[simp] theorem setHall_cfg (h : Hall) : (setHall s h).cfg = s.cfg := rfl
@[simp] theorem setHall_pwr (h : Hall) : (setHall s h).pwr = s.pwr := rfl
@[simp] theorem setHall_hosts (h : Hall) : (setHall s h).hosts = s.hosts := rfl
@[simp] theorem setHall_cnt (h : Hall) : (setHall s h).cnt = s.cnt := rfl
@[simp] theorem setHall_arrivals (h : Hall) : (setHall s h).arrivals = s.arrivals := rfl
@[simp] theorem setHall_inbox (h : Hall) : (setHall s h).inbox = s.inbox := rfl
@[simp] theorem setHall_freeIdx (h : Hall) : (setHall s h).freeIdx = s.freeIdx := rfl
@[simp] theorem setHall_out (h : Hall) : (setHall s h).out = s.out := rfl
@[simp] theorem setHall_pending (h : Hall) : (setHall s h).pending = s.pending := rfl

@[simp] theorem setStep_part (r : StepRec) : (setStep s r).part = s.part := rfl
@[simp] theorem setStep_now (r : StepRec) : (setStep s r).now = s.now := rfl
@[simp] theorem setStep_regs (r : StepRec) : (setStep s r).regs = s.regs := rfl
@[simp] theorem setStep_lanes (r : StepRec) : (setStep s r).lanes = s.lanes := rfl
@[simp] theorem setStep_links (r : StepRec) : (setStep s r).links = s.links := rfl
@[simp] theorem setStep_psw (r : StepRec) : (setStep s r).psw = s.psw := rfl
@[simp] theorem setStep_sw (r : StepRec) : (setStep s r).sw = s.sw := rfl
@[simp] theorem setStep_e2e (r : StepRec) : (setStep s r).e2e = s.e2e := rfl
@[simp] theorem setStep_homes (r : StepRec) : (setStep s r).homes = s.homes := rfl
@[simp] theorem setStep_hall (r : StepRec) : (setStep s r).hall = s.hall := rfl
@[simp] theorem setStep_res (r : StepRec) : (setStep s r).res = s.res := rfl
@[simp] theorem setStep_sec (r : StepRec) : (setStep s r).sec = s.sec := rfl
@[simp] theorem setStep_cfg (r : StepRec) : (setStep s r).cfg = s.cfg := rfl
@[simp] theorem setStep_pwr (r : StepRec) : (setStep s r).pwr = s.pwr := rfl
@[simp] theorem setStep_hosts (r : StepRec) : (setStep s r).hosts = s.hosts := rfl
@[simp] theorem setStep_cnt (r : StepRec) : (setStep s r).cnt = s.cnt := rfl
@[simp] theorem setStep_arrivals (r : StepRec) : (setStep s r).arrivals = s.arrivals := rfl
@[simp] theorem setStep_inbox (r : StepRec) : (setStep s r).inbox = s.inbox := rfl
@[simp] theorem setStep_freeIdx (r : StepRec) : (setStep s r).freeIdx = s.freeIdx := rfl
@[simp] theorem setStep_out (r : StepRec) : (setStep s r).out = s.out := rfl
@[simp] theorem setStep_pending (r : StepRec) : (setStep s r).pending = s.pending := rfl

@[simp] theorem setMemState_part (g i : Nat) (m : MemberState) : (setMemState s g i m).part = s.part := rfl
@[simp] theorem setMemState_now (g i : Nat) (m : MemberState) : (setMemState s g i m).now = s.now := rfl
@[simp] theorem setMemState_regs (g i : Nat) (m : MemberState) : (setMemState s g i m).regs = s.regs := rfl
@[simp] theorem setMemState_lanes (g i : Nat) (m : MemberState) : (setMemState s g i m).lanes = s.lanes := rfl
@[simp] theorem setMemState_links (g i : Nat) (m : MemberState) : (setMemState s g i m).links = s.links := rfl
@[simp] theorem setMemState_psw (g i : Nat) (m : MemberState) : (setMemState s g i m).psw = s.psw := rfl
@[simp] theorem setMemState_sw (g i : Nat) (m : MemberState) : (setMemState s g i m).sw = s.sw := rfl
@[simp] theorem setMemState_e2e (g i : Nat) (m : MemberState) : (setMemState s g i m).e2e = s.e2e := rfl
@[simp] theorem setMemState_homes (g i : Nat) (m : MemberState) : (setMemState s g i m).homes = s.homes := rfl
@[simp] theorem setMemState_hall (g i : Nat) (m : MemberState) : (setMemState s g i m).hall = s.hall := rfl
@[simp] theorem setMemState_res (g i : Nat) (m : MemberState) : (setMemState s g i m).res = s.res := rfl
@[simp] theorem setMemState_sec (g i : Nat) (m : MemberState) : (setMemState s g i m).sec = s.sec := rfl
@[simp] theorem setMemState_cfg (g i : Nat) (m : MemberState) : (setMemState s g i m).cfg = s.cfg := rfl
@[simp] theorem setMemState_pwr (g i : Nat) (m : MemberState) : (setMemState s g i m).pwr = s.pwr := rfl
@[simp] theorem setMemState_hosts (g i : Nat) (m : MemberState) : (setMemState s g i m).hosts = s.hosts := rfl
@[simp] theorem setMemState_cnt (g i : Nat) (m : MemberState) : (setMemState s g i m).cnt = s.cnt := rfl
@[simp] theorem setMemState_arrivals (g i : Nat) (m : MemberState) : (setMemState s g i m).arrivals = s.arrivals := rfl
@[simp] theorem setMemState_inbox (g i : Nat) (m : MemberState) : (setMemState s g i m).inbox = s.inbox := rfl
@[simp] theorem setMemState_freeIdx (g i : Nat) (m : MemberState) : (setMemState s g i m).freeIdx = s.freeIdx := rfl
@[simp] theorem setMemState_out (g i : Nat) (m : MemberState) : (setMemState s g i m).out = s.out := rfl
@[simp] theorem setMemState_pending (g i : Nat) (m : MemberState) : (setMemState s g i m).pending = s.pending := rfl

@[simp] theorem setHalf_part (h : Half) : (setHalf s h).part = s.part := rfl
@[simp] theorem setHalf_now (h : Half) : (setHalf s h).now = s.now := rfl
@[simp] theorem setHalf_regs (h : Half) : (setHalf s h).regs = s.regs := rfl
@[simp] theorem setHalf_lanes (h : Half) : (setHalf s h).lanes = s.lanes := rfl
@[simp] theorem setHalf_links (h : Half) : (setHalf s h).links = s.links := rfl
@[simp] theorem setHalf_psw (h : Half) : (setHalf s h).psw = s.psw := rfl
@[simp] theorem setHalf_sw (h : Half) : (setHalf s h).sw = s.sw := rfl
@[simp] theorem setHalf_e2e (h : Half) : (setHalf s h).e2e = s.e2e := rfl
@[simp] theorem setHalf_homes (h : Half) : (setHalf s h).homes = s.homes := rfl
@[simp] theorem setHalf_hall (h : Half) : (setHalf s h).hall = s.hall := rfl
@[simp] theorem setHalf_res (h : Half) : (setHalf s h).res = s.res := rfl
@[simp] theorem setHalf_sec (h : Half) : (setHalf s h).sec = s.sec := rfl
@[simp] theorem setHalf_cfg (h : Half) : (setHalf s h).cfg = s.cfg := rfl
@[simp] theorem setHalf_pwr (h : Half) : (setHalf s h).pwr = s.pwr := rfl
@[simp] theorem setHalf_hosts (h : Half) : (setHalf s h).hosts = s.hosts := rfl
@[simp] theorem setHalf_cnt (h : Half) : (setHalf s h).cnt = s.cnt := rfl
@[simp] theorem setHalf_arrivals (h : Half) : (setHalf s h).arrivals = s.arrivals := rfl
@[simp] theorem setHalf_inbox (h : Half) : (setHalf s h).inbox = s.inbox := rfl
@[simp] theorem setHalf_freeIdx (h : Half) : (setHalf s h).freeIdx = s.freeIdx := rfl
@[simp] theorem setHalf_out (h : Half) : (setHalf s h).out = s.out := rfl
@[simp] theorem setHalf_pending (h : Half) : (setHalf s h).pending = s.pending := rfl

@[simp] theorem setTally_part (t : Tally) : (setTally s t).part = s.part := rfl
@[simp] theorem setTally_now (t : Tally) : (setTally s t).now = s.now := rfl
@[simp] theorem setTally_regs (t : Tally) : (setTally s t).regs = s.regs := rfl
@[simp] theorem setTally_lanes (t : Tally) : (setTally s t).lanes = s.lanes := rfl
@[simp] theorem setTally_links (t : Tally) : (setTally s t).links = s.links := rfl
@[simp] theorem setTally_psw (t : Tally) : (setTally s t).psw = s.psw := rfl
@[simp] theorem setTally_sw (t : Tally) : (setTally s t).sw = s.sw := rfl
@[simp] theorem setTally_e2e (t : Tally) : (setTally s t).e2e = s.e2e := rfl
@[simp] theorem setTally_homes (t : Tally) : (setTally s t).homes = s.homes := rfl
@[simp] theorem setTally_hall (t : Tally) : (setTally s t).hall = s.hall := rfl
@[simp] theorem setTally_res (t : Tally) : (setTally s t).res = s.res := rfl
@[simp] theorem setTally_sec (t : Tally) : (setTally s t).sec = s.sec := rfl
@[simp] theorem setTally_cfg (t : Tally) : (setTally s t).cfg = s.cfg := rfl
@[simp] theorem setTally_pwr (t : Tally) : (setTally s t).pwr = s.pwr := rfl
@[simp] theorem setTally_hosts (t : Tally) : (setTally s t).hosts = s.hosts := rfl
@[simp] theorem setTally_cnt (t : Tally) : (setTally s t).cnt = s.cnt := rfl
@[simp] theorem setTally_arrivals (t : Tally) : (setTally s t).arrivals = s.arrivals := rfl
@[simp] theorem setTally_inbox (t : Tally) : (setTally s t).inbox = s.inbox := rfl
@[simp] theorem setTally_freeIdx (t : Tally) : (setTally s t).freeIdx = s.freeIdx := rfl
@[simp] theorem setTally_out (t : Tally) : (setTally s t).out = s.out := rfl
@[simp] theorem setTally_pending (t : Tally) : (setTally s t).pending = s.pending := rfl

@[simp] theorem setTwin_part (t : Twin) : (setTwin s t).part = s.part := rfl
@[simp] theorem setTwin_now (t : Twin) : (setTwin s t).now = s.now := rfl
@[simp] theorem setTwin_regs (t : Twin) : (setTwin s t).regs = s.regs := rfl
@[simp] theorem setTwin_lanes (t : Twin) : (setTwin s t).lanes = s.lanes := rfl
@[simp] theorem setTwin_links (t : Twin) : (setTwin s t).links = s.links := rfl
@[simp] theorem setTwin_psw (t : Twin) : (setTwin s t).psw = s.psw := rfl
@[simp] theorem setTwin_sw (t : Twin) : (setTwin s t).sw = s.sw := rfl
@[simp] theorem setTwin_e2e (t : Twin) : (setTwin s t).e2e = s.e2e := rfl
@[simp] theorem setTwin_homes (t : Twin) : (setTwin s t).homes = s.homes := rfl
@[simp] theorem setTwin_hall (t : Twin) : (setTwin s t).hall = s.hall := rfl
@[simp] theorem setTwin_coll (t : Twin) : (setTwin s t).coll = s.coll := rfl
@[simp] theorem setTwin_res (t : Twin) : (setTwin s t).res = { s.res with twin := t } := rfl
@[simp] theorem setTwin_sec (t : Twin) : (setTwin s t).sec = s.sec := rfl
@[simp] theorem setTwin_cfg (t : Twin) : (setTwin s t).cfg = s.cfg := rfl
@[simp] theorem setTwin_pwr (t : Twin) : (setTwin s t).pwr = s.pwr := rfl
@[simp] theorem setTwin_hosts (t : Twin) : (setTwin s t).hosts = s.hosts := rfl
@[simp] theorem setTwin_cnt (t : Twin) : (setTwin s t).cnt = s.cnt := rfl
@[simp] theorem setTwin_arrivals (t : Twin) : (setTwin s t).arrivals = s.arrivals := rfl
@[simp] theorem setTwin_inbox (t : Twin) : (setTwin s t).inbox = s.inbox := rfl
@[simp] theorem setTwin_freeIdx (t : Twin) : (setTwin s t).freeIdx = s.freeIdx := rfl
@[simp] theorem setTwin_out (t : Twin) : (setTwin s t).out = s.out := rfl
@[simp] theorem setTwin_pending (t : Twin) : (setTwin s t).pending = s.pending := rfl

@[simp] theorem setSec_part (c : Sec) : (setSec s c).part = s.part := rfl
@[simp] theorem setSec_now (c : Sec) : (setSec s c).now = s.now := rfl
@[simp] theorem setSec_regs (c : Sec) : (setSec s c).regs = s.regs := rfl
@[simp] theorem setSec_lanes (c : Sec) : (setSec s c).lanes = s.lanes := rfl
@[simp] theorem setSec_links (c : Sec) : (setSec s c).links = s.links := rfl
@[simp] theorem setSec_psw (c : Sec) : (setSec s c).psw = s.psw := rfl
@[simp] theorem setSec_sw (c : Sec) : (setSec s c).sw = s.sw := rfl
@[simp] theorem setSec_e2e (c : Sec) : (setSec s c).e2e = s.e2e := rfl
@[simp] theorem setSec_homes (c : Sec) : (setSec s c).homes = s.homes := rfl
@[simp] theorem setSec_hall (c : Sec) : (setSec s c).hall = s.hall := rfl
@[simp] theorem setSec_coll (c : Sec) : (setSec s c).coll = s.coll := rfl
@[simp] theorem setSec_res (c : Sec) : (setSec s c).res = s.res := rfl
@[simp] theorem setSec_sec (c : Sec) : (setSec s c).sec = c := rfl
@[simp] theorem setSec_cfg (c : Sec) : (setSec s c).cfg = s.cfg := rfl
@[simp] theorem setSec_pwr (c : Sec) : (setSec s c).pwr = s.pwr := rfl
@[simp] theorem setSec_hosts (c : Sec) : (setSec s c).hosts = s.hosts := rfl
@[simp] theorem setSec_cnt (c : Sec) : (setSec s c).cnt = s.cnt := rfl
@[simp] theorem setSec_arrivals (c : Sec) : (setSec s c).arrivals = s.arrivals := rfl
@[simp] theorem setSec_inbox (c : Sec) : (setSec s c).inbox = s.inbox := rfl
@[simp] theorem setSec_freeIdx (c : Sec) : (setSec s c).freeIdx = s.freeIdx := rfl
@[simp] theorem setSec_out (c : Sec) : (setSec s c).out = s.out := rfl
@[simp] theorem setSec_pending (c : Sec) : (setSec s c).pending = s.pending := rfl

@[simp] theorem setCfg_part (c : Cfg) : (setCfg s c).part = s.part := rfl
@[simp] theorem setCfg_now (c : Cfg) : (setCfg s c).now = s.now := rfl
@[simp] theorem setCfg_regs (c : Cfg) : (setCfg s c).regs = s.regs := rfl
@[simp] theorem setCfg_lanes (c : Cfg) : (setCfg s c).lanes = s.lanes := rfl
@[simp] theorem setCfg_links (c : Cfg) : (setCfg s c).links = s.links := rfl
@[simp] theorem setCfg_psw (c : Cfg) : (setCfg s c).psw = s.psw := rfl
@[simp] theorem setCfg_sw (c : Cfg) : (setCfg s c).sw = s.sw := rfl
@[simp] theorem setCfg_e2e (c : Cfg) : (setCfg s c).e2e = s.e2e := rfl
@[simp] theorem setCfg_homes (c : Cfg) : (setCfg s c).homes = s.homes := rfl
@[simp] theorem setCfg_hall (c : Cfg) : (setCfg s c).hall = s.hall := rfl
@[simp] theorem setCfg_coll (c : Cfg) : (setCfg s c).coll = s.coll := rfl
@[simp] theorem setCfg_res (c : Cfg) : (setCfg s c).res = s.res := rfl
@[simp] theorem setCfg_sec (c : Cfg) : (setCfg s c).sec = s.sec := rfl
@[simp] theorem setCfg_cfg (c : Cfg) : (setCfg s c).cfg = c := rfl
@[simp] theorem setCfg_pwr (c : Cfg) : (setCfg s c).pwr = s.pwr := rfl
@[simp] theorem setCfg_hosts (c : Cfg) : (setCfg s c).hosts = s.hosts := rfl
@[simp] theorem setCfg_cnt (c : Cfg) : (setCfg s c).cnt = s.cnt := rfl
@[simp] theorem setCfg_arrivals (c : Cfg) : (setCfg s c).arrivals = s.arrivals := rfl
@[simp] theorem setCfg_inbox (c : Cfg) : (setCfg s c).inbox = s.inbox := rfl
@[simp] theorem setCfg_freeIdx (c : Cfg) : (setCfg s c).freeIdx = s.freeIdx := rfl
@[simp] theorem setCfg_out (c : Cfg) : (setCfg s c).out = s.out := rfl
@[simp] theorem setCfg_pending (c : Cfg) : (setCfg s c).pending = s.pending := rfl

@[simp] theorem setPwr_part (p : Pwr) : (setPwr s p).part = s.part := rfl
@[simp] theorem setPwr_now (p : Pwr) : (setPwr s p).now = s.now := rfl
@[simp] theorem setPwr_regs (p : Pwr) : (setPwr s p).regs = s.regs := rfl
@[simp] theorem setPwr_lanes (p : Pwr) : (setPwr s p).lanes = s.lanes := rfl
@[simp] theorem setPwr_links (p : Pwr) : (setPwr s p).links = s.links := rfl
@[simp] theorem setPwr_psw (p : Pwr) : (setPwr s p).psw = s.psw := rfl
@[simp] theorem setPwr_sw (p : Pwr) : (setPwr s p).sw = s.sw := rfl
@[simp] theorem setPwr_e2e (p : Pwr) : (setPwr s p).e2e = s.e2e := rfl
@[simp] theorem setPwr_homes (p : Pwr) : (setPwr s p).homes = s.homes := rfl
@[simp] theorem setPwr_hall (p : Pwr) : (setPwr s p).hall = s.hall := rfl
@[simp] theorem setPwr_coll (p : Pwr) : (setPwr s p).coll = s.coll := rfl
@[simp] theorem setPwr_res (p : Pwr) : (setPwr s p).res = s.res := rfl
@[simp] theorem setPwr_sec (p : Pwr) : (setPwr s p).sec = s.sec := rfl
@[simp] theorem setPwr_cfg (p : Pwr) : (setPwr s p).cfg = s.cfg := rfl
@[simp] theorem setPwr_pwr (p : Pwr) : (setPwr s p).pwr = p := rfl
@[simp] theorem setPwr_hosts (p : Pwr) : (setPwr s p).hosts = s.hosts := rfl
@[simp] theorem setPwr_cnt (p : Pwr) : (setPwr s p).cnt = s.cnt := rfl
@[simp] theorem setPwr_arrivals (p : Pwr) : (setPwr s p).arrivals = s.arrivals := rfl
@[simp] theorem setPwr_inbox (p : Pwr) : (setPwr s p).inbox = s.inbox := rfl
@[simp] theorem setPwr_freeIdx (p : Pwr) : (setPwr s p).freeIdx = s.freeIdx := rfl
@[simp] theorem setPwr_out (p : Pwr) : (setPwr s p).out = s.out := rfl
@[simp] theorem setPwr_pending (p : Pwr) : (setPwr s p).pending = s.pending := rfl

@[simp] theorem setHosts_part (h : Hosts) : (setHosts s h).part = s.part := rfl
@[simp] theorem setHosts_now (h : Hosts) : (setHosts s h).now = s.now := rfl
@[simp] theorem setHosts_regs (h : Hosts) : (setHosts s h).regs = s.regs := rfl
@[simp] theorem setHosts_lanes (h : Hosts) : (setHosts s h).lanes = s.lanes := rfl
@[simp] theorem setHosts_links (h : Hosts) : (setHosts s h).links = s.links := rfl
@[simp] theorem setHosts_psw (h : Hosts) : (setHosts s h).psw = s.psw := rfl
@[simp] theorem setHosts_sw (h : Hosts) : (setHosts s h).sw = s.sw := rfl
@[simp] theorem setHosts_e2e (h : Hosts) : (setHosts s h).e2e = s.e2e := rfl
@[simp] theorem setHosts_homes (h : Hosts) : (setHosts s h).homes = s.homes := rfl
@[simp] theorem setHosts_hall (h : Hosts) : (setHosts s h).hall = s.hall := rfl
@[simp] theorem setHosts_coll (h : Hosts) : (setHosts s h).coll = s.coll := rfl
@[simp] theorem setHosts_res (h : Hosts) : (setHosts s h).res = s.res := rfl
@[simp] theorem setHosts_sec (h : Hosts) : (setHosts s h).sec = s.sec := rfl
@[simp] theorem setHosts_cfg (h : Hosts) : (setHosts s h).cfg = s.cfg := rfl
@[simp] theorem setHosts_pwr (h : Hosts) : (setHosts s h).pwr = s.pwr := rfl
@[simp] theorem setHosts_hosts (h : Hosts) : (setHosts s h).hosts = h := rfl
@[simp] theorem setHosts_cnt (h : Hosts) : (setHosts s h).cnt = s.cnt := rfl
@[simp] theorem setHosts_arrivals (h : Hosts) : (setHosts s h).arrivals = s.arrivals := rfl
@[simp] theorem setHosts_inbox (h : Hosts) : (setHosts s h).inbox = s.inbox := rfl
@[simp] theorem setHosts_freeIdx (h : Hosts) : (setHosts s h).freeIdx = s.freeIdx := rfl
@[simp] theorem setHosts_out (h : Hosts) : (setHosts s h).out = s.out := rfl
@[simp] theorem setHosts_pending (h : Hosts) : (setHosts s h).pending = s.pending := rfl

@[simp] theorem setCnt_part (c : Counters) : (setCnt s c).part = s.part := rfl
@[simp] theorem setCnt_now (c : Counters) : (setCnt s c).now = s.now := rfl
@[simp] theorem setCnt_regs (c : Counters) : (setCnt s c).regs = s.regs := rfl
@[simp] theorem setCnt_lanes (c : Counters) : (setCnt s c).lanes = s.lanes := rfl
@[simp] theorem setCnt_links (c : Counters) : (setCnt s c).links = s.links := rfl
@[simp] theorem setCnt_psw (c : Counters) : (setCnt s c).psw = s.psw := rfl
@[simp] theorem setCnt_sw (c : Counters) : (setCnt s c).sw = s.sw := rfl
@[simp] theorem setCnt_e2e (c : Counters) : (setCnt s c).e2e = s.e2e := rfl
@[simp] theorem setCnt_homes (c : Counters) : (setCnt s c).homes = s.homes := rfl
@[simp] theorem setCnt_hall (c : Counters) : (setCnt s c).hall = s.hall := rfl
@[simp] theorem setCnt_coll (c : Counters) : (setCnt s c).coll = s.coll := rfl
@[simp] theorem setCnt_res (c : Counters) : (setCnt s c).res = s.res := rfl
@[simp] theorem setCnt_sec (c : Counters) : (setCnt s c).sec = s.sec := rfl
@[simp] theorem setCnt_cfg (c : Counters) : (setCnt s c).cfg = s.cfg := rfl
@[simp] theorem setCnt_pwr (c : Counters) : (setCnt s c).pwr = s.pwr := rfl
@[simp] theorem setCnt_hosts (c : Counters) : (setCnt s c).hosts = s.hosts := rfl
@[simp] theorem setCnt_cnt (c : Counters) : (setCnt s c).cnt = c := rfl
@[simp] theorem setCnt_arrivals (c : Counters) : (setCnt s c).arrivals = s.arrivals := rfl
@[simp] theorem setCnt_inbox (c : Counters) : (setCnt s c).inbox = s.inbox := rfl
@[simp] theorem setCnt_freeIdx (c : Counters) : (setCnt s c).freeIdx = s.freeIdx := rfl
@[simp] theorem setCnt_out (c : Counters) : (setCnt s c).out = s.out := rfl
@[simp] theorem setCnt_pending (c : Counters) : (setCnt s c).pending = s.pending := rfl

@[simp] theorem takeInbox_part (d : Delivered) : (takeInbox s d).part = s.part := rfl
@[simp] theorem takeInbox_now (d : Delivered) : (takeInbox s d).now = s.now := rfl
@[simp] theorem takeInbox_regs (d : Delivered) : (takeInbox s d).regs = s.regs := rfl
@[simp] theorem takeInbox_lanes (d : Delivered) : (takeInbox s d).lanes = s.lanes := rfl
@[simp] theorem takeInbox_links (d : Delivered) : (takeInbox s d).links = s.links := rfl
@[simp] theorem takeInbox_psw (d : Delivered) : (takeInbox s d).psw = s.psw := rfl
@[simp] theorem takeInbox_sw (d : Delivered) : (takeInbox s d).sw = s.sw := rfl
@[simp] theorem takeInbox_e2e (d : Delivered) : (takeInbox s d).e2e = s.e2e := rfl
@[simp] theorem takeInbox_homes (d : Delivered) : (takeInbox s d).homes = s.homes := rfl
@[simp] theorem takeInbox_hall (d : Delivered) : (takeInbox s d).hall = s.hall := rfl
@[simp] theorem takeInbox_coll (d : Delivered) : (takeInbox s d).coll = s.coll := rfl
@[simp] theorem takeInbox_res (d : Delivered) : (takeInbox s d).res = s.res := rfl
@[simp] theorem takeInbox_sec (d : Delivered) : (takeInbox s d).sec = s.sec := rfl
@[simp] theorem takeInbox_cfg (d : Delivered) : (takeInbox s d).cfg = s.cfg := rfl
@[simp] theorem takeInbox_pwr (d : Delivered) : (takeInbox s d).pwr = s.pwr := rfl
@[simp] theorem takeInbox_hosts (d : Delivered) : (takeInbox s d).hosts = s.hosts := rfl
@[simp] theorem takeInbox_cnt (d : Delivered) : (takeInbox s d).cnt = s.cnt := rfl
@[simp] theorem takeInbox_arrivals (d : Delivered) : (takeInbox s d).arrivals = s.arrivals := rfl
@[simp] theorem takeInbox_inbox (d : Delivered) : (takeInbox s d).inbox = s.inbox.erase d := rfl
@[simp] theorem takeInbox_freeIdx (d : Delivered) : (takeInbox s d).freeIdx = s.freeIdx := rfl
@[simp] theorem takeInbox_out (d : Delivered) : (takeInbox s d).out = s.out := rfl
@[simp] theorem takeInbox_pending (d : Delivered) : (takeInbox s d).pending = s.pending := rfl

end Sys2Proof.Machine
end

