-- ==== Sys2Proof/Laws/Ops.lean ====
section
/-! SUPPORT. Register words and fields: a read after a write of the same word, field or bit, and of another. -/

namespace Sys2Proof

/-- A number with a field replaced, as a sum of the part above, the field and the part below. -/
theorem setBits_eq (v hi lo x : Nat) :
    setBits v hi lo x = (v / 2 ^ lo / 2 ^ (hi + 1 - lo) * 2 ^ (hi + 1 - lo) + x % 2 ^ (hi + 1 - lo)) * 2 ^ lo + v % 2 ^ lo := by
  unfold setBits bits
  dsimp only
  generalize 2 ^ (hi + 1 - lo) = W
  generalize 2 ^ lo = L
  have h1 := Nat.div_add_mod v L
  have h2 := Nat.div_add_mod (v / L) W
  have h3 : v = (v / L / W * W + v / L % W) * L + v % L := by
    calc v = L * (v / L) + v % L := h1.symm
      _ = (v / L / W * W + v / L % W) * L + v % L := by rw [Nat.mul_comm (v / L / W) W, h2, Nat.mul_comm L]
  have h4 : v - v / L % W * L = v / L / W * W * L + v % L := by
    conv => lhs; rw [h3]
    rw [Nat.add_mul]
    have : (v / L / W * W * L + v / L % W * L + v % L) / L = v / L := by rw [← Nat.add_mul, ← h3]
    rw [this]
    omega
  rw [h4, Nat.add_mul]
  omega

/-- The field just stored. -/
theorem bits_setBits_same (v hi lo x : Nat) : bits (setBits v hi lo x) hi lo = x % 2 ^ (hi + 1 - lo) := by
  rw [setBits_eq]
  unfold bits
  rw [Nat.add_comm, Nat.add_mul_div_right _ _ (Nat.two_pow_pos lo), Nat.div_eq_of_lt (Nat.mod_lt _ (Nat.two_pow_pos lo)), Nat.zero_add,
    Nat.mul_add_mod_self_right, Nat.mod_mod]

theorem setBits_lt {v hi lo x n : Nat} (hv : v < 2 ^ n) (hh : hi < n) (hl : lo ≤ hi) : setBits v hi lo x < 2 ^ n := by
  rw [setBits_eq]
  have e : 2 ^ n = 2 ^ (n - (hi + 1)) * 2 ^ (hi + 1 - lo) * 2 ^ lo := by
    rw [← Nat.pow_add, ← Nat.pow_add]; congr 1; omega
  have hd : v / 2 ^ lo / 2 ^ (hi + 1 - lo) < 2 ^ (n - (hi + 1)) := by
    rw [Nat.div_div_eq_div_mul]
    apply Nat.div_lt_of_lt_mul
    rw [Nat.mul_comm (2 ^ lo * 2 ^ (hi + 1 - lo)), Nat.mul_comm (2 ^ lo), ← Nat.mul_assoc, ← e]
    exact hv
  have hx : x % 2 ^ (hi + 1 - lo) < 2 ^ (hi + 1 - lo) := Nat.mod_lt _ (Nat.two_pow_pos _)
  have hm : v % 2 ^ lo < 2 ^ lo := Nat.mod_lt _ (Nat.two_pow_pos _)
  rw [e]
  generalize 2 ^ (n - (hi + 1)) = N at *
  generalize 2 ^ (hi + 1 - lo) = W at *
  generalize 2 ^ lo = L at *
  generalize v / L / W = q at *
  generalize x % W = r at *
  generalize v % L = m at *
  have a1 : q * W + r + 1 ≤ N * W := by
    have : (q + 1) * W ≤ N * W := Nat.mul_le_mul_right W hd
    rw [Nat.add_mul, Nat.one_mul] at this
    omega
  have a2 : (q * W + r + 1) * L ≤ N * W * L := Nat.mul_le_mul_right L a1
  rw [Nat.add_mul, Nat.one_mul] at a2
  omega

theorem bits_lt (v hi lo : Nat) : bits v hi lo < 2 ^ (hi + 1 - lo) := Nat.mod_lt _ (Nat.two_pow_pos _)

theorem bits_testBit (v hi lo i : Nat) : (bits v hi lo).testBit i = (decide (i < hi + 1 - lo) && v.testBit (lo + i)) := by
  rw [bits, Nat.testBit_mod_two_pow, Nat.testBit_div_two_pow, Nat.add_comm i lo]

theorem setBits_testBit (v hi lo x i : Nat) : (setBits v hi lo x).testBit i =
    if i < lo then v.testBit i else if i < lo + (hi + 1 - lo) then x.testBit (i - lo) else v.testBit i := by
  rw [setBits_eq, Nat.mul_comm, Nat.mul_comm _ (2 ^ (hi + 1 - lo)),
    Nat.testBit_two_pow_mul_add _ (Nat.mod_lt _ (Nat.two_pow_pos lo))]
  split
  · rw [Nat.testBit_mod_two_pow]; simp [*]
  · rw [Nat.testBit_two_pow_mul_add _ (Nat.mod_lt _ (Nat.two_pow_pos _))]
    by_cases h : i < lo + (hi + 1 - lo)
    · rw [if_pos (by omega), if_pos h, Nat.testBit_mod_two_pow]
      have : i - lo < hi + 1 - lo := by omega
      simp [this]
    · rw [if_neg (by omega), if_neg h, Nat.testBit_div_two_pow, Nat.testBit_div_two_pow]
      congr 1; omega

/-- A field apart from the one stored is as before. -/
theorem bits_setBits_other {hi lo hi' lo' : Nat} (v x : Nat) (h : hi' < lo ∨ hi < lo') :
    bits (setBits v hi lo x) hi' lo' = bits v hi' lo' := by
  apply Nat.eq_of_testBit_eq
  intro i
  rw [bits_testBit, bits_testBit, setBits_testBit]
  by_cases hi1 : i < hi' + 1 - lo'
  · simp only [hi1, decide_true, Bool.true_and]
    rcases h with h | h
    · rw [if_pos (by omega)]
    · by_cases h2 : lo' + i < lo
      · rw [if_pos h2]
      · rw [if_neg h2, if_neg (by omega)]
  · simp [hi1]

theorem bit_eq_bits (v n : Nat) : bit v n = (bits v n n == 1) := by
  unfold bit bits
  rw [show n + 1 - n = 1 by omega, Nat.pow_one]

end Sys2Proof

namespace Sys2Proof.Machine

theorem rd_lt (s : State) (o : Nat) : rd s o < 2 ^ 32 := (sget regReset s.regs o).isLt

/-- The word just written. -/
theorem rd_wr_same {s : State} (h : swf regReset s.regs = true) (o v : Nat) : rd (wr s o v) o = v % 2 ^ 32 := by
  unfold rd wr
  rw [sget_sset_same _ _ _ h, BitVec.toNat_ofNat]

/-- Every other word. -/
theorem rd_wr_other (s : State) {o q : Nat} (h : o ≠ q) (v : Nat) : rd (wr s o v) q = rd s q := by
  unfold rd wr
  rw [sget_sset_other _ _ h]

theorem rd_setFld_other (s : State) {o q : Nat} (h : o ≠ q) (hi lo v : Nat) : rd (setFld s o hi lo v) q = rd s q := rd_wr_other s h _

theorem rd_setBitOf_other (s : State) {o q : Nat} (h : o ≠ q) (n : Nat) (b : Bool) : rd (setBitOf s o n b) q = rd s q := rd_wr_other s h _

theorem rd_setFld_same {s : State} (h : swf regReset s.regs = true) (o : Nat) {hi lo : Nat} (hh : hi < 32) (hl : lo ≤ hi) (v : Nat) :
    rd (setFld s o hi lo v) o = setBits (rd s o) hi lo v := by
  unfold setFld
  rw [rd_wr_same h, Nat.mod_eq_of_lt (setBits_lt (rd_lt s o) hh hl)]

/-- The field just stored. -/
theorem fldOf_setFld_same {s : State} (h : swf regReset s.regs = true) (o : Nat) {hi lo : Nat} (hh : hi < 32) (hl : lo ≤ hi) (v : Nat) :
    fldOf (setFld s o hi lo v) o hi lo = v % 2 ^ (hi + 1 - lo) := by
  unfold fldOf
  rw [rd_setFld_same h o hh hl, bits_setBits_same]

/-- A field of the same word apart from the one stored. -/
theorem fldOf_setFld_apart {s : State} (h : swf regReset s.regs = true) (o : Nat) {hi lo hi' lo' : Nat} (hh : hi < 32) (hl : lo ≤ hi)
    (ha : hi' < lo ∨ hi < lo') (v : Nat) : fldOf (setFld s o hi lo v) o hi' lo' = fldOf s o hi' lo' := by
  unfold fldOf
  rw [rd_setFld_same h o hh hl, bits_setBits_other _ _ ha]

theorem fldOf_setFld_other (s : State) {o q : Nat} (h : o ≠ q) (hi lo v hi' lo' : Nat) :
    fldOf (setFld s o hi lo v) q hi' lo' = fldOf s q hi' lo' := by
  unfold fldOf; rw [rd_setFld_other s h]

theorem fldOf_wr_other (s : State) {o q : Nat} (h : o ≠ q) (v hi lo : Nat) : fldOf (wr s o v) q hi lo = fldOf s q hi lo := by
  unfold fldOf; rw [rd_wr_other s h]

/-- The bit just stored. -/
theorem bitOf_setBitOf_same {s : State} (h : swf regReset s.regs = true) (o : Nat) {n : Nat} (hn : n < 32) (b : Bool) :
    bitOf (setBitOf s o n b) o n = b := by
  unfold bitOf setBitOf
  rw [bit_eq_bits]
  have := fldOf_setFld_same h o hn (Nat.le_refl n) (b2n b)
  unfold fldOf at this
  rw [this]
  cases b <;> simp [b2n]

theorem bitOf_setBitOf_apart {s : State} (h : swf regReset s.regs = true) (o : Nat) {n m : Nat} (hn : n < 32) (hm : m ≠ n) (b : Bool) :
    bitOf (setBitOf s o n b) o m = bitOf s o m := by
  unfold bitOf setBitOf
  rw [bit_eq_bits, bit_eq_bits]
  have := fldOf_setFld_apart h o hn (Nat.le_refl n) (hi' := m) (lo' := m) (by omega) (b2n b)
  unfold fldOf at this
  rw [this]

theorem bitOf_setBitOf_other (s : State) {o q : Nat} (h : o ≠ q) (n m : Nat) (b : Bool) : bitOf (setBitOf s o n b) q m = bitOf s q m := by
  unfold bitOf; rw [rd_setBitOf_other s h]

theorem wr_canon {s : State} (h : swf regReset s.regs = true) (o v : Nat) : swf regReset (wr s o v).regs = true :=
  swf_sset _ _ _ _ h

/-! ## What the shared operations can change -/

/-- Counting an event changes event counters, and overflow bits among the registers, alone. -/
theorem ev_shape (s : State) (n k : Nat) : ∃ r c, ev s n k = { s with regs := r, cnt := { s.cnt with ev := c } } := by
  unfold ev
  split
  · exact ⟨_, _, rfl⟩
  · dsimp only
    split
    · exact ⟨_, _, rfl⟩
    · split
      · split <;> exact ⟨_, _, rfl⟩
      · exact ⟨_, _, rfl⟩

/-- A message of a function's vector changes its pending bits, the stamps of messages and the tape alone. -/
theorem msix_shape (s : State) (j fn vec : Nat) :
    ∃ r m o, msix s j fn vec = { s with regs := r, hosts := { s.hosts with msixAt := m }, out := o } := by
  unfold msix
  dsimp only
  split <;> exact ⟨_, _, _, rfl⟩

/-- The in-band interrupt changes the tape alone. -/
theorem alertEdge_shape (a s : State) : ∃ o, alertEdge a s = { s with out := o } := by
  unfold alertEdge
  split <;> exact ⟨_, rfl⟩

/-- What fails probation is noted in the configuration alone. -/
theorem noteProbation_shape (s : State) (code sev : Nat) : ∃ k, noteProbation s code sev = { s with cfg := { s.cfg with failed := k } } := by
  unfold noteProbation
  split <;> exact ⟨_, rfl⟩

/-- A fault record changes registers, counters, the record stores, the note of a failed probation, and what signals it. -/
theorem fault_shape (s : State) (code sev source : Nat) (e : Epc) (d : BitVec 128) :
    ∃ r q k m c o, fault s code sev source e d = { s with
      regs := r, res := q, cfg := { s.cfg with failed := k },
      hosts := { s.hosts with msixAt := m }, cnt := { s.cnt with ev := c }, out := o } := by
  unfold fault
  split
  · dsimp only
    generalize hx : State.mk s.part s.now s.regs s.lanes s.links s.psw s.sw s.e2e s.homes s.hall s.coll _ s.sec s.cfg s.pwr s.hosts s.cnt
      s.arrivals s.inbox s.freeIdx s.out s.pending = x
    obtain ⟨r, c, he⟩ := ev_shape (noteQueue x) (2024 + sev) 1
    obtain ⟨k, hn⟩ := noteProbation_shape (ev (noteQueue x) (2024 + sev) 1) code sev
    split
    · obtain ⟨r1, m1, o1, h1⟩ := msix_shape (noteProbation (ev (noteQueue x) (2024 + sev) 1) code sev) 0 0 0
      obtain ⟨r2, m2, o2, h2⟩ := msix_shape (msix (noteProbation (ev (noteQueue x) (2024 + sev) 1) code sev) 0 0 0) 1 0 0
      rw [h2, h1, hn, he]
      subst hx
      exact ⟨_, _, _, _, _, _, rfl⟩
    · rw [hn, he]
      subst hx
      exact ⟨_, _, _, _, _, _, rfl⟩
  · dsimp only
    obtain ⟨o, ha⟩ := alertEdge_shape (bumpSat s (FLT_OVF source) 23 0 1) (setBitOf (bumpSat s (FLT_OVF source) 23 0 1) (FLT_OVF source) 24 true)
    rw [ha]
    generalize hy : State.mk _ _ _ _ _ _ _ _ _ _ _ _ _ _ _ _ _ _ _ _ _ _ = y
    obtain ⟨r, c, he⟩ := ev_shape y 2029 1
    rw [he, ← hy]
    refine ⟨r, { s.res with lostBefore := source :: s.res.lostBefore.filter (· ≠ source) }, s.cfg.failed, s.hosts.msixAt, c, o, ?_⟩
    simp [bumpSat]

/-- Registers below the counters' block are not touched by counting. -/
theorem rd_ev_below {off : Nat} (h : off < 0x2C00000) (s : State) (n k : Nat) : rd (ev s n k) off = rd s off := by
  have hc : ∀ (t : State) m, rd (setOvf t m) off = rd t off := fun t m => by
    have hm : CNT_OVF (m / 32) ≠ off := by unfold CNT_OVF; omega
    exact rd_setBitOf_other t hm _ _
  unfold ev
  split
  · rfl
  · dsimp only
    split
    · rfl
    · split
      · split
        · rfl
        · rw [hc]; rfl
      · rw [hc]; rfl

theorem rd_msix_below {off : Nat} (h : off < 0x2800000) (s : State) (j fn vec : Nat) : rd (msix s j fn vec) off = rd s off := by
  unfold msix
  dsimp only
  split
  · have hm : HST_PBA j fn ≠ off := by unfold HST_PBA HST_FN; omega
    exact rd_setBitOf_other s hm _ _
  · rfl

/-- Registers below the fault block are not touched by a fault record. -/
theorem rd_fault_below {off : Nat} (h : off < 0x2000000) (s : State) (code sev source : Nat) (e : Epc) (d : BitVec 128) :
    rd (fault s code sev source e d) off = rd s off := by
  have hn : ∀ t c v, rd (noteProbation t c v) off = rd t off := fun t c v => by
    obtain ⟨_, e⟩ := noteProbation_shape t c v
    rw [e]; rfl
  have ha : ∀ a t, rd (alertEdge a t) off = rd t off := fun a t => by
    obtain ⟨_, e⟩ := alertEdge_shape a t
    rw [e]; rfl
  have hq : ∀ t, rd (noteQueue t) off = rd t off := fun t => by
    have hm : FLT_QUEUE ≠ off := by unfold FLT_QUEUE; omega
    unfold noteQueue
    dsimp only
    rw [rd_setFld_other _ hm, rd_setFld_other _ hm]
  have hp : ∀ t : State, rd (if fldOf t FLT_RING_CFG 3 1 ≤ sev then msix (msix t 0 0 0) 1 0 0 else t) off = rd t off := fun t => by
    split
    · rw [rd_msix_below (by omega), rd_msix_below (by omega)]
    · rfl
  unfold fault
  split
  · refine (hp _).trans ?_
    rw [hn, rd_ev_below (by omega), hq]
    rfl
  · have hm : FLT_OVF source ≠ off := by unfold FLT_OVF; omega
    have hb : ∀ t hi lo k, rd (bumpSat t (FLT_OVF source) hi lo k) off = rd t off := fun t hi lo k => rd_setFld_other _ hm _ _ _
    have hk : ∀ (t : State) (x : Res), rd { t with res := x } off = rd t off := fun _ _ => rfl
    dsimp only
    rw [rd_ev_below (by omega), hk, rd_setFld_other _ hm, ha, rd_setBitOf_other _ hm, hb]

theorem fldOf_fault_below {off : Nat} (h : off < 0x2000000) (s : State) (code sev source : Nat) (e : Epc) (d : BitVec 128) (hi lo : Nat) :
    fldOf (fault s code sev source e d) off hi lo = fldOf s off hi lo := by
  unfold fldOf
  rw [rd_fault_below h]

/-! ## Changes under way -/

/-- With no change under way, nothing is carried on. -/
theorem progress_settled {s : State} (h : settled s) : progress s = s := by
  obtain ⟨hj, ha⟩ := h
  have hr : progressRequests s = s := by
    unfold progressRequests
    simp only [ha, forEach, List.foldl_nil, List.filter_nil]
    obtain ⟨_, _, _, _, _, _, _, _, _, _, _, _, ⟨_, _, _, _, _, _, _, _, _, _, _, _, _, _, _, _, _⟩, _, _, _, _, _, _, _, _, _⟩ := s
    simp only at ha
    subst ha
    rfl
  unfold progress
  rw [hr]
  unfold progressJob
  rw [hj]

end Sys2Proof.Machine
end

