-- ==== Sys2Proof/Laws/Effects.lean ====
section
/-! SUPPORT. What the shared forms of a meaning answer: an event while the module is live or not, a packet taken, an access of the register
space, and what a write of one word does. -/

namespace Sys2Proof.Machine

/-- The queue stands in place already where an effect keeps to it. -/
theorem aside_eq {s : State} {f : State → State} (h : (f s).pending = s.pending) : aside s f = f s := by
  unfold aside
  rw [← h]

/-- An event while the module is live: its effect, and what that lets go on. -/
theorem event_live {s : State} {f : State → State} (h : live s = true) (k : Keeps s (f s)) : event s f = progress (f s) := by
  unfold event act
  rw [if_pos h]
  exact aside_eq (progress_keeps k).pending

/-- Nothing happens by itself in Off, or while the power stages are off. -/
theorem event_dead {s : State} {f : State → State} (h : live s = false) : event s f = s := by
  unfold event act
  rw [if_neg (by simp [h])]

/-- A meaning that is an event, while the module is live, where its effect is known. -/
theorem event_next {s x y : State} {f : State → State} (h : live s = true) (k : Keeps s y) (e : y = x) (hf : f s = y := by rfl) :
    (Host.Outcome.next (event s f) : Host.Outcome State Fault Refusal) = .next (progress x) := by
  subst hf
  rw [event_live h k, e]

/-- A packet taken by its Unit. -/
theorem taken_live {s : State} {d : Delivered} {op : Byte} {f : State → Delivered → State} (h : live s = true) (ho : d.pkt.opcode = op)
    (k : Keeps s (f (takeInbox s d) d)) : taken s d op f = progress (f (takeInbox s d) d) := by
  unfold taken takenBy
  rw [if_pos ho]
  exact event_live h k

/-- A meaning that takes a packet, where its effect is known. -/
theorem taken_next {s x : State} {d : Delivered} {op : Byte} {f : State → Delivered → State} (h : live s = true) (ho : d.pkt.opcode = op)
    (k : ∀ t, Keeps s t → Keeps s (f t d)) (e : f (takeInbox s d) d = x) :
    (Host.Outcome.next (taken s d op f) : Host.Outcome State Fault Refusal) = .next (progress x) := by
  rw [taken_live h ho (k _ (takeInbox_keeps (Keeps.refl s))), e]

/-- A collective message taken by Unit 12. -/
theorem countTaken_live {s : State} {d : Delivered} {kind : Nat} {f : State → Delivered → State} (h : live s = true)
    (ho : d.pkt.opcode = opCOLL_COUNT) (hk : leAt d.pkt.payload 0 1 = kind) (hf : d.pkt.fmt = 15) (hl : 16 ≤ d.pkt.length.toNat)
    (k : Keeps s (f (takeInbox s d) d)) : countTaken s d kind f = progress (f (takeInbox s d) d) := by
  unfold countTaken takenBy
  have hn : (decide (d.pkt.fmt ≠ 15) || decide (d.pkt.length.toNat < 16)) = false := by
    simp only [hf, ne_eq, not_true_eq_false, decide_false, Bool.false_or, decide_eq_false_iff_not]; omega
  rw [if_pos (by simp [ho, hk])]
  have := event_live (f := fun s => f (takeInbox s d) d) h k
  simp only [hn, Bool.false_eq_true, if_false]
  exact this

/-- A meaning that takes a collective message, where its effect is known. -/
theorem countTaken_next {s x : State} {d : Delivered} {kind : Nat} {f : State → Delivered → State} (h : live s = true)
    (ho : d.pkt.opcode = opCOLL_COUNT) (hk : leAt d.pkt.payload 0 1 = kind) (hf : d.pkt.fmt = 15) (hl : 16 ≤ d.pkt.length.toNat)
    (k : ∀ t, Keeps s t → Keeps s (f t d)) (e : f (takeInbox s d) d = x) :
    (Host.Outcome.next (countTaken s d kind f) : Host.Outcome State Fault Refusal) = .next (progress x) := by
  rw [countTaken_live h ho hk hf hl (k _ (takeInbox_keeps (Keeps.refl s))), e]

/-- An access while the module runs. -/
theorem access_live {s : State} {f : State → State} (h : live s = true) (k : Keeps s (f s)) : access s f = progress (f s) := by
  unfold live at h
  simp only [Bool.and_eq_true, Bool.not_eq_true'] at h
  unfold access
  rw [if_neg (by simp [h.1])]
  have e : (if s.pwr.dark = true then f s else progress (f s)) = progress (f s) := by simp [h.2]
  rw [aside_eq (by rw [e]; exact (progress_keeps k).pending), e]

/-- No access reaches the module in Off. -/
theorem access_off {s : State} {f : State → State} (h : s.pwr.off = true) : access s f = s := by
  unfold access
  rw [if_pos h]

/-- A transaction of the host on a link that is up. -/
theorem hostDoes_up {s : State} {j : Nat} {f : State → State} (h : linkUp s j = true) : hostDoes s j f = f (wakeRun (hostBusy s)) := by
  unfold hostDoes
  rw [if_pos h]

/-- An access by a path that is there. -/
theorem onPath_there {s : State} {p : Path} {f : State → State} (h : pathThere s p = true) : onPath s p f = f (hostTouch s p) := by
  unfold onPath
  rw [if_pos h]

/-- A write of an aligned word, where the block is served. -/
theorem mrsWrite_word {s : State} {p : Path} {off v : Nat} (hb : islandOnly s = false ∨ blockOf off = 0 ∨ blockOf off = 2)
    (ha : off % 4 = 0) : mrsWrite s p off 4 v = writeReg s p off 1 (v % 2 ^ 32) := by
  unfold mrsWrite
  rw [if_neg, if_neg, if_pos rfl]
  · simp [ha]
  · rcases hb with h | h | h <;> simp [h]

/-- A write of an aligned 64-bit register, where the block is served. -/
theorem mrsWrite_wide {s : State} {p : Path} {off v : Nat} {r : RegRow} (hb : islandOnly s = false ∨ blockOf off = 0 ∨ blockOf off = 2)
    (ha : off % 8 = 0) (hw : wideAt s off = some r) : mrsWrite s p off 8 v = writeReg s p off 2 (v % 2 ^ 64) := by
  unfold mrsWrite
  rw [if_neg, if_neg, if_neg (by decide), hw]
  · simp [ha]
  · rcases hb with h | h | h <;> simp [h]

/-- A write the path may make, of a word with a field to be written and no reserved encoding, that is an operation of its own. -/
theorem writeReg_command {s t : State} {p : Path} {off n v : Nat} {r : RegRow} {is : List Nat} {w : Nat}
    (hf : findReg s.part.hz7134 off = some (r, is, w)) (hr : ((writtenFields r w n v).any fun e => e.1.acc == .rwc) = false)
    (hw : ((writtenFields r w n v).any fun e => e.1.acc.writable) = true) (hm : mayWrite s p off v = true) (hg : hallGone s off = false)
    (hs : ∀ k, secWindow off = some k → windowBusy s k = false) (hv : reservedIn off (writtenFields r w n v) v = false)
    (hc : commandWrite s p is (off - 4 * w) w n v = some t) : writeReg s p off n v = (t, false) := by
  unfold writeReg
  rw [hf]
  simp only [hr, hw, hm, hg, Bool.false_eq_true, if_false, Bool.not_true]
  have hrun : writeReg.run s p off n v is w (writtenFields r w n v) = t := by
    unfold writeReg.run
    simp only [hv, Bool.false_eq_true, if_false, hc]
  cases hk : secWindow off with
  | none => simp only [hrun]
  | some k => simp only [hs k hk, Bool.false_eq_true, if_false, hrun]

end Sys2Proof.Machine
end

