-- ==== Sys2Proof/Laws/Registers.lean ====
section
/-! SUPPORT. Where the command registers stand in the register table, and what a write of each does. -/

namespace Sys2Proof.Machine

/-- The register at an offset, where there is one, has these fields and indices, the offset is its first word, and it is one 64-bit
register or not. -/
def rowIs (hz7134 : Bool) (off : Nat) (fs : List FieldRow) (is : List Nat) (wide : Bool) : Bool :=
  (findReg hz7134 off).all fun x => x.1.fields == fs && x.2.1 == is && x.2.2 == 0 && x.1.wide == wide

/-- Outside LNK and MEM the table is one for all parts. -/
theorem rowIs_all {hz : Bool} {off : Nat} {fs : List FieldRow} {is : List Nat} {wide : Bool} (h : rowIs true off fs is wide = true)
    (hb : off < 0x400000 ∨ 0x800000 ≤ off ∧ off < 0x1400000 ∨ 0x1800000 ≤ off) : rowIs hz off fs is wide = true := by
  have e : blockRows hz off = blockRows true off := by
    unfold blockRows
    by_cases a : off < 0x400000
    · rw [if_pos a, if_pos a]
    · rw [if_neg a, if_neg a]
      have b : ¬off < 0x800000 := by omega
      rw [if_neg b, if_neg b]
      by_cases c : off < 0x1400000
      · rw [if_pos c, if_pos c]
      · rw [if_neg c, if_neg c]
        have d : ¬off < 0x1800000 := by omega
        rw [if_neg d, if_neg d]
  unfold rowIs findReg at h ⊢
  rw [e]
  exact h

/-- What the table gives a register that exists. -/
theorem findReg_of_row {hz : Bool} {off : Nat} {fs : List FieldRow} {is : List Nat} {wide : Bool} (h : rowIs hz off fs is wide = true)
    (hs : (findReg hz off).isSome = true) : ∃ r, findReg hz off = some (r, is, 0) ∧ r.fields = fs ∧ r.wide = wide := by
  unfold rowIs at h
  cases e : findReg hz off with
  | none => simp [e] at hs
  | some x =>
    obtain ⟨r, i, w⟩ := x
    simp only [e, Option.all_some, Bool.and_eq_true, beq_iff_eq] at h
    exact ⟨r, by rw [h.1.1.2, h.1.2], h.1.1.1, h.2⟩

/-- The fields a write of the first word, or of both, of a register reaches. -/
theorem writtenFields_of {r : RegRow} {fs : List FieldRow} {n v : Nat} (h : r.fields = fs) :
    writtenFields r 0 n v = (fs.filter fun f => decide (f.word < n)).map fun f => (f, bits (v / 2 ^ (32 * f.word)) f.hi f.lo) := by
  unfold writtenFields
  rw [h]
  simp

/-- The fields a write reaches, as a list of its own. -/
def fieldsOf (fs : List FieldRow) (n v : Nat) : List (FieldRow × Nat) :=
  (fs.filter fun f => decide (f.word < n)).map fun f => (f, bits (v / 2 ^ (32 * f.word)) f.hi f.lo)

/-- A write that nothing turns away, with no reserved encoding, of a register that is a command. -/
theorem writeReg_put {s t : State} {p : Path} {off n v : Nat} {fs : List FieldRow} {is : List Nat} {wide : Bool} (h : MayPut s p off v)
    (hr : rowIs (hostTouch s p).part.hz7134 off fs is wide = true) (hc : fs.any (fun f => f.acc == .rwc) = false)
    (hw : (fs.filter fun f => decide (f.word < n)).any (fun f => f.acc.writable) = true)
    (hv : reservedIn off (fieldsOf fs n v) v = false) (he : commandWrite (hostTouch s p) p is off 0 n v = some t) :
    writeReg (hostTouch s p) p off n v = (t, false) := by
  obtain ⟨r, hf, h1, -⟩ := findReg_of_row hr h.mapped
  refine writeReg_command hf ?_ ?_ h.may h.hall h.window ?_ he
  · rw [writtenFields_of h1]
    simp only [List.any_map, Function.comp_def, List.any_filter]
    rw [List.any_eq_false] at hc ⊢
    intro f hf
    have := hc f hf
    simp_all
  · rw [writtenFields_of h1]
    simpa only [List.any_map, Function.comp_def] using hw
  · rw [writtenFields_of h1]
    exact hv

/-- A write of a word by a path. -/
theorem pathWrite_put {s t : State} {p : Path} {off v : Nat} {fs : List FieldRow} {is : List Nat} {wide : Bool} (h : MayPut s p off v)
    (ha : off % 4 = 0) (hl : v < 2 ^ 32) (hr : rowIs (hostTouch s p).part.hz7134 off fs is wide = true)
    (hc : fs.any (fun f => f.acc == .rwc) = false) (hw : (fs.filter fun f => decide (f.word < 1)).any (fun f => f.acc.writable) = true)
    (hv : reservedIn off (fieldsOf fs 1 v) v = false) (he : commandWrite (hostTouch s p) p is off 0 1 v = some t) :
    pathWrite s p off 4 v = t := by
  unfold pathWrite
  rw [onPath_there h.there, mrsWrite_word h.served ha, Nat.mod_eq_of_lt hl, writeReg_put h hr hc hw hv he]

/-- A write of a 64-bit register by a path. -/
theorem pathWrite_put_wide {s t : State} {p : Path} {off v : Nat} {fs : List FieldRow} {is : List Nat} (h : MayPut s p off v)
    (ha : off % 8 = 0) (hl : v < 2 ^ 64) (hr : rowIs (hostTouch s p).part.hz7134 off fs is true = true)
    (hc : fs.any (fun f => f.acc == .rwc) = false) (hw : (fs.filter fun f => decide (f.word < 2)).any (fun f => f.acc.writable) = true)
    (hv : reservedIn off (fieldsOf fs 2 v) v = false) (he : commandWrite (hostTouch s p) p is off 0 2 v = some t) :
    pathWrite s p off 8 v = t := by
  obtain ⟨r, hf, -, h2⟩ := findReg_of_row hr h.mapped
  have hwide : wideAt (hostTouch s p) off = some r := by
    unfold wideAt
    rw [hf]
    exact if_pos h2
  unfold pathWrite
  rw [onPath_there h.there, mrsWrite_wide h.served ha hwide, Nat.mod_eq_of_lt hl, writeReg_put h hr hc hw hv he]

/-- An access of a path, while the module runs. -/
theorem access_put {s t : State} {p : Path} {off size v : Nat} (h : live s = true) (e : pathWrite s p off size v = t) :
    (Host.Outcome.next (access s fun s => pathWrite s p off size v) : Host.Outcome State Fault Refusal) = .next (progress t) := by
  rw [access_live (f := fun s => pathWrite s p off size v) h (pathWrite_keeps (Keeps.refl s)), e]

/-- CFG_CMD in the table. -/
theorem row_CFG_CMD : rowIs true (CFG_CMD) [fld 0 2 0 .wo [(1, 7)], fld 0 3 3 .wo, fld 0 4 4 .wo] [] false = true := by decide +kernel

/-- A write of CFG_CMD is an operation of its own. -/
theorem commandWrite_CFG_CMD {s : State} {p : Path} {v : Nat} :
    commandWrite s p [] (CFG_CMD) 0 1 v = some (cfgCmd s v) := by
  unfold commandWrite
  exact if_pos rfl

/-- PWR_CAP in the table. -/
theorem row_PWR_CAP : rowIs true (PWR_CAP) [fld 0 15 0 .rw] [] false = true := by decide +kernel

/-- A write of PWR_CAP is an operation of its own. -/
theorem commandWrite_PWR_CAP {s : State} {p : Path} {v : Nat} :
    commandWrite s p [] (PWR_CAP) 0 1 v = some (capWritten s v) := by
  unfold commandWrite
  exact (if_neg (by decide)).trans (if_pos rfl)

/-- PWR_CMD in the table. -/
theorem row_PWR_CMD : rowIs true (PWR_CMD) [fld 0 2 0 .wo [(0, 1), (3, 4)], fld 0 3 3 .wo] [] false = true := by decide +kernel

/-- A write of PWR_CMD is an operation of its own. -/
theorem commandWrite_PWR_CMD {s : State} {p : Path} {v : Nat} :
    commandWrite s p [] (PWR_CMD) 0 1 v = some (pwrCmd s (p == .i3c) v) := by
  unfold commandWrite
  exact (if_neg (by decide)).trans ((if_neg (by decide)).trans (if_pos rfl))

/-- HAL_SEM_ADD in the table. -/
theorem row_HAL_SEM_ADD : ∀ (k : Fin 256), rowIs true (HAL_SEM_ADD k) [all32 0 .wo] [k.val] false = true := by decide +kernel

/-- A write of HAL_SEM_ADD is an operation of its own. -/
theorem commandWrite_HAL_SEM_ADD {s : State} {p : Path} {k : Nat} (hk : k < 256) {v : Nat} :
    commandWrite s p [k] (HAL_SEM_ADD k) 0 1 v = some (halSemAdd (wakeRun s) k v) := by
  unfold commandWrite
  simp only [List.getD_cons_zero, List.getD_cons_succ]
  refine (if_neg (by simp only [CFG_CMD, HAL_SEM_ADD]; omega)).trans ?_
  refine (if_neg (by simp only [PWR_CAP, HAL_SEM_ADD]; omega)).trans ?_
  refine (if_neg (by simp only [PWR_CMD, HAL_SEM_ADD]; omega)).trans ?_
  exact if_pos (by simp only [Bool.and_eq_true, decide_eq_true_eq]; simp only [HAL_SEM_ADD]; omega)

/-- HAL_CTX_LIST in the table. -/
theorem row_HAL_CTX_LIST : ∀ (k : Fin 16), rowIs true (HAL_CTX_LIST k) [fld 0 31 7 .rw, fld 1 15 0 .rw] [k.val] true = true := by decide +kernel

/-- A write of HAL_CTX_LIST is an operation of its own. -/
theorem commandWrite_HAL_CTX_LIST {s : State} {p : Path} {k : Nat} (hk : k < 16) {v : Nat} :
    commandWrite s p [k] (HAL_CTX_LIST k) 0 2 v = some (ctxListWrite s k v) := by
  unfold commandWrite merge64
  simp only [List.getD_cons_zero, List.getD_cons_succ]
  refine (if_neg (by simp only [CFG_CMD, HAL_CTX_LIST]; omega)).trans ?_
  refine (if_neg (by simp only [PWR_CAP, HAL_CTX_LIST]; omega)).trans ?_
  refine (if_neg (by simp only [PWR_CMD, HAL_CTX_LIST]; omega)).trans ?_
  refine (if_neg (by simp only [Bool.and_eq_true, decide_eq_true_eq]; simp only [HAL_SEM_ADD, HAL_CTX_LIST]; omega)).trans ?_
  exact if_pos trivial

/-- HAL_CTX_CTRL in the table. -/
theorem row_HAL_CTX_CTRL : ∀ (k : Fin 16), rowIs true (HAL_CTX_CTRL k) [fld 0 0 0 .wo, fld 0 1 1 .wo] [k.val] false = true := by decide +kernel

/-- A write of HAL_CTX_CTRL is an operation of its own. -/
theorem commandWrite_HAL_CTX_CTRL {s : State} {p : Path} {k : Nat} (hk : k < 16) {v : Nat} :
    commandWrite s p [k] (HAL_CTX_CTRL k) 0 1 v = some (let s := if bit v 0 then ctxStart s k else s; if bit v 1 then ctxStop s k else s) := by
  unfold commandWrite
  simp only [List.getD_cons_zero, List.getD_cons_succ]
  refine (if_neg (by simp only [CFG_CMD, HAL_CTX_CTRL]; omega)).trans ?_
  refine (if_neg (by simp only [PWR_CAP, HAL_CTX_CTRL]; omega)).trans ?_
  refine (if_neg (by simp only [PWR_CMD, HAL_CTX_CTRL]; omega)).trans ?_
  refine (if_neg (by simp only [Bool.and_eq_true, decide_eq_true_eq]; simp only [HAL_SEM_ADD, HAL_CTX_CTRL]; omega)).trans ?_
  refine (if_neg (by simp only [HAL_CTX_LIST, HAL_CTX_CTRL]; omega)).trans ?_
  exact if_pos rfl

/-- FLT_RING_TAIL in the table. -/
theorem row_FLT_RING_TAIL : rowIs true (FLT_RING_TAIL) [all32 0 .rw] [] false = true := by decide +kernel

/-- A write of FLT_RING_TAIL is an operation of its own. -/
theorem commandWrite_FLT_RING_TAIL {s : State} {p : Path} {v : Nat} :
    commandWrite s p [] (FLT_RING_TAIL) 0 1 v = some (ringTailWrite s v) := by
  unfold commandWrite
  refine (if_neg (by simp only [CFG_CMD, FLT_RING_TAIL]; omega)).trans ?_
  refine (if_neg (by simp only [PWR_CAP, FLT_RING_TAIL]; omega)).trans ?_
  refine (if_neg (by simp only [PWR_CMD, FLT_RING_TAIL]; omega)).trans ?_
  refine (if_neg (by simp only [Bool.and_eq_true, decide_eq_true_eq]; simp only [HAL_SEM_ADD, FLT_RING_TAIL]; omega)).trans ?_
  refine (if_neg (by simp only [HAL_CTX_LIST, FLT_RING_TAIL]; omega)).trans ?_
  refine (if_neg (by simp only [HAL_CTX_CTRL, FLT_RING_TAIL]; omega)).trans ?_
  exact if_pos rfl

/-- FLT_QUEUE_POP in the table. -/
theorem row_FLT_QUEUE_POP : rowIs true (FLT_QUEUE_POP) [fld 0 0 0 .wo] [] false = true := by decide +kernel

/-- A write of FLT_QUEUE_POP is an operation of its own. -/
theorem commandWrite_FLT_QUEUE_POP {s : State} {p : Path} {v : Nat} :
    commandWrite s p [] (FLT_QUEUE_POP) 0 1 v = some (if bit v 0 then queuePop s else s) := by
  unfold commandWrite
  refine (if_neg (by simp only [CFG_CMD, FLT_QUEUE_POP]; omega)).trans ?_
  refine (if_neg (by simp only [PWR_CAP, FLT_QUEUE_POP]; omega)).trans ?_
  refine (if_neg (by simp only [PWR_CMD, FLT_QUEUE_POP]; omega)).trans ?_
  refine (if_neg (by simp only [Bool.and_eq_true, decide_eq_true_eq]; simp only [HAL_SEM_ADD, FLT_QUEUE_POP]; omega)).trans ?_
  refine (if_neg (by simp only [HAL_CTX_LIST, FLT_QUEUE_POP]; omega)).trans ?_
  refine (if_neg (by simp only [HAL_CTX_CTRL, FLT_QUEUE_POP]; omega)).trans ?_
  refine (if_neg (by simp only [FLT_RING_TAIL, FLT_QUEUE_POP]; omega)).trans ?_
  exact if_pos rfl

/-- FLT_OVF in the table. -/
theorem row_FLT_OVF : ∀ (k : Fin 16), rowIs true (FLT_OVF k) [fld 0 23 0 .ro, fld 0 24 24 .w1c, fld 0 27 25 .ro] [k.val] false = true := by decide +kernel

/-- A write of FLT_OVF is an operation of its own. -/
theorem commandWrite_FLT_OVF {s : State} {p : Path} {k : Nat} (hk : k < 16) {v : Nat} :
    commandWrite s p [k] (FLT_OVF k) 0 1 v = some (if bit v 24 then ovfClear s k else s) := by
  unfold commandWrite
  simp only [List.getD_cons_zero, List.getD_cons_succ]
  refine (if_neg (by simp only [CFG_CMD, FLT_OVF]; omega)).trans ?_
  refine (if_neg (by simp only [PWR_CAP, FLT_OVF]; omega)).trans ?_
  refine (if_neg (by simp only [PWR_CMD, FLT_OVF]; omega)).trans ?_
  refine (if_neg (by simp only [Bool.and_eq_true, decide_eq_true_eq]; simp only [HAL_SEM_ADD, FLT_OVF]; omega)).trans ?_
  refine (if_neg (by simp only [HAL_CTX_LIST, FLT_OVF]; omega)).trans ?_
  refine (if_neg (by simp only [HAL_CTX_CTRL, FLT_OVF]; omega)).trans ?_
  refine (if_neg (by simp only [FLT_RING_TAIL, FLT_OVF]; omega)).trans ?_
  refine (if_neg (by simp only [FLT_QUEUE_POP, FLT_OVF]; omega)).trans ?_
  exact if_pos (by simp only [Bool.and_eq_true, decide_eq_true_eq]; simp only [FLT_OVF]; omega)

/-- FLT_TWIN_CMD in the table. -/
theorem row_FLT_TWIN_CMD : rowIs true (FLT_TWIN_CMD) [fld 0 0 0 .wo] [] false = true := by decide +kernel

/-- A write of FLT_TWIN_CMD is an operation of its own. -/
theorem commandWrite_FLT_TWIN_CMD {s : State} {p : Path} {v : Nat} :
    commandWrite s p [] (FLT_TWIN_CMD) 0 1 v = some (if bit v 0 then startHandoff s else s) := by
  unfold commandWrite
  refine (if_neg (by simp only [CFG_CMD, FLT_TWIN_CMD]; omega)).trans ?_
  refine (if_neg (by simp only [PWR_CAP, FLT_TWIN_CMD]; omega)).trans ?_
  refine (if_neg (by simp only [PWR_CMD, FLT_TWIN_CMD]; omega)).trans ?_
  refine (if_neg (by simp only [Bool.and_eq_true, decide_eq_true_eq]; simp only [HAL_SEM_ADD, FLT_TWIN_CMD]; omega)).trans ?_
  refine (if_neg (by simp only [HAL_CTX_LIST, FLT_TWIN_CMD]; omega)).trans ?_
  refine (if_neg (by simp only [HAL_CTX_CTRL, FLT_TWIN_CMD]; omega)).trans ?_
  refine (if_neg (by simp only [FLT_RING_TAIL, FLT_TWIN_CMD]; omega)).trans ?_
  refine (if_neg (by simp only [FLT_QUEUE_POP, FLT_TWIN_CMD]; omega)).trans ?_
  refine (if_neg (by simp only [Bool.and_eq_true, decide_eq_true_eq]; simp only [FLT_OVF, FLT_TWIN_CMD]; omega)).trans ?_
  exact if_pos rfl

/-- SEC_W_CMD in the table. -/
theorem row_SEC_W_CMD : ∀ (k : Fin 5), rowIs true (SEC_W_CMD k) [fld 0 1 0 .wo [(1, 3)], fld 0 9 2 .wo [(1, 128)], fld 0 10 10 .wo, fld 0 18 11 .wo] [k.val] false = true := by decide +kernel

/-- A write of SEC_W_CMD is an operation of its own. -/
theorem commandWrite_SEC_W_CMD {s : State} {p : Path} {k : Nat} (hk : k < 5) {v : Nat} :
    commandWrite s p [k] (SEC_W_CMD k) 0 1 v = some (secCmd s p k v) := by
  unfold commandWrite
  simp only [List.getD_cons_zero, List.getD_cons_succ]
  refine (if_neg (by simp only [CFG_CMD, SEC_W_CMD]; omega)).trans ?_
  refine (if_neg (by simp only [PWR_CAP, SEC_W_CMD]; omega)).trans ?_
  refine (if_neg (by simp only [PWR_CMD, SEC_W_CMD]; omega)).trans ?_
  refine (if_neg (by simp only [Bool.and_eq_true, decide_eq_true_eq]; simp only [HAL_SEM_ADD, SEC_W_CMD]; omega)).trans ?_
  refine (if_neg (by simp only [HAL_CTX_LIST, SEC_W_CMD]; omega)).trans ?_
  refine (if_neg (by simp only [HAL_CTX_CTRL, SEC_W_CMD]; omega)).trans ?_
  refine (if_neg (by simp only [FLT_RING_TAIL, SEC_W_CMD]; omega)).trans ?_
  refine (if_neg (by simp only [FLT_QUEUE_POP, SEC_W_CMD]; omega)).trans ?_
  refine (if_neg (by simp only [Bool.and_eq_true, decide_eq_true_eq]; simp only [FLT_OVF, SEC_W_CMD]; omega)).trans ?_
  refine (if_neg (by simp only [FLT_TWIN_CMD, SEC_W_CMD]; omega)).trans ?_
  exact if_pos rfl

/-- CNT_SNAP in the table. -/
theorem row_CNT_SNAP : rowIs true (CNT_SNAP) [all32 0 .wo, all32 1 .wo] [] true = true := by decide +kernel

/-- A write of CNT_SNAP is an operation of its own. -/
theorem commandWrite_CNT_SNAP {s : State} {p : Path} {v : Nat} :
    commandWrite s p [] (CNT_SNAP) 0 2 v = some (snapWrite s p v) := by
  unfold commandWrite merge64
  refine (if_neg (by simp only [CFG_CMD, CNT_SNAP]; omega)).trans ?_
  refine (if_neg (by simp only [PWR_CAP, CNT_SNAP]; omega)).trans ?_
  refine (if_neg (by simp only [PWR_CMD, CNT_SNAP]; omega)).trans ?_
  refine (if_neg (by simp only [Bool.and_eq_true, decide_eq_true_eq]; simp only [HAL_SEM_ADD, CNT_SNAP]; omega)).trans ?_
  refine (if_neg (by simp only [HAL_CTX_LIST, CNT_SNAP]; omega)).trans ?_
  refine (if_neg (by simp only [HAL_CTX_CTRL, CNT_SNAP]; omega)).trans ?_
  refine (if_neg (by simp only [FLT_RING_TAIL, CNT_SNAP]; omega)).trans ?_
  refine (if_neg (by simp only [FLT_QUEUE_POP, CNT_SNAP]; omega)).trans ?_
  refine (if_neg (by simp only [Bool.and_eq_true, decide_eq_true_eq]; simp only [FLT_OVF, CNT_SNAP]; omega)).trans ?_
  refine (if_neg (by simp only [FLT_TWIN_CMD, CNT_SNAP]; omega)).trans ?_
  refine (if_neg (by simp only [SEC_W_CMD, CNT_SNAP]; omega)).trans ?_
  exact if_pos (by decide)

/-- CNT_CMD in the table. -/
theorem row_CNT_CMD : rowIs true (CNT_CMD) [fld 0 1 0 .wo [(1, 2)], fld 0 13 2 .wo] [] false = true := by decide +kernel

/-- A write of CNT_CMD is an operation of its own. -/
theorem commandWrite_CNT_CMD {s : State} {p : Path} {v : Nat} :
    commandWrite s p [] (CNT_CMD) 0 1 v = some (cntCmd s p v) := by
  unfold commandWrite
  refine (if_neg (by simp only [CFG_CMD, CNT_CMD]; omega)).trans ?_
  refine (if_neg (by simp only [PWR_CAP, CNT_CMD]; omega)).trans ?_
  refine (if_neg (by simp only [PWR_CMD, CNT_CMD]; omega)).trans ?_
  refine (if_neg (by simp only [Bool.and_eq_true, decide_eq_true_eq]; simp only [HAL_SEM_ADD, CNT_CMD]; omega)).trans ?_
  refine (if_neg (by simp only [HAL_CTX_LIST, CNT_CMD]; omega)).trans ?_
  refine (if_neg (by simp only [HAL_CTX_CTRL, CNT_CMD]; omega)).trans ?_
  refine (if_neg (by simp only [FLT_RING_TAIL, CNT_CMD]; omega)).trans ?_
  refine (if_neg (by simp only [FLT_QUEUE_POP, CNT_CMD]; omega)).trans ?_
  refine (if_neg (by simp only [Bool.and_eq_true, decide_eq_true_eq]; simp only [FLT_OVF, CNT_CMD]; omega)).trans ?_
  refine (if_neg (by simp only [FLT_TWIN_CMD, CNT_CMD]; omega)).trans ?_
  refine (if_neg (by simp only [SEC_W_CMD, CNT_CMD]; omega)).trans ?_
  refine (if_neg (by simp only [Bool.or_eq_true, decide_eq_true_eq]; simp only [CNT_SNAP, CNT_CMD]; omega)).trans ?_
  exact if_pos rfl

/-- CNT_CHAIN in the table. -/
theorem row_CNT_CHAIN : ∀ (k : Fin 48), rowIs true (CNT_CHAIN k) [all32 0 .rw] [k.val] false = true := by decide +kernel

/-- A write of CNT_CHAIN is an operation of its own. -/
theorem commandWrite_CNT_CHAIN {s : State} {p : Path} {k : Nat} (hk : k < 48) {v : Nat} :
    commandWrite s p [k] (CNT_CHAIN k) 0 1 v = some (chainWrite (countGap s) k v) := by
  unfold commandWrite
  simp only [List.getD_cons_zero, List.getD_cons_succ]
  refine (if_neg (by simp only [CFG_CMD, CNT_CHAIN]; omega)).trans ?_
  refine (if_neg (by simp only [PWR_CAP, CNT_CHAIN]; omega)).trans ?_
  refine (if_neg (by simp only [PWR_CMD, CNT_CHAIN]; omega)).trans ?_
  refine (if_neg (by simp only [Bool.and_eq_true, decide_eq_true_eq]; simp only [HAL_SEM_ADD, CNT_CHAIN]; omega)).trans ?_
  refine (if_neg (by simp only [HAL_CTX_LIST, CNT_CHAIN]; omega)).trans ?_
  refine (if_neg (by simp only [HAL_CTX_CTRL, CNT_CHAIN]; omega)).trans ?_
  refine (if_neg (by simp only [FLT_RING_TAIL, CNT_CHAIN]; omega)).trans ?_
  refine (if_neg (by simp only [FLT_QUEUE_POP, CNT_CHAIN]; omega)).trans ?_
  refine (if_neg (by simp only [Bool.and_eq_true, decide_eq_true_eq]; simp only [FLT_OVF, CNT_CHAIN]; omega)).trans ?_
  refine (if_neg (by simp only [FLT_TWIN_CMD, CNT_CHAIN]; omega)).trans ?_
  refine (if_neg (by simp only [SEC_W_CMD, CNT_CHAIN]; omega)).trans ?_
  refine (if_neg (by simp only [Bool.or_eq_true, decide_eq_true_eq]; simp only [CNT_SNAP, CNT_CHAIN]; omega)).trans ?_
  refine (if_neg (by simp only [CNT_CMD, CNT_CHAIN]; omega)).trans ?_
  exact if_pos (by simp only [Bool.and_eq_true, decide_eq_true_eq]; simp only [CNT_CHAIN]; omega)

/-- HST_FN_FENCE in the table. -/
theorem row_HST_FN_FENCE : ∀ (j : Fin 2) (f : Fin 128), rowIs true (HST_FN_FENCE j f) [fld 0 0 0 .wo] [j.val, f.val] false = true := by decide +kernel

/-- A write of HST_FN_FENCE is an operation of its own. -/
theorem commandWrite_HST_FN_FENCE {s : State} {p : Path} {j : Nat} (hj : j < 2) {f : Nat} (hf : f < 128) {v : Nat} :
    commandWrite s p [j, f] (HST_FN_FENCE j f) 0 1 v = some (if bit v 0 then fnFence s (Fin.ofNat 2 j) (Fin.ofNat 128 f) else s) := by
  unfold commandWrite
  simp only [List.getD_cons_zero, List.getD_cons_succ]
  refine (if_neg (by simp only [CFG_CMD, HST_FN_FENCE, HST_FN]; omega)).trans ?_
  refine (if_neg (by simp only [PWR_CAP, HST_FN_FENCE, HST_FN]; omega)).trans ?_
  refine (if_neg (by simp only [PWR_CMD, HST_FN_FENCE, HST_FN]; omega)).trans ?_
  refine (if_neg (by simp only [Bool.and_eq_true, decide_eq_true_eq]; simp only [HAL_SEM_ADD, HST_FN_FENCE, HST_FN]; omega)).trans ?_
  refine (if_neg (by simp only [HAL_CTX_LIST, HST_FN_FENCE, HST_FN]; omega)).trans ?_
  refine (if_neg (by simp only [HAL_CTX_CTRL, HST_FN_FENCE, HST_FN]; omega)).trans ?_
  refine (if_neg (by simp only [FLT_RING_TAIL, HST_FN_FENCE, HST_FN]; omega)).trans ?_
  refine (if_neg (by simp only [FLT_QUEUE_POP, HST_FN_FENCE, HST_FN]; omega)).trans ?_
  refine (if_neg (by simp only [Bool.and_eq_true, decide_eq_true_eq]; simp only [FLT_OVF, HST_FN_FENCE, HST_FN]; omega)).trans ?_
  refine (if_neg (by simp only [FLT_TWIN_CMD, HST_FN_FENCE, HST_FN]; omega)).trans ?_
  refine (if_neg (by simp only [SEC_W_CMD, HST_FN_FENCE, HST_FN]; omega)).trans ?_
  refine (if_neg (by simp only [Bool.or_eq_true, decide_eq_true_eq]; simp only [CNT_SNAP, HST_FN_FENCE, HST_FN]; omega)).trans ?_
  refine (if_neg (by simp only [CNT_CMD, HST_FN_FENCE, HST_FN]; omega)).trans ?_
  refine (if_neg (by simp only [Bool.and_eq_true, decide_eq_true_eq]; simp only [CNT_CHAIN, HST_FN_FENCE, HST_FN]; omega)).trans ?_
  exact if_pos rfl

/-- HST_FN_NOTE_TAIL in the table. -/
theorem row_HST_FN_NOTE_TAIL : ∀ (j : Fin 2) (f : Fin 128), rowIs true (HST_FN_NOTE_TAIL j f) [all32 0 .rw] [j.val, f.val] false = true := by decide +kernel

/-- A write of HST_FN_NOTE_TAIL is an operation of its own. -/
theorem commandWrite_HST_FN_NOTE_TAIL {s : State} {p : Path} {j : Nat} (hj : j < 2) {f : Nat} (hf : f < 128) {v : Nat} :
    commandWrite s p [j, f] (HST_FN_NOTE_TAIL j f) 0 1 v = some (noteTail s j f v) := by
  unfold commandWrite
  simp only [List.getD_cons_zero, List.getD_cons_succ]
  refine (if_neg (by simp only [CFG_CMD, HST_FN_NOTE_TAIL, HST_FN]; omega)).trans ?_
  refine (if_neg (by simp only [PWR_CAP, HST_FN_NOTE_TAIL, HST_FN]; omega)).trans ?_
  refine (if_neg (by simp only [PWR_CMD, HST_FN_NOTE_TAIL, HST_FN]; omega)).trans ?_
  refine (if_neg (by simp only [Bool.and_eq_true, decide_eq_true_eq]; simp only [HAL_SEM_ADD, HST_FN_NOTE_TAIL, HST_FN]; omega)).trans ?_
  refine (if_neg (by simp only [HAL_CTX_LIST, HST_FN_NOTE_TAIL, HST_FN]; omega)).trans ?_
  refine (if_neg (by simp only [HAL_CTX_CTRL, HST_FN_NOTE_TAIL, HST_FN]; omega)).trans ?_
  refine (if_neg (by simp only [FLT_RING_TAIL, HST_FN_NOTE_TAIL, HST_FN]; omega)).trans ?_
  refine (if_neg (by simp only [FLT_QUEUE_POP, HST_FN_NOTE_TAIL, HST_FN]; omega)).trans ?_
  refine (if_neg (by simp only [Bool.and_eq_true, decide_eq_true_eq]; simp only [FLT_OVF, HST_FN_NOTE_TAIL, HST_FN]; omega)).trans ?_
  refine (if_neg (by simp only [FLT_TWIN_CMD, HST_FN_NOTE_TAIL, HST_FN]; omega)).trans ?_
  refine (if_neg (by simp only [SEC_W_CMD, HST_FN_NOTE_TAIL, HST_FN]; omega)).trans ?_
  refine (if_neg (by simp only [Bool.or_eq_true, decide_eq_true_eq]; simp only [CNT_SNAP, HST_FN_NOTE_TAIL, HST_FN]; omega)).trans ?_
  refine (if_neg (by simp only [CNT_CMD, HST_FN_NOTE_TAIL, HST_FN]; omega)).trans ?_
  refine (if_neg (by simp only [Bool.and_eq_true, decide_eq_true_eq]; simp only [CNT_CHAIN, HST_FN_NOTE_TAIL, HST_FN]; omega)).trans ?_
  refine (if_neg (by simp only [HST_FN_FENCE, HST_FN_NOTE_TAIL, HST_FN]; omega)).trans ?_
  exact if_pos rfl

/-- HST_AP_BASE in the table. -/
theorem row_HST_AP_BASE : ∀ (j : Fin 2) (f : Fin 128) (a : Fin 4), rowIs true (HST_AP_BASE j f a) [fld 1 31 4 .rw] [j.val, f.val, a.val] true = true := by decide +kernel

/-- A write of HST_AP_BASE is an operation of its own. -/
theorem commandWrite_HST_AP_BASE {s : State} {p : Path} {j : Nat} (hj : j < 2) {f : Nat} (hf : f < 128) {a : Nat} (ha : a < 4) {v : Nat} :
    commandWrite s p [j, f, a] (HST_AP_BASE j f a) 0 2 v = some (apBaseWrite s j f a v) := by
  unfold commandWrite merge64
  simp only [List.getD_cons_zero, List.getD_cons_succ]
  refine (if_neg (by simp only [CFG_CMD, HST_AP_BASE, HST_FN]; omega)).trans ?_
  refine (if_neg (by simp only [PWR_CAP, HST_AP_BASE, HST_FN]; omega)).trans ?_
  refine (if_neg (by simp only [PWR_CMD, HST_AP_BASE, HST_FN]; omega)).trans ?_
  refine (if_neg (by simp only [Bool.and_eq_true, decide_eq_true_eq]; simp only [HAL_SEM_ADD, HST_AP_BASE, HST_FN]; omega)).trans ?_
  refine (if_neg (by simp only [HAL_CTX_LIST, HST_AP_BASE, HST_FN]; omega)).trans ?_
  refine (if_neg (by simp only [HAL_CTX_CTRL, HST_AP_BASE, HST_FN]; omega)).trans ?_
  refine (if_neg (by simp only [FLT_RING_TAIL, HST_AP_BASE, HST_FN]; omega)).trans ?_
  refine (if_neg (by simp only [FLT_QUEUE_POP, HST_AP_BASE, HST_FN]; omega)).trans ?_
  refine (if_neg (by simp only [Bool.and_eq_true, decide_eq_true_eq]; simp only [FLT_OVF, HST_AP_BASE, HST_FN]; omega)).trans ?_
  refine (if_neg (by simp only [FLT_TWIN_CMD, HST_AP_BASE, HST_FN]; omega)).trans ?_
  refine (if_neg (by simp only [SEC_W_CMD, HST_AP_BASE, HST_FN]; omega)).trans ?_
  refine (if_neg (by simp only [Bool.or_eq_true, decide_eq_true_eq]; simp only [CNT_SNAP, HST_AP_BASE, HST_FN]; omega)).trans ?_
  refine (if_neg (by simp only [CNT_CMD, HST_AP_BASE, HST_FN]; omega)).trans ?_
  refine (if_neg (by simp only [Bool.and_eq_true, decide_eq_true_eq]; simp only [CNT_CHAIN, HST_AP_BASE, HST_FN]; omega)).trans ?_
  refine (if_neg (by simp only [HST_FN_FENCE, HST_AP_BASE, HST_FN]; omega)).trans ?_
  refine (if_neg (by simp only [HST_FN_NOTE_TAIL, HST_AP_BASE, HST_FN]; omega)).trans ?_
  exact if_pos trivial

/-- HST_AP_CTRL in the table. -/
theorem row_HST_AP_CTRL : ∀ (j : Fin 2) (f : Fin 128) (a : Fin 4), rowIs true (HST_AP_CTRL j f a) [fld 0 0 0 .rw, fld 0 1 1 .rw, fld 0 2 2 .rw, fld 0 3 3 .rw] [j.val, f.val, a.val] false = true := by decide +kernel

/-- A write of HST_AP_CTRL is an operation of its own. -/
theorem commandWrite_HST_AP_CTRL {s : State} {p : Path} {j : Nat} (hj : j < 2) {f : Nat} (hf : f < 128) {a : Nat} (ha : a < 4) {v : Nat} :
    commandWrite s p [j, f, a] (HST_AP_CTRL j f a) 0 1 v = some (apCtrlWrite s j f a v) := by
  unfold commandWrite
  simp only [List.getD_cons_zero, List.getD_cons_succ]
  refine (if_neg (by simp only [CFG_CMD, HST_AP_CTRL, HST_FN]; omega)).trans ?_
  refine (if_neg (by simp only [PWR_CAP, HST_AP_CTRL, HST_FN]; omega)).trans ?_
  refine (if_neg (by simp only [PWR_CMD, HST_AP_CTRL, HST_FN]; omega)).trans ?_
  refine (if_neg (by simp only [Bool.and_eq_true, decide_eq_true_eq]; simp only [HAL_SEM_ADD, HST_AP_CTRL, HST_FN]; omega)).trans ?_
  refine (if_neg (by simp only [HAL_CTX_LIST, HST_AP_CTRL, HST_FN]; omega)).trans ?_
  refine (if_neg (by simp only [HAL_CTX_CTRL, HST_AP_CTRL, HST_FN]; omega)).trans ?_
  refine (if_neg (by simp only [FLT_RING_TAIL, HST_AP_CTRL, HST_FN]; omega)).trans ?_
  refine (if_neg (by simp only [FLT_QUEUE_POP, HST_AP_CTRL, HST_FN]; omega)).trans ?_
  refine (if_neg (by simp only [Bool.and_eq_true, decide_eq_true_eq]; simp only [FLT_OVF, HST_AP_CTRL, HST_FN]; omega)).trans ?_
  refine (if_neg (by simp only [FLT_TWIN_CMD, HST_AP_CTRL, HST_FN]; omega)).trans ?_
  refine (if_neg (by simp only [SEC_W_CMD, HST_AP_CTRL, HST_FN]; omega)).trans ?_
  refine (if_neg (by simp only [Bool.or_eq_true, decide_eq_true_eq]; simp only [CNT_SNAP, HST_AP_CTRL, HST_FN]; omega)).trans ?_
  refine (if_neg (by simp only [CNT_CMD, HST_AP_CTRL, HST_FN]; omega)).trans ?_
  refine (if_neg (by simp only [Bool.and_eq_true, decide_eq_true_eq]; simp only [CNT_CHAIN, HST_AP_CTRL, HST_FN]; omega)).trans ?_
  refine (if_neg (by simp only [HST_FN_FENCE, HST_AP_CTRL, HST_FN]; omega)).trans ?_
  refine (if_neg (by simp only [HST_FN_NOTE_TAIL, HST_AP_CTRL, HST_FN]; omega)).trans ?_
  refine (if_neg (by simp only [HST_AP_BASE, HST_AP_CTRL, HST_FN]; omega)).trans ?_
  exact if_pos rfl

/-- LNK_LANE_ALIGN in the table. -/
theorem row_LNK_LANE_ALIGN : ∀ (hz : Bool) (n : Fin 528), rowIs hz (LNK_LANE_ALIGN n)
    [fld 0 0 0 .rw, fld 0 1 1 .wo, fld 0 2 2 .w1c, fld 0 31 16 .ro] [if n.val < 512 then n.val else n.val - 512] false = true := by decide +kernel

/-- LNK_LANE_EYE_CTRL in the table. -/
theorem row_LNK_LANE_EYE_CTRL : ∀ (hz : Bool) (n : Fin 528), rowIs hz (LNK_LANE_EYE_CTRL n)
    [fld 0 0 0 .rw, fld 0 7 2 .rw [(10, 40)], fld 0 15 8 .rw, fld 0 23 16 .rw, fld 0 25 24 .rw [(0, 2)]]
    [if n.val < 512 then n.val else n.val - 512] false = true := by decide +kernel

/-- LNK_PORT_CMD in the table. -/
theorem row_LNK_PORT_CMD : ∀ (hz : Bool) (p : Fin 258), rowIs hz (LNK_PORT_CMD p)
    [fld 0 0 0 .wo] [if p.val < 256 then p.val else p.val - 256] false = true := by decide +kernel

/-- LNK_DROOP in the table. -/
theorem row_LNK_DROOP : ∀ (hz : Bool) (d i : Fin 4), rowIs hz (LNK_DROOP d i) [fld 0 23 0 .ro, fld 0 31 31 .wo] [4 * d.val + i.val] false = true := by
  decide +kernel

/-- CNT_SLOT_CFG in the table. -/
theorem row_CNT_SLOT_CFG : ∀ k : Fin 64, rowIs true (CNT_SLOT_CFG k) [fld 0 11 0 .rw] [k.val] false = true := by decide +kernel

/-- IDN_SCRATCH in the table. -/
theorem row_IDN_SCRATCH : rowIs true IDN_SCRATCH [all32 0 .rw] [] false = true := by decide +kernel

/-- SEC_W_BUF in the table. -/
theorem row_SEC_W_BUF : ∀ w : Fin 5, rowIs true (SEC_W_BUF w) [fld 0 31 19 .rw, fld 1 7 0 .rw] [w.val] true = true := by decide +kernel

/-- An offset past LNK's ports that is no port's word. -/
theorem portWord_past {off o : Nat} (h : 0x502000 ≤ off) : portWord off o = none := by
  unfold portWord
  exact if_neg (by simp only [Bool.and_eq_true, decide_eq_true_eq]; simp only [LNK_PORT_CFG]; omega)

/-- A port's own word. -/
theorem portWord_port {p o : Nat} (h : p < 258) (ho : o < 0x1000) : portWord (LNK_PORT_CFG p + o) o = some p := by
  unfold portWord
  refine (if_pos (by simp only [Bool.and_eq_true, decide_eq_true_eq, beq_iff_eq]; simp only [LNK_PORT_CFG]; omega)).trans ?_
  congr 1
  simp only [LNK_PORT_CFG]
  omega

/-- A lane's own word. -/
theorem laneWord_lane {n o : Nat} (h : n < 528) (ho : o < 0x100) : laneWord (LNK_LANE_STATUS n + o) o = some n := by
  unfold laneWord
  refine (if_pos (by simp only [Bool.and_eq_true, decide_eq_true_eq, beq_iff_eq]; simp only [LNK_LANE_STATUS]; omega)).trans ?_
  congr 1
  simp only [LNK_LANE_STATUS]
  omega

/-- Another word of a lane, or none. -/
theorem laneWord_other {off o : Nat} (h : off % 0x100 ≠ o) : laneWord off o = none := by
  unfold laneWord
  exact if_neg (by simp only [Bool.and_eq_true, decide_eq_true_eq, beq_iff_eq]; simp only [LNK_LANE_STATUS]; omega)

/-- An offset outside the lanes. -/
theorem laneWord_outside {off o : Nat} (h : off < 0x600000 ∨ 0x621000 ≤ off) : laneWord off o = none := by
  unfold laneWord
  exact if_neg (by simp only [Bool.and_eq_true, decide_eq_true_eq, beq_iff_eq]; simp only [LNK_LANE_STATUS]; omega)

/-- What a write of LNK registers, of IDN's or of no command register at all comes to. -/
theorem commandWrite_other {s : State} {p : Path} {is : List Nat} {off n v : Nat} (h : off < 0x100000 ∨ 0x400000 ≤ off ∧ off < 0x800000 ∨
      (SEC_W_BUF 0 ≤ off ∧ off < 0x2800000 ∧ off % 0x1000 = 8 ∨ CNT_SLOT_CFG 0 ≤ off) ∧
      is.getD 0 0 < 64 ∧ is.getD 1 0 = 0 ∧ is.getD 2 0 = 0) :
    commandWrite s p is off 0 n v = match portWord off 0x18, laneWord off 8 with
    | some q, _ => some (if bit v 0 then retrain s q else s)
    | _, some l => some (alignWrite s l v)
    | _, _ => if LNK_DROOP 0 0 ≤ off && off < LNK_DROOP 4 0 then some (if bit v 31 then wr s off 0 else s) else none := by
  simp only [SEC_W_BUF, CNT_SLOT_CFG] at h
  unfold commandWrite
  refine (if_neg (by simp only [CFG_CMD]; omega)).trans ?_
  refine (if_neg (by simp only [PWR_CAP]; omega)).trans ?_
  refine (if_neg (by simp only [PWR_CMD]; omega)).trans ?_
  refine (if_neg (by simp only [Bool.and_eq_true, decide_eq_true_eq]; simp only [HAL_SEM_ADD]; omega)).trans ?_
  refine (if_neg (by simp only [HAL_CTX_LIST]; omega)).trans ?_
  refine (if_neg (by simp only [HAL_CTX_CTRL]; omega)).trans ?_
  refine (if_neg (by simp only [FLT_RING_TAIL]; omega)).trans ?_
  refine (if_neg (by simp only [FLT_QUEUE_POP]; omega)).trans ?_
  refine (if_neg (by simp only [Bool.and_eq_true, decide_eq_true_eq]; simp only [FLT_OVF]; omega)).trans ?_
  refine (if_neg (by simp only [FLT_TWIN_CMD]; omega)).trans ?_
  refine (if_neg (by simp only [SEC_W_CMD]; omega)).trans ?_
  refine (if_neg (by simp only [Bool.or_eq_true, decide_eq_true_eq]; simp only [CNT_SNAP]; omega)).trans ?_
  refine (if_neg (by simp only [CNT_CMD]; omega)).trans ?_
  refine (if_neg (by simp only [Bool.and_eq_true, decide_eq_true_eq]; simp only [CNT_CHAIN]; omega)).trans ?_
  refine (if_neg (by simp only [HST_FN_FENCE, HST_FN]; omega)).trans ?_
  refine (if_neg (by simp only [HST_FN_NOTE_TAIL, HST_FN]; omega)).trans ?_
  refine (if_neg (by simp only [HST_AP_BASE, HST_FN]; omega)).trans ?_
  refine (if_neg (by simp only [HST_AP_CTRL, HST_FN]; omega)).trans ?_
  rfl

/-- A write of LNK_LANE_ALIGN is an operation of its own. -/
theorem commandWrite_LNK_LANE_ALIGN {s : State} {p : Path} {is : List Nat} {n v : Nat} (h : n < 528) :
    commandWrite s p is (LNK_LANE_ALIGN n) 0 1 v = some (alignWrite s n v) := by
  rw [commandWrite_other (by simp only [LNK_LANE_ALIGN]; omega), portWord_past (by simp only [LNK_LANE_ALIGN]; omega),
    show LNK_LANE_ALIGN n = LNK_LANE_STATUS n + 8 by simp only [LNK_LANE_ALIGN, LNK_LANE_STATUS]; omega, laneWord_lane h (by omega)]

/-- A write of LNK_PORT_CMD is an operation of its own. -/
theorem commandWrite_LNK_PORT_CMD {s : State} {p : Path} {is : List Nat} {q v : Nat} (h : q < 258) :
    commandWrite s p is (LNK_PORT_CMD q) 0 1 v = some (if bit v 0 then retrain s q else s) := by
  rw [commandWrite_other (by simp only [LNK_PORT_CMD]; omega),
    show LNK_PORT_CMD q = LNK_PORT_CFG q + 0x18 by simp only [LNK_PORT_CMD, LNK_PORT_CFG]; omega, portWord_port h (by omega)]

/-- A write of LNK_DROOP is an operation of its own. -/
theorem commandWrite_LNK_DROOP {s : State} {p : Path} {is : List Nat} {d i v : Nat} (hd : d < 4) (hi : i < 4) :
    commandWrite s p is (LNK_DROOP d i) 0 1 v = some (if bit v 31 then wr s (LNK_DROOP d i) 0 else s) := by
  rw [commandWrite_other (by simp only [LNK_DROOP]; omega), portWord_past (by simp only [LNK_DROOP]; omega),
    laneWord_outside (by simp only [LNK_DROOP]; omega)]
  exact if_pos (by simp only [Bool.and_eq_true, decide_eq_true_eq]; simp only [LNK_DROOP]; omega)

/-- A register that is merely stored. -/
theorem commandWrite_stored {s : State} {p : Path} {is : List Nat} {off n v : Nat} (h : off < 0x100000 ∨
      0x600000 ≤ off ∧ off < 0x621000 ∧ off % 0x100 ≠ 8 ∨ (SEC_W_BUF 0 ≤ off ∧ off < 0x2800000 ∧ off % 0x1000 = 8 ∨ CNT_SLOT_CFG 0 ≤ off) ∧
      is.getD 0 0 < 64 ∧ is.getD 1 0 = 0 ∧ is.getD 2 0 = 0) :
    commandWrite s p is off 0 n v = none := by
  simp only [SEC_W_BUF, CNT_SLOT_CFG] at h
  have hp : portWord off 0x18 = none := by
    unfold portWord
    exact if_neg (by simp only [Bool.and_eq_true, decide_eq_true_eq]; simp only [LNK_PORT_CFG]; omega)
  have hl : laneWord off 8 = none := by
    unfold laneWord
    exact if_neg (by simp only [Bool.and_eq_true, decide_eq_true_eq, beq_iff_eq]; simp only [LNK_LANE_STATUS]; omega)
  rw [commandWrite_other (by simp only [SEC_W_BUF, CNT_SLOT_CFG]; omega), hp, hl]
  exact if_neg (by simp only [Bool.and_eq_true, decide_eq_true_eq]; simp only [LNK_DROOP]; omega)

/-- What a path's write of a register that is merely stored leaves. -/
theorem writeReg_stored {s : State} {p : Path} {off n v : Nat} {fs : List FieldRow} {is : List Nat} {wide : Bool} (h : MayPut s p off v)
    (hr : rowIs (hostTouch s p).part.hz7134 off fs is wide = true) (hc : fs.any (fun f => f.acc == .rwc) = false)
    (hw : (fs.filter fun f => decide (f.word < n)).any (fun f => f.acc.writable) = true)
    (hv : reservedIn off (fieldsOf fs n v) v = false) (he : commandWrite (hostTouch s p) p is off 0 n v = none) :
    writeReg (hostTouch s p) p off n v = (afterStore (forEach (fieldsOf fs n v) (hostTouch s p) fun s (f, x) =>
      if legalEnc f x then storeField s (off + 4 * f.word) f x else s) off v, false) := by
  obtain ⟨r, hf, h1, -⟩ := findReg_of_row hr h.mapped
  unfold writeReg
  rw [hf]
  have h2 : (writtenFields r 0 n v).any (fun e => e.1.acc == .rwc) = false := by
    rw [writtenFields_of h1]
    simp only [List.any_map, Function.comp_def, List.any_filter]
    rw [List.any_eq_false] at hc ⊢
    intro f hf
    have := hc f hf
    simp_all
  have h3 : (writtenFields r 0 n v).any (fun e => e.1.acc.writable) = true := by
    rw [writtenFields_of h1]
    simpa only [List.any_map, Function.comp_def] using hw
  simp only [h2, h3, h.may, h.hall, Bool.false_eq_true, if_false, Bool.not_true]
  have hrun : writeReg.run (hostTouch s p) p off n v is 0 (writtenFields r 0 n v) = afterStore (forEach (fieldsOf fs n v) (hostTouch s p)
      fun s (f, x) => if legalEnc f x then storeField s (off + 4 * f.word) f x else s) off v := by
    unfold writeReg.run
    rw [writtenFields_of h1]
    have := hv
    unfold fieldsOf at this
    simp only [this, Bool.false_eq_true, if_false, Nat.mul_zero, Nat.sub_zero, he]
    rfl
  cases hk : secWindow off with
  | none => simp only [hrun]
  | some k => simp only [h.window k hk, Bool.false_eq_true, if_false, hrun]

end Sys2Proof.Machine
end

