-- ==== Sys2Proof/Machine/Line.lean ====
section
/-! DEFINITION. The line code of a lane (R64-R70, R72): blocks, the scrambler, the codeword pairs of the RS(272,257) code, superframes
and flit slots. The commands speak of what the receiver has decoded; these functions say which bits stand for it on a lane. -/

namespace Sys2Proof.Machine

/-! ## Blocks (R64-R66) -/

/-- A block: its two-bit header and its payload. -/
structure LineBlock where
  header : BitVec 2
  payload : BitVec 64
  deriving DecidableEq, Repr

/-- What a header says: data, control, or nothing (R64). -/
def LineBlock.isData (b : LineBlock) : Bool := b.header == 0b01
def LineBlock.isControl (b : LineBlock) : Bool := b.header == 0b10
def LineBlock.invalid (b : LineBlock) : Bool := !(b.isData || b.isControl)

/-- A control block of a type with its bytes 1-7 (R66). -/
def controlBlock (kind : Byte) (v : BitVec 56) : LineBlock := { header := 0b10, payload := BitVec.ofNat 64 (kind.toNat + 256 * v.toNat) }

/-- The type of a control block, where R66 has it. -/
def controlKind (b : LineBlock) : Option Byte :=
  let k := BitVec.ofNat 8 b.payload.toNat
  if b.isControl && [0x1E, 0x2D, 0x33, 0x4B, 0x55, 0x66].contains k.toNat then some k else none

/-- IDLE, and ALIGN with the lane's index in its port and the rate step. -/
def idleBlock : LineBlock := controlBlock 0x1E 0
def alignBlock (lane step : Nat) : LineBlock := controlBlock 0x2D (BitVec.ofNat 56 (lane % 256 + 256 * (step % 4)))

/-- The bits of a block as they follow each other: header first, then the payload from bit 0 up (log entry 75 for the header's bits). -/
def LineBlock.bits (b : LineBlock) : List Bool :=
  (List.range 2).map (fun i => b.header.getLsbD i) ++ (List.range 64).map fun i => b.payload.getLsbD i

/-- Scramble bits with x^58 + x^39 + 1 (R65): the register holds the last 58 bits sent, the newest first. -/
def scrambleBits : List Bool → List Bool → List Bool
  | _, [] => []
  | reg, b :: bs =>
    let o := xor b (xor (reg.getD 38 false) (reg.getD 57 false))
    o :: scrambleBits ((o :: reg).take 58) bs

/-- Descramble bits: the register holds the last 58 bits received. -/
def descrambleBits : List Bool → List Bool → List Bool
  | _, [] => []
  | reg, b :: bs => xor b (xor (reg.getD 38 false) (reg.getD 57 false)) :: descrambleBits ((b :: reg).take 58) bs

/-! ## Forward error correction (R67, R68) -/

/-- Multiplication by α in GF(2^10) with x^10 + x^3 + 1. -/
def gfTimesAlpha (a : BitVec 10) : BitVec 10 := if a.msb then (a <<< 1) ^^^ 0x009 else a <<< 1

/-- Product in GF(2^10). -/
def gfMul (a b : BitVec 10) : BitVec 10 :=
  ((List.range 10).foldr (fun i r => gfTimesAlpha r ^^^ (if b.getLsbD i then a else 0)) (0 : BitVec 10))

/-- α to a power. -/
def gfAlpha (n : Nat) : BitVec 10 := iter gfTimesAlpha n 1

/-- A polynomial, highest coefficient first, at a point. -/
def gfEval (p : List (BitVec 10)) (x : BitVec 10) : BitVec 10 := p.foldl (fun r c => gfMul r x ^^^ c) 0

/-- The generator polynomial with roots α^0 to α^14, highest coefficient first. -/
def rsGenerator : List (BitVec 10) :=
  (List.range 15).foldl (fun g i => (g ++ [0]).zipWith (· ^^^ ·) (0 :: g.map (gfMul · (gfAlpha i)))) [1]

/-- One message symbol enters the parity register. -/
def rsStep (reg : List (BitVec 10)) (m : BitVec 10) : List (BitVec 10) :=
  let f := m ^^^ reg.headD 0
  (reg.drop 1 ++ [0]).zipWith (· ^^^ ·) (rsGenerator.tail.map (gfMul f))

/-- The 15 parity symbols of a codeword's 257 message symbols (log entry 75 for their order). -/
def rsParity (msg : List (BitVec 10)) : List (BitVec 10) := msg.foldl rsStep (List.replicate 15 0)

/-- The syndromes of a received codeword: all zero where it has no errors. -/
def rsSyndromes (cw : List (BitVec 10)) : List (BitVec 10) := (List.range 15).map fun i => gfEval cw (gfAlpha i)

/-- The symbols of the 5,140 message bits of a pair: bit i goes to symbol i div 10. -/
def pairSymbols (bs : List Bool) : List (BitVec 10) :=
  (List.range 514).map fun k => BitVec.ofNat 10 ((List.range 10).foldl (fun a i => a + (if bs.getD (10 * k + i) false then 2 ^ i else 0)) 0)

/-- Even symbols, of codeword A, or odd ones, of codeword B. -/
def everyOther : Bool → List (BitVec 10) → List (BitVec 10)
  | _, [] => []
  | take, x :: xs => if take then x :: everyOther false xs else everyOther true xs

/-- The 544 symbols of a pair as they are sent: the message, then the parities of A and B in turn. -/
def pairSent (msg : List (BitVec 10)) : List (BitVec 10) :=
  msg ++ ((rsParity (everyOther true msg)).zip (rsParity (everyOther false msg))).flatMap fun (a, b) => [a, b]

/-! ## Superframes and flit slots (R69, R72) -/

/-- Codeword pairs and blocks of a superframe. -/
def superframePairs : Nat := 33
def superframeBlocks : Nat := 2570

/-- The lane, among `lanes` in ascending order, that carries block `k` of the port's stream without its ALIGN blocks. -/
def laneOfBlock (lanes : List Nat) (k : Nat) : Option Nat := lanes[k % lanes.length]?

/-- A flit's 256 bytes as 32 data blocks. -/
def flitBlocks (f : Flit) : List LineBlock :=
  let bytes := slice f.payload 0 240 ++ leBytes 8 f.control ++ leBytes 8 f.crc.toNat
  (List.range 32).map fun k => { header := 0b01, payload := BitVec.ofNat 64 (leAt bytes (8 * k) 8) }

/-- What a slot of 32 blocks holds: a flit's bytes, nothing, or a mix that is discarded as a failed flit. -/
inductive Slot where
  | flit (bytes : List Byte)
  | idle
  | failed
  deriving DecidableEq, Repr

/-- Read a slot (R72); an invalid header spoils it (R64). -/
def readSlot (bs : List LineBlock) : Slot :=
  if bs.length = 32 && bs.all LineBlock.isData then .flit (bs.flatMap fun b => leBytes 8 b.payload.toNat)
  else if bs.length = 32 && bs.all (fun b => controlKind b == some 0x1E) then .idle
  else .failed

/-- The stream a port's lanes carry between two ALIGN blocks, block by block, dealt to the lanes. -/
def dealBlocks (lanes : List Nat) (bs : List LineBlock) : List (Nat × List LineBlock) :=
  lanes.zipIdx.map fun (n, i) => (n, (bs.zipIdx.filter fun x => x.2 % lanes.length == i).map (·.1))

end Sys2Proof.Machine
end

