-- ==== Sys2Proof/Tests/Slice0.lean ====
section
/-! SUPPORT. Tests: the well-formedness checks refuse an ill-formed command each; for each obligation a concrete state and operands that
meet the hypotheses of its clauses; and a few single steps whose results are the manual's own numbers. -/

open Sys2Proof Sys2Proof.Machine

namespace Sys2Proof.Tests

set_option Elab.async false

/-- The state after reset with the words given stored, at a stamp of the local counter. -/
def st (ws : List (Nat × Nat)) (now : Nat := 0) : State := { ws.foldl (fun s w => wr s w.1 w.2) State.reset with now := now }

/-- A packet of an opcode, from and to EPCs, with an operation field and a payload. -/
def pkt (op : Byte) (src dest : Epc) (opf : BitVec 96 := 0) (body : List Byte := []) : Packet :=
  mkPkt op 0 dest src opf body

/-- A delivered packet that is no duplicate. -/
def dlv (p : Packet) : Delivered := { pkt := p, ing := .mgmt, dup := false }

/-- What the state after a command holds, seen through `f`. -/
def then_ {α : Type} (c : Instr) (s : State) (f : State → α) : Option α :=
  match exec c s with | .next t => some (f t) | _ => none

theorem canon_reset : State.reset.Canon := by constructor <;> decide

/-! ## Well-formedness -/

/-- A register access has 4 or 8 bytes (R7). -/
theorem test_wf_size : (Instr.registerWrite .i3c 0 5 0).wf = false ∧ (Instr.registerRead .annex 0 16).wf = false ∧
    (Instr.liveRead .i3c 0 2).wf = false ∧ (Instr.registerWrite .i3c 0 8 0).wf = true := by decide

/-- A packet's payload has the length its header states, at most 4,096 bytes (R110). -/
theorem test_wf_packet :
    (Instr.packetArrive (.port 0) { pkt opREAD 0 0 with length := 1 }).wf = false ∧
    (Instr.packetArrive (.port 0) { pkt opREAD 0 0 with length := 4097, payload := List.replicate 4097 0 }).wf = false ∧
    (Instr.packetArrive (.port 0) (pkt opREAD 0 0)).wf = true := by decide +kernel

/-- So has a delivered one, whatever its row. -/
theorem test_wf_delivered : ([.read, .readVol, .write, .writeMask, .atomic, .regRead, .regWrite, .takeShared, .takeExcl, .give, .evictNotice,
      .snoopInv, .fwdShared, .fwdExcl, .recall, .comp, .data, .compAck, .snoopResp, .snoopData, .collPush, .collPartial, .collResult, .collA2a,
      .revoke, .streamWrite, .telemetry, .vote, .committed, .arrived, .release, .reissue, .regather, .a2aEnd, .a2aCount,
      .hostInboundRequest] : List (Delivered → Instr)).all (fun c =>
    !(c (dlv { pkt opREAD 0 0 with length := 2, payload := [7] })).wf && (c (dlv (pkt opREAD 0 0))).wf) = true := by decide +kernel

/-- A flit with a payload area of so many bytes. -/
def flitOf (n : Nat) : Flit :=
  { seq := 0, fvc := 0, stop := false, ackSeq := 0, ackKind := 0, c0Grant := 0, crVc := 0, crGrant := 0,
    payload := List.replicate n 0, crc := 0 }

/-- A flit's payload area has 240 bytes (R94). -/
theorem test_wf_flit : (Instr.flitReceive 0 (flitOf 239) false).wf = false ∧ (Instr.flitReceive 0 (flitOf 241) false).wf = false ∧
    (Instr.flitReceive 0 (flitOf 240) false).wf = true := by decide +kernel

/-- A BAR2 access has 1 to 4,096 bytes (R450). -/
theorem test_wf_bar2 : (Instr.bar2Write 0 0 0 []).wf = false ∧ (Instr.bar2Write 0 0 0 (List.replicate 4097 0)).wf = false ∧
    (Instr.bar2Read 0 0 0 0).wf = false ∧ (Instr.bar2Read 0 0 0 4097).wf = false ∧ (Instr.bar2Read 0 0 0 4096).wf = true := by decide +kernel

/-- A PCIe atomic has 4, 8 or 16 bytes (R450). -/
theorem test_wf_atomic : (Instr.bar2Fetchadd 0 0 0 2 0).wf = false ∧ (Instr.bar2Swap 0 0 0 12 0).wf = false ∧
    (Instr.bar2Cas 0 0 0 32 0 0).wf = false ∧ (Instr.bar2Cas 0 0 0 16 0 0).wf = true := by decide

/-! ## Links (chapter 3) -/

/-- Lane `n` alone in service of nothing, in a phase. -/
def lk (n : Nat) (l : Lane) (ws : List (Nat × Nat) := []) (now : Nat := 0) : State := setLane (st ws now) n l

theorem test_meets_LocksCompleteInOrder :
    (live (lk 0 { phase := .lock }) = true ∧ (lane (lk 0 { phase := .lock }) 0).phase = .lock) ∧
    (let s := lk 527 { phase := .inPort, idleDeadline := 1 }
     live s = true ∧ (lane s 527).phase = .inPort ∧ (lane s 527).idleDeadline ≠ 0) ∧
    (let s := lk 0 { phase := .lock } [(LNK_LANE_STATUS 0, 2 ^ 5)]
     live s = true ∧ (lane s 0).phase = .lock ∧ bitOf s (LNK_LANE_STATUS 0) 5 = true) ∧
    (let s := lk 527 { phase := .lock } [(LNK_LANE_STATUS 527, 2 ^ 5 + 2 ^ 6)]
     live s = true ∧ (lane s 527).phase = .lock ∧ bitOf s (LNK_LANE_STATUS 527) 6 = true) := by decide +kernel

/-- The state after reset with port `p` in service. -/
def upAt (p : Nat) (ws : List (Nat × Nat) := []) (now : Nat := 0) : State := st ((LNK_PORT_STATUS p, 3) :: ws) now

theorem canon_upAt_0 : (upAt 0).Canon := by constructor <;> decide +kernel

/-- A flit with a CRC that is one too high. -/
def spoilt (f : Flit) : Flit := { f with crc := f.goodCrc + 1 }

theorem spoilt_crc (f : Flit) : (spoilt f).crc ≠ (spoilt f).goodCrc := by
  have g (x : BitVec 64) : x + 1 ≠ x := by bv_omega
  exact g f.goodCrc

theorem test_meets_CodewordsCorrectedOrFlagged :
    (live (lk 0 {} [(LNK_LANE_STATUS 0, 2 ^ 5)]) = true ∧ bitOf (lk 0 {} [(LNK_LANE_STATUS 0, 2 ^ 5)]) (LNK_LANE_STATUS 0) 5 = true) ∧
    (live (upAt 0) = true ∧ inService (upAt 0) 0 = true) ∧ (spoilt (flitOf 240)).crc ≠ (spoilt (flitOf 240)).goodCrc ∧ (upAt 0).Canon :=
  ⟨by decide +kernel, by decide +kernel, spoilt_crc (flitOf 240), canon_upAt_0⟩

theorem test_meets_TrainingAdvancesOrTimesOut :
    (∀ ph ∈ [LanePhase.detect, .exchange, .equalise, .verify, .readyWait],
      live (lk 0 { phase := ph }) = true ∧ (lane (lk 0 { phase := ph }) 0).phase = ph) ∧
    (let s := lk 527 { phase := .readyWait, readyTx := true, readyRx := true }
     (lane s 527).phase = .readyWait ∧ (lane s 527).readyTx = true ∧ (lane s 527).readyRx = true) ∧
    (let s := lk 0 { phase := .failed, restartAt := 1000000000 } [(LNK_PORT_CFG 0, 1 + 3 * 2)] 1000000000
     live s = true ∧ (lane s 0).phase = .failed ∧ (lane s 0).restartAt ≤ s.now ∧ (trainPort s 0).isSome = true) ∧
    (∀ ph ∈ [LanePhase.detect, .exchange, .equalise, .verify],
      (let l := lane (lk 0 { phase := ph, deadline := 5 } [] 5) 0
       l.phase ∈ [LanePhase.detect, .exchange, .equalise, .verify] ∧ l.deadline ≤ (lk 0 { phase := ph, deadline := 5 } [] 5).now)) ∧
    (let s := lk 0 { phase := .lock, deadline := 2000000 } [] 2000000
     (lane s 0).phase = .lock ∧ (lane s 0).deadline ≤ s.now ∧ bitOf s (LNK_LANE_ALIGN 0) 0 = false) ∧
    (let s := lk 0 { phase := .lock, deadline := 2000000, manualSince := 7 } [(LNK_LANE_ALIGN 0, 1)] 100000007
     let l := lane s 0
     l.phase = .lock ∧ bitOf s (LNK_LANE_ALIGN 0) 0 = true ∧ max l.manualSince (l.deadline - 2000000) + 100000000 ≤ s.now) := by decide +kernel

theorem canon_lk_quar : (lk 0 {} [(LNK_LANE_QUAR 0, 6 * 2 ^ 10)]).Canon := by constructor <;> decide +kernel

theorem test_meets_LossesOfLockQuarantine :
    (let s := lk 0 { phase := .inPort, losses := List.replicate 8 0 } [] 1000000000
     live s = true ∧ (bitOf s (LNK_LANE_STATUS 0) 5 = true ∨ (lane s 0).phase = .inPort) ∧ (lane s 0).eiRx = false ∧
     ((lane s 0).losses.filter fun t => decide (s.now ≤ t + 1000000000)).length = 8) ∧
    (let s := lk 0 {} [(LNK_LANE_STATUS 0, 5)]
     live s = true ∧ (laneState s 0 = 5 ∨ bitOf s (LNK_LANE_STATUS 0) 5 = true)) ∧
    (let s := lk 0 { quarUntil := 9 } [(LNK_LANE_STATUS 0, 5)] 9
     live s = true ∧ laneState s 0 = 5 ∧ (lane s 0).quarUntil ≤ s.now) ∧
    (let s := lk 0 { phase := .inPort, cleanSince := 3 } [] 600000000003
     live s = true ∧ (lane s 0).phase = .inPort ∧ (lane s 0).cleanSince + 600000000000 ≤ s.now) ∧
    (lk 0 {} [(LNK_LANE_QUAR 0, 6 * 2 ^ 10)]).Canon ∧ fldOf (lk 0 {} [(LNK_LANE_QUAR 0, 6 * 2 ^ 10)]) (LNK_LANE_QUAR 0) 13 10 ≤ 6 :=
  ⟨by decide +kernel, by decide +kernel, by decide +kernel, by decide +kernel, canon_lk_quar, by decide +kernel⟩

theorem test_meets_PortsEnterService :
    (let s := st [(LNK_PORT_STATUS 0, 2), (LNK_PORT_CFG 0, 1)]
     live s = true ∧ portState s 0 = 2 ∧ portEnabled s 0 = true ∧ portExists s 0 = true) ∧
    (let s := setLink (st [(LNK_PORT_STATUS 257, 2)] 1000000000) 257 { skewFail := true }
     live s = true ∧ portState s 257 = 2 ∧ (link s 257).skewFail = true ∧ (link s 257).checkAt + 1000000000 ≤ s.now) ∧
    (let s := upAt 256 [(LNK_TWIN_STATUS, 1)]
     live s = true ∧ inService s 256 = true ∧ twinActive s = 1 ∧ (link s 257).replay = []) := by decide +kernel

theorem test_meets_ElectricalIdleEntersAndLeaves :
    (let s := upAt 0 [(LNK_PORT_CFG 0, 2 ^ 10 + 2 ^ 16)] 10
     live s = true ∧ inService s 0 = true ∧ txIdle s 0 = false ∧ hasToSend s 0 = false ∧ idleDue s 0 = true) ∧
    (let s := setLink (st [(LNK_PORT_STATUS 0, 3 + 2 ^ 9)] 80) 0 { owed := 1 }
     live s = true ∧ inService s 0 = true ∧ txIdle s 0 = true ∧ hasToSend s 0 = true ∧ (link s 0).stopHush = false ∧ heldIdle s 0 = false ∧
     (link s 0).idleAt + 80 ≤ s.now) ∧
    (let s := setLane (upAt 256 [(LNK_PORT_CFG 256, 1 + 4 * 2), (LNK_PORT_STATUS 256, 3 + 255 * 2 ^ 11)]) 519 { phase := .inPort }
     portOfLane s 519 = some (256, 7) ∧ inService s 256 = true ∧ (lane s 519).phase = .inPort ∧ 519 ∈ maskLanes s 256) ∧
    (let s := setLane (upAt 256) 512 { eiRx := true }
     portOfLane s 512 = some (256, 0) ∧ inService s 256 = true ∧ (lane s 512).eiRx = true) ∧
    (let s := setLane (upAt 256 [] 4) 512 { idleDeadline := 4 }
     portOfLane s 512 = some (256, 0) ∧ (lane s 512).idleDeadline ≠ 0 ∧ (lane s 512).idleDeadline ≤ s.now ∧
     bitOf s (LNK_LANE_STATUS 512) 5 = false) := by decide +kernel

theorem test_meets_WidthsChangeAtTheLaterBoundary :
    (live (upAt 0) = true ∧ inService (upAt 0) 0 = true ∧
     ∀ w, (link (upAt 0) 0).widthPeer = some w → (200 : Byte) ≠ w.seq ∧ (200 + 256 - w.seq.toNat) % 256 < 128) ∧
    (let s := setLink (upAt 0) 0 { widthPeer := some { seq := 255, mask := 15, boundary := 0 } }
     (∀ w, (link s 0).widthPeer = some w → (126 : Byte) ≠ w.seq ∧ ((126 : Byte).toNat + 256 - w.seq.toNat) % 256 < 128) ∧
     ¬(∀ w, (link s 0).widthPeer = some w → (127 : Byte) ≠ w.seq ∧ ((127 : Byte).toNat + 256 - w.seq.toNat) % 256 < 128)) ∧
    (let s := setLink (upAt 0) 0 { widthMine := some { seq := 1, mask := 3, boundary := 0 }, widthPeer := some { seq := 0, mask := 1, boundary := 0 } }
     ∃ a b, (link s 0).widthMine = some a ∧ (link s 0).widthPeer = some b ∧ live s = true ∧ inService s 0 = true ∧
       sfReached s 0 (sfLater a.boundary.toNat b.boundary.toNat) = true) := by
  refine ⟨⟨by decide +kernel, by decide +kernel, ?_⟩, ⟨?_, ?_⟩, ?_⟩
  · intro w h; exact absurd h (by decide +revert +kernel)
  · intro w h
    obtain rfl : { seq := 255, mask := 15, boundary := 0 } = w := Option.some.inj h
    decide
  · intro h
    exact absurd (h _ rfl) (by decide)
  · exact ⟨_, _, rfl, rfl, by decide +kernel⟩

theorem test_meets_MarginMonitorsReport :
    (let s := st [(LNK_LANE_STATUS 0, 3)]
     live s = true ∧ laneState s 0 = 3 ∧ bitOf s (LNK_LANE_EYE_CTRL 0) 0 = false) ∧
    (let s := st [(LNK_LANE_STATUS 527, 3), (LNK_LANE_EYE_CTRL 527, 1)]
     live s = true ∧ laneState s 527 = 3 ∧ bitOf s (LNK_LANE_EYE_CTRL 527) 0 = true) ∧
    (isOptical (st []) 64 = true ∧ isOptical (st []) 511 = true ∧ laneState (st []) 64 ≠ 4 ∧ laneState (st []) 64 ≠ 5) ∧
    (let s := st [(LNK_DROOP 3 3, 700)]
     fldOf s (LNK_DROOP 0 0) 11 0 = 0 ∧ (699 : BitVec 12).toNat < fldOf s (LNK_DROOP 3 3) 11 0 ∧
     fldOf s (LNK_DROOP 3 3) 11 0 ≠ 0 ∧ fldOf s (LNK_DROOP 3 3) 11 0 ≤ (700 : BitVec 12).toNat) := by decide +kernel

/-- A single burst of 14 symbol errors over the two codewords of a pair is corrected; 8 in one codeword by themselves are not (R68). -/
theorem test_codeword_burst_of_14 :
    let s := st [(LNK_LANE_STATUS 0, 2 ^ 5)]
    let seen (t : State) := (rd64 t (LNK_LANE_FEC_CORR 0), rd64 t (LNK_LANE_FEC_UNCORR 0))
    then_ (.codewordDecode 0 8 6 true) s seen = some (14, 0) ∧ then_ (.codewordDecode 0 8 6 false) s seen = some (6, 1) := by decide +kernel

/-- The first loss that quarantines a lane is silent for 10 s, and raises the level to 1 (R86). -/
theorem test_quarantine_first_level :
    then_ (.lossOfLock 0) (lk 0 { phase := .inPort, losses := List.replicate 8 0 } [] 1000000000)
      (fun t => (laneState t 0, (lane t 0).quarUntil, fldOf t (LNK_LANE_QUAR 0) 13 10)) = some (5, 11000000000, 1) := by decide +kernel

/-- The generator polynomial of R67 vanishes at its roots, a parity makes every syndrome zero, and what is scrambled comes back (R65). -/
theorem test_line_code : (rsSyndromes rsGenerator).all (· == 0) = true ∧
    (let m : List (BitVec 10) := [1, 0x3FF, 0x155]; (rsSyndromes (m ++ rsParity m)).all (· == 0)) = true ∧
    (let b := (alignBlock 3 2).bits; descrambleBits [] (scrambleBits [] b)) = (alignBlock 3 2).bits ∧
    readSlot (flitBlocks (flitOf 240)) ≠ .failed ∧
    readSlot (List.replicate 31 idleBlock ++ [alignBlock 0 0]) = .failed ∧ readSlot (List.replicate 32 idleBlock) = .idle := by
  decide +kernel

/-! ## Flits and the switch core (chapters 4 and 5) -/

theorem seal_crc (f : Flit) : f.seal.crc = f.seal.goodCrc := rfl

/-- A flit in a replay buffer that carries nothing. -/
def sentFlit (seq : BitVec 12) : ReplayEntry := { flit := { flitOf 240 with seq := seq }, carries := [], sentAt := 0 }

theorem test_meets_FlitsFollowTheirSequence :
    (live (upAt 257) = true ∧ inService (upAt 257) 257 = true ∧ (flitOf 240).seal.crc = (flitOf 240).seal.goodCrc ∧ (flitOf 240).seal.fvc.toNat ≤ 5) ∧
    (({ flitOf 240 with fvc := 7 } : Flit).seal.crc = ({ flitOf 240 with fvc := 7 } : Flit).seal.goodCrc ∧
     ({ flitOf 240 with fvc := 7 } : Flit).seal.fvc = 7) ∧
    (let s := setLink (upAt 0 [] 12000) 0 { replay := [sentFlit 0] }
     live s = true ∧ inService s 0 = true ∧ (link s 0).replay = [sentFlit 0] ∧ (link s 0).resend ≠ some 0 ∧
     (sentFlit 0).sentAt + tAck (link s 0) ≤ s.now) ∧
    (let s := setLink (upAt 0) 0 { waitTokens := 1, tokens := tokenUnit, init := #v[1, 0, 0, 0, 0, 0] }
     live s = true ∧ (link s 0).waitTokens ≠ 0 ∧ tokenUnit ≤ tokensNow s 0) ∧
    (seqDist (link (upAt 0) 0).rxNext (sentFlit 1).flit.seq ≠ 0 ∧ seqDist (link (upAt 0) 0).rxNext (sentFlit 3583).flit.seq < 4096 - 512) ∧
    4096 - 512 ≤ seqDist (link (upAt 0) 0).rxNext (sentFlit 3584).flit.seq ∧
    (seqDist (link (upAt 0) 0).rxNext (sentFlit 0).flit.seq = 0 ∧ (upAt 0).Canon) ∧
    (let s := setLink (upAt 0) 0 { replay := [sentFlit 0], oldestTries := 15 }
     (link s 0).replay = [sentFlit 0] ∧ (link s 0).oldestTries < 16) ∧
    (let s := setLink (upAt 0) 0 { replay := [sentFlit 0], oldestTries := 16 }
     (link s 0).replay = [sentFlit 0] ∧ 16 ≤ (link s 0).oldestTries) :=
  ⟨⟨by decide +kernel, by decide +kernel, seal_crc _, by decide⟩, ⟨seal_crc _, by decide⟩, by decide +kernel, by decide +kernel, by decide +kernel,
   by decide +kernel, ⟨by decide +kernel, canon_upAt_0⟩, by decide +kernel, by decide +kernel⟩

/-- A READ of line 0 of the module's own memory from a compute seat. -/
def rdPkt (src dest : Epc) : Packet := mkPkt opREAD 1 dest src 0 []

/-- The state of the module with the hypotheses every arrival has. -/
def arrivedAt (s : State) (ing : Ingress) (p : Packet) : Prop :=
  live s = true ∧ mayArrive s ing p = true ∧ s.pwr.inReset.contains .hearthCore = false ∧ dieDead s .hearth = false

/-- The state in which an arrival's source and partition are looked at. -/
def looked (s : State) (ing : Ingress) (p : Packet) : State :=
  let a := { s with arrivals := s.arrivals.erase (ing, p) }
  let a := if p.vc < 6 then ev (ev a (1192 + p.vc) 1) (1200 + p.vc) p.cells else a
  takeCells (mirrorSample a p ing) p.cells

theorem test_meets_ArrivalsAreCheckedInOrder :
    (let p : Packet := { rdPkt 0 0 with length := 512, payload := List.replicate 512 0 }
     arrivedAt (upAt 0) (.port 0) p ∧ p.framing = true) ∧
    (let p : Packet := { rdPkt 0 0 with opcode := 0 }
     arrivedAt (upAt 0) (.port 0) p ∧ p.framing = false ∧ isMalformed p = true) ∧
    (let p := rdPkt 32 0
     arrivedAt (upAt 0) (.port 0) p ∧ p.framing = false ∧ isMalformed p = false ∧ isDownPort (looked (upAt 0) (.port 0) p) 0 = true ∧
     sourceOk (looked (upAt 0) (.port 0) p) p 0 = false) ∧
    (let p := rdPkt (seatOfPort (upAt 63) 63) 0
     arrivedAt (upAt 63) (.port 63) p ∧ p.framing = false ∧ isMalformed p = false ∧ isDownPort (looked (upAt 63) (.port 63) p) 63 = true ∧
     sourceOk (looked (upAt 63) (.port 63) p) p 63 = true ∧ portAdmits (looked (upAt 63) (.port 63) p) p 63 = false) ∧
    (let s := upAt 0 [(SEC_ADMIT 0 0, 1)]
     let p := rdPkt (seatOfPort s 0) 0
     arrivedAt s (.port 0) p ∧ p.framing = false ∧ isMalformed p = false ∧ isDownPort (looked s (.port 0) p) 0 = true ∧
     sourceOk (looked s (.port 0) p) p 0 = true ∧ portAdmits (looked s (.port 0) p) p 0 = true) ∧
    (arrivedAt (st []) .mgmt (rdPkt 0 0) ∧ ∀ q : PortNo, Ingress.mgmt = .port q → isDownPort (looked (st []) .mgmt (rdPkt 0 0)) q = false) := by
  refine ⟨?_, ?_, ?_, ?_, ?_, ?_, fun q h => nomatch h⟩ <;> unfold arrivedAt <;> decide +kernel

/-- A packet of 3 cells in an output queue. -/
def queued (p : Packet) (eg : Egress) : QEntry :=
  { pkt := p, ing := .mgmt, period := 0, kind := .out, targets := [(eg, 0)], freed := 0, colour := .green, dup := false }

theorem test_meets_SlotsNotesAndTelemetry :
    (crossingClosed (upAt 0) (.port 0) = false ∧ inService (upAt 0) 0 = true ∧ txIdle (upAt 0) 0 = false ∧ live (upAt 0) = true) ∧
    (let s := st [(LNK_PORT_STATUS 257, 3 + 2 ^ 9)]
     crossingClosed s (.port 257) = false ∧ inService s 257 = true ∧ txIdle s 257 = true) ∧
    (crossingClosed (st []) (.port 0) = false ∧ inService (st []) 0 = false) ∧
    ((∀ p, Egress.mgmt ≠ .port p) ∧ crossingClosed (st []) .mgmt = false) ∧
    (let s := { st [] with pwr := { inReset := [.hub] } }
     live s = true ∧ crossingClosed s .hall = true) ∧
    (let p : Packet := { rdPkt 0 0 with cls := 4, length := 600, payload := List.replicate 600 0 }
     let s := setPsw (st [(SWC_MARK 255, 3)] 1000) 255 { lastIn := Vector.replicate 6 (some p), marked := Vector.replicate 6 true, noteAt := Vector.replicate 6 1 }
     let s := { s with sw := { s.sw with queue := [queued p (.port 255)] } }
     live s = true ∧ vget none (pswOf s 255).lastIn 4 = some p ∧ vget false (pswOf s 255).marked 4 = true ∧
     vget 0 (pswOf s 255).noteAt 4 ≠ s.now / 1000 + 1 ∧ fldOf s (SWC_MARK 255) 15 0 ≤ queueDepth s (egPort 255) 4) ∧
    (let d := dlv (pkt opTELEMETRY 0 (myEpc (st []) 0))
     d.pkt.opcode = opTELEMETRY ∧ isMine (st []) d.pkt.dest = true ∧ epcUnit d.pkt.dest = 0) := by
  refine ⟨?_, ?_, ?_, ⟨fun p h => (nomatch h), ?_⟩, ?_, ?_, ?_⟩ <;> decide +kernel

/-- A drain of port 3's own bit of SWC_ROUTE_EN. -/
def drain3 : Drain := { owner := .port 3, shadow := [], enable := [3], startAt := 0, settleAt := 0 }

/-- A state in which that drain, for another owner if so asked, is at a STATE. -/
def draining (stage now : Nat) (o : DrainOwner := .port 3) : State :=
  let s := st [(SWC_DRAIN_STATUS, stage), (SWC_DRAIN_CFG, 2 ^ 16)] now
  { s with sw := { s.sw with drain := some { drain3 with owner := o } } }

theorem test_meets_DrainsRunTheirSteps :
    (let s := draining 1 9999
     live s = true ∧ s.sw.drain = some drain3 ∧ fldOf s SWC_DRAIN_STATUS 1 0 = 1 ∧ drainQuiet s = true ∧
     s.now < drain3.startAt + fldOf s SWC_DRAIN_CFG 31 16 * 10000) ∧
    (fldOf (draining 2 0) SWC_DRAIN_STATUS 1 0 = 2 ∧ drain3.settleAt ≤ (draining 2 0).now) ∧
    (fldOf (draining 3 0) SWC_DRAIN_STATUS 1 0 = 3 ∧ ∀ e ∈ (draining 3 0).sw.queue, e.kind ≠ .hold) ∧
    (∀ o ∈ [DrainOwner.port 3, .request 0, .commitJob, .returnJob],
      let s := draining 1 10000 o
      s.sw.drain = some { drain3 with owner := o } ∧ fldOf s SWC_DRAIN_STATUS 1 0 = 1 ∧
      drain3.startAt + fldOf s SWC_DRAIN_CFG 31 16 * 10000 ≤ s.now) := by decide +kernel

theorem test_meets_SwitchUpkeep :
    (let s := upAt 255 [(PWR_STATUS, 5 * 8)] 5
     let s := { s with sw := { s.sw with routeAdd := [(255, 6)] } }
     live s = true ∧ inService s 255 = true ∧ serving s = true ∧ routeEn s 255 = false ∧ cget 0 s.sw.routeAdd 255 ≠ 0 ∧
     cget 0 s.sw.routeAdd 255 ≤ s.now + 1 ∧ s.sw.drain = none) ∧
    (let m : MirrorRec := { stamp := 0, port := 0, cls := 0, trunc := false, wire := 32, samples := 1, skips := 0, copied := [] }
     ∃ rest, ({ st [] with sw := { (st []).sw with mirror := [m] } } : State).sw.mirror = m :: rest) ∧
    (let s := st [] 50000000
     live s = true ∧ (s.sw.nextAudit + 1) * 50000000 ≤ s.now) :=
  ⟨by decide +kernel, ⟨[], rfl⟩, by decide +kernel⟩

/-- A sequenced flit 512 behind is a duplicate, one 513 behind is not (R100). -/
theorem test_duplicate_window :
    takeSequenced (setLink (upAt 0) 0 { rxNext := 512 }) 0 { flitOf 240 with seq := 0 } = setLink (upAt 0) 0 { rxNext := 512 } ∧
    (link (takeSequenced (setLink (upAt 0) 0 { rxNext := 513 }) 0 { flitOf 240 with seq := 0 }) 0).rxFailed = true := by decide +kernel

/-- A lost pair of cells is first found and then reclaimed, 50 ms later (R159). -/
theorem test_audit_twice :
    let s := { st [] 50000000 with sw := { free := 786430 } }
    then_ .bufAudit s (fun t => (fldOf t SWC_AUDIT 15 0, t.sw.free, t.sw.lastMissing)) = some (2, 786430, 2) ∧
    then_ .bufAudit { s with sw := { s.sw with lastMissing := 2 } } (fun t => (t.sw.free, rd t SWC_AUDIT_RECLAIMED)) = some (786432, 2) := by
  decide +kernel

/-! ## The end-to-end layer and the caches (chapters 4, 6 and 7) -/

/-- A request of the module's Unit `u` of class `cls` to seat 0, first sent at 0. -/
def outReq (n u cls : Nat) (a : OutState := .sent) (tries : Nat := 0) : OutReq :=
  { n := n, pkt := mkPkt opREAD cls 0 (BitVec.ofNat 24 (32 + u)) 0 [], local_ := false, agent := .probe, fn := none, st := a, first := 0, last := 0,
    tries := tries }

/-- A state with these requests outstanding. -/
def withOuts (rs : List OutReq) (now : Nat := 0) : State := { st [] now with e2e := { outs := rs } }

theorem test_meets_SourcesRetryThenGiveUp :
    (let s := withOuts [outReq 1 8 1 .sent 2, outReq 2 8 1] 16000
     live s = true ∧ oldestOf s 40 0 = some (outReq 1 8 1 .sent 2) ∧ (outReq 1 8 1 .sent 2).last + 16000 ≤ s.now ∧ (outReq 1 8 1 .sent 2).tries < 3) ∧
    (let s := withOuts [outReq 1 8 1 .sent 3] 16000
     oldestOf s 40 0 = some (outReq 1 8 1 .sent 3) ∧ 3 ≤ (outReq 1 8 1 .sent 3).tries) ∧
    (let s := withOuts [outReq 7 10 0] 16000
     (s.e2e.outs.find? fun r => r.n == 7 && r.isSent && r.pkt.vc == 0 && !r.local_) = some (outReq 7 10 0) ∧ (outReq 7 10 0).last + 16000 ≤ s.now) ∧
    (let s := { st [] 2000005 with e2e := { pairs := [{ src := 40, dst := 0, nextSeq := 9, lastSend := 5, opened := true, dead := false }] } }
     live s = true ∧ (srcPair s 40 0).opened = true ∧ (srcPair s 40 0).lastSend + 2000000 ≤ s.now ∧
     ∀ q ∈ s.e2e.outs, ¬(q.pkt.src = (srcPair s 40 0).src ∧ q.pkt.dest = (srcPair s 40 0).dst ∧ q.pkt.vc = 1 ∧ q.st = .sent)) := by decide +kernel

/-- A FENCE command of a context. -/
def fenceCmd : HCmd := { id := 1, va := 0, body := 5, inst := .core 0, started := true }

theorem test_meets_HeldRequestsAndFencesRelease :
    (let s := withOuts [outReq 1 8 1 (.deferred 3 64)] 64
     live s = true ∧ (s.e2e.outs.filter fun r => r.isDeferred && r.pkt.src == 40 && r.pkt.dest == 0 && (r.pkt.vc == 0) == false) =
       [outReq 1 8 1 (.deferred 3 64)]) ∧
    (∀ r ∈ [outReq 1 8 1 (.deferred 3 64)], ∀ t u, r.st = .deferred t u → u ≤ 64) ∧
    (let r : OutReq := { outReq 4 8 1 .held with pkt := { (outReq 4 8 1).pkt with opcode := opWRITE, flag := true } }
     let s := withOuts [r]
     live s = true ∧ (s.e2e.outs.find? fun r => r.n == 4 && r.isHeld && r.pkt.flag) = some r ∧ maySend s r = true) ∧
    (let f : FenceRun := { id := .host 1 127, srcs := [], fn := some (1, 127), n := 1, since := 0 }
     let s := { st [] with e2e := { fences := [f] } }
     live s = true ∧ (s.e2e.fences.find? fun r => r.id == .host 1 127) = some f ∧ fenceWaits s f = false) ∧
    (let f : FenceRun := { id := .hall 15, srcs := [], fn := none, n := 1, since := 0 }
     let s := { st [] with e2e := { fences := [f] }, hall := { ctxs := [(15, { cmds := [fenceCmd] })] } }
     live s = true ∧ (s.e2e.fences.find? fun r => r.id == .hall 15) = some f ∧ fenceWaits s f = false ∧
     ((hctx s 15).cmds.find? fun k => cOp k.body == 5 && !k.finished) = some fenceCmd ∧ fenceCmd.started = true) := by
  refine ⟨by decide +kernel, ?_, by decide +kernel, by decide +kernel, by decide +kernel⟩
  intro r hr t u h
  obtain rfl := List.mem_singleton.1 hr
  obtain ⟨_, rfl⟩ := OutState.deferred.inj h
  decide

/-- A request of Unit 8 that completed with a status. -/
def doneReq (n : Nat) (st : BitVec 4) : DoneReq := { n := n, src := 40, fn := none, store := true, status := st, dest := 0 }

theorem test_meets_FenceReportsEarliestFailure :
    (let f : FenceRun := { id := .hall 0, srcs := [40], fn := none, n := 3, since := 1 }
     let fs (s : State) := s.e2e.done.filter fun d => decide (f.since ≤ d.n) && decide (d.n < f.n) && (f.srcs.contains d.src || (f.fn.isSome && d.fn == f.fn))
     (fs { st [] with e2e := { done := [doneReq 0 5, doneReq 3 6] } } = []) ∧
     (let s := { st [] with e2e := { done := [doneReq 0 5, doneReq 2 4, doneReq 1 6, doneReq 3 3] } }
      doneReq 1 6 ∈ fs s ∧ (∀ e ∈ fs s, (doneReq 1 6).n ≤ e.n) ∧ ∀ e ∈ fs s, e.n = (doneReq 1 6).n → e = doneReq 1 6)) := by decide +kernel

/-- A completion, from seat 0 to Unit 8, of a status. -/
def compPkt (op : Byte) (status : BitVec 4) : Packet := { mkPkt op 3 40 0 0 [] with status := status }

theorem test_meets_ResponsesCompleteRequests :
    (live (withOuts []) = true ∧ (compPkt opCOMP 0).opcode = opCOMP ∧ answered (takeInbox (withOuts []) (dlv (compPkt opCOMP 0))) (compPkt opCOMP 0) = none) ∧
    (∀ e ∈ [((1 : BitVec 4), stDEFERRED), (6, stUNREACHABLE), (15, stUNREACHABLE), (0, stOK)],
      let s := withOuts [outReq 1 8 1]
      let d := dlv (compPkt opDATA e.1)
      d.pkt.opcode = opDATA ∧ answered (takeInbox s d) d.pkt = some (outReq 1 8 1) ∧ statusOf d.pkt = e.2) := by decide +kernel

theorem test_meets_SnoopsReachTheirCache :
    (let s := st []
     live s = true ∧ (∀ o ∈ [opSNOOP_INV, opFWD_SHARED, opFWD_EXCL, opRECALL], (pkt o 0 (myEpc s 9)).opcode = o) ∧
     isMine s (myEpc s 9) = true ∧ epcUnit (myEpc s 9) = 9 ∧ (∀ j : Fin 2, epcUnit (myEpc s (10 + j)) = 10 + j) ∧
     ∀ j : Fin 2, isMine s (hostEpc s j 0) = false ∧ hostOf s (hostEpc s j 0) = some j.val) := by decide +kernel

theorem test_meets_SnoopAnswersByState :
    (({ evicting := true } : CacheLine).evicting = true) ∧
    (∀ n ∈ [0, 1, 2, 3, 4], ({ state := BitVec.ofNat 3 n } : CacheLine).evicting = false ∧ ({ state := BitVec.ofNat 3 n } : CacheLine).state.toNat ≤ 4) ∧
    (∀ o ∈ [opSNOOP_INV, opRECALL, opFWD_EXCL, opFWD_SHARED], (pkt o 0 40).opcode = o) ∧
    (pkt opFWD_SHARED 32 40 (opfF 0 0 64)).req ≠ (pkt opFWD_SHARED 32 40 (opfF 0 0 64)).src ∧
    (pkt opFWD_SHARED 32 40 (opfF 0 0 32)).req = (pkt opFWD_SHARED 32 40 (opfF 0 0 32)).src := by decide +kernel

/-- R169's 2^HINT × 64 ns: a request deferred with HINT 3 at 1 µs is due at 1.512 µs. -/
theorem test_deferred_due :
    then_ (.comp (dlv { compPkt opCOMP 1 with hint := 3 })) (withOuts [outReq 1 8 1] 1000) (fun t => t.e2e.outs.map OutReq.st) =
      some [.deferred 0 1512] := by decide +kernel

/-! ## Homes and memory (chapters 6, 7 and 8) -/

/-- A region entry's words: 1 MB at base 0 of partition 3 and key 7, with more bits of its first word. -/
def regionWords (i more : Nat) : List (Nat × Nat) :=
  [(HOM_REGION i 0, 2 ^ 20 + more), (HOM_REGION i 1, 1 + 3 * 2 ^ 20), (HOM_REGION i 2, 7)]

/-- A state with that region readable, writable, and every memory device up. -/
def homed (more : Nat := 2 ^ 26 + 2 ^ 27) : State := st ((MEM_STATUS, 4095) :: regionWords 16383 more)

/-- A request for a line of it from seat 1's cache. -/
def homeReq (op : Byte) (line : Nat) (part : Byte := 3) (key : Word := 7) : Packet :=
  { mkPkt op 1 (myEpc (st []) 1) 41 (opfM (line * 128) 0 0 0 0) [] with partition := part, regionKey := key }

/-- The last line of the region. -/
def lastLine : Nat := 8191

theorem test_meets_RequestsReachTheirHome :
    (∀ o ∈ [opREAD, opREAD_VOL, opWRITE, opWRITE_MASK, opATOMIC, opTAKE_SHARED, opTAKE_EXCL, opGIVE, opEVICT_NOTICE],
      live homed = true ∧ (homeReq o 0).opcode = o ∧ epcUnit (homeReq o 0).dest = 1 ∧ (dlv (homeReq o 0)).dup = false ∧
      unitDeferral (takeInbox homed (dlv (homeReq o 0))) 0 (homeReq o 0) = none) ∧
    (let p := { homeReq opREAD 0 with dest := myEpc homed 2 }
     epcUnit p.dest ≠ 1) ∧
    (let x : Txn := { kind := .request, req := none, gone := [41] }
     let s := { homed with homes := { homed.homes with lines := [(lastLine, { active := some x })] } }
     let p := homeReq opGIVE lastLine
     p.offset / 128 = lastLine ∧ crosses (takeInbox s (dlv p)) lastLine p.src = true) ∧
    (let p := homeReq opREAD 8192
     crosses (takeInbox homed (dlv p)) (p.offset / 128) p.src = false ∧ homeStatus (takeInbox homed (dlv p)) p (p.offset / 128) ≠ stOK) ∧
    (let p := homeReq opREAD lastLine
     crosses (takeInbox homed (dlv p)) lastLine p.src = false ∧ homeStatus (takeInbox homed (dlv p)) p lastLine = stOK) := by decide +kernel

/-- A state whose directory records seat 1's cache as the owner of line 5. -/
def ownedBy : State :=
  { homed with homes := { homed.homes with dir := [{ line := 5, owned := true, fwd := false, holders := [41], granted := 0, extAt := 0 }] } }

theorem test_meets_HomeChecksInOrder :
    (dieDead homed (.store 0) = false ∧ dieDead homed (.store 1) = false ∧ servingTwin homed = false ∧ homed.res.twin.handingOff = false ∧
     homed.sec.keyWait = [] ∧ deviceUp homed (deviceOf homed (8192 * 128)) = true ∧ deviceUp homed (deviceOf homed (lastLine * 128)) = true) ∧
    regionAt homed (8192 * 128) = none ∧
    (regionAt homed (lastLine * 128) = some (regionOf homed 16383) ∧ (regionOf homed 16383).standby = false) ∧
    (recorded ownedBy 5 (homeReq opGIVE 5).src = true ∧ regionAt ownedBy (5 * 128) = some (regionOf ownedBy 16383)) ∧
    (recorded homed 5 (homeReq opGIVE 5).src = false ∧ (homeReq opREAD 5 4 7).partition.toNat ≠ (regionOf homed 16383).part ∧
     (homeReq opREAD 5 3 8).partition.toNat = (regionOf homed 16383).part ∧ (homeReq opREAD 5 3 8).regionKey.toNat ≠ (regionOf homed 16383).key ∧
     (homeReq opREAD 5).regionKey.toNat = (regionOf homed 16383).key ∧ (regionOf homed 16383).rRight = true ∧
     (regionOf (homed (2 ^ 27)) 16383).rRight = false ∧ (regionOf (homed (2 ^ 26)) 16383).wRight = false ∧
     (regionOf (homed (2 ^ 25)) 16383).bulk = true) := by decide +kernel

/-- A C2 packet sent to seat 1's cache, waited for with TAG 9. -/
def waitFor (op : Byte) (sends : Nat := 1) : SnoopWait :=
  { holder := 41, opcode := op, tag := 9, req := 42, sentAt := 0, sends := sends, evict := false, given := false }

/-- A grant to seat 1's cache. -/
def grantTo : GrantWait :=
  { who := 41, tag := 1, seq := 0, state := 2, at_ := 0, byHome := true, fromOwner := false, recalled := false }

/-- A state with a transaction on line 5. -/
def busy (x : Txn) (ws : List (Nat × Nat) := []) (now : Nat := 0) : State :=
  let s := st ws now
  { s with homes := { s.homes with lines := [(5, { active := some x })] } }

/-- A response about line 5 from seat 1's cache. -/
def respFrom (op : Byte) (state : BitVec 3) (evicting : Bool) (tag : BitVec 16 := 9) : Packet :=
  mkPkt op 3 (myEpc (st []) 1) 41 (opfR (5 * 128) state false evicting tag 0) []

theorem test_meets_AnswersTakenOnArrival :
    (let x : Txn := { kind := .request, req := none, grants := [grantTo], stage := 2 }
     let d := dlv (respFrom opCOMP_ACK 0 false)
     live (busy x) = true ∧ d.pkt.opcode = opCOMP_ACK ∧ (lctl (takeInbox (busy x) d) (d.pkt.offset / 128)).active = some x ∧
     ∃ g ∈ x.grants, g.who = d.pkt.src) ∧
    (∀ o ∈ [opSNOOP_RESP, opSNOOP_DATA], (respFrom o 0 false).opcode = o ∧ findWait (takeInbox (st []) (dlv (respFrom o 0 false))) 5 (respFrom o 0 false) = none) ∧
    (let x : Txn := { kind := .request, req := none, snoops := [waitFor opFWD_EXCL] }
     let d := dlv (respFrom opSNOOP_RESP 0 true)
     (lctl (busy x) 5).active = some x ∧ findWait (takeInbox (busy x) d) 5 d.pkt = some (waitFor opFWD_EXCL) ∧
     (x.grants.find? fun g => g.who == d.pkt.src && g.recalled && (waitFor opFWD_EXCL).opcode == opRECALL) = none ∧
     d.pkt.lstate = 0 ∧ d.pkt.evicting = true ∧ (waitFor opFWD_EXCL).given = false) ∧
    (let x : Txn := { kind := .request, req := none, snoops := [waitFor opSNOOP_INV] }
     let d := dlv (respFrom opSNOOP_DATA 0 false)
     findWait (takeInbox (busy x) d) 5 d.pkt = some (waitFor opSNOOP_INV) ∧ ¬(d.pkt.evicting = true)) ∧
    (homeReq opSTREAM_WRITE 0).opcode = opSTREAM_WRITE := by decide +kernel

/-- A request placed in a line's queue. -/
def placed (op : Byte) : HReq := { d := dlv (homeReq op 5), arrived := 0 }

theorem test_meets_HotLinesServeTheirRuns :
    (∀ q ∈ [] :: ([opREAD, opREAD_VOL, opWRITE, opWRITE_MASK, opSTREAM_WRITE, opTAKE_SHARED, opTAKE_EXCL, opATOMIC].map fun o => [placed o]),
      let s := { st [] with homes := { lines := [(5, { hot := true, queue := q })] } }
      live s = true ∧ (lctl s 5).hot = true ∧ (lctl s 5).queue = q ∧ (lctl s 5).active = none ∧ ∀ r ∈ q, r.d.pkt.opcode ∈ [opREAD, opREAD_VOL, opWRITE,
        opWRITE_MASK, opSTREAM_WRITE, opTAKE_SHARED, opTAKE_EXCL, opATOMIC]) ∧
    (let s := { st [] 1000000 with homes := { tokens := [{ line := 5, token := 65535, lapse := 1000000 }] } }
     live s = true ∧ ∃ t ∈ s.homes.tokens, t.line = 5 ∧ t.token = 65535 ∧ t.lapse ≤ s.now) := by decide +kernel

theorem test_meets_HomesAskAgain :
    (∀ n ∈ [3, 4],
      let x : Txn := { kind := .request, req := none, snoops := [waitFor opRECALL n] }
      let s := busy x [(HOM_TIMEOUT, 2 ^ 16)] 10000
      live s = true ∧ (lctl s 5).active = some x ∧ (x.snoops.find? fun w => w.holder == 41 && !w.evict) = some (waitFor opRECALL n) ∧
      (waitFor opRECALL n).sentAt + fldOf s HOM_TIMEOUT 31 16 * 10000 ≤ s.now ∧ (waitFor opRECALL n).sends = n) ∧
    (let x : Txn := { kind := .request, req := none, grants := [grantTo], stage := 2 }
     let s := busy x [(HOM_TIMEOUT, 1)] 10000
     (lctl s 5).active = some x ∧ (x.grants.find? fun g => g.who == 41 && !g.recalled) = some grantTo ∧
     grantTo.at_ + fldOf s HOM_TIMEOUT 15 0 * 10000 ≤ s.now) := by decide +kernel

theorem test_meets_MirroredChangesAreApplied :
    (let s := homed (2 ^ 23)
     live s = true ∧ regionOfLine s lastLine = some (regionOf s 16383) ∧ (regionOf s 16383).standby = true ∧ (regionOf s 16383).sealed = false) ∧
    (regionOfLine homed 0 = some (regionOf homed 16383) ∧ (regionOf homed 16383).standby = false) ∧
    regionOfLine homed 8192 = none ∧
    (let x : Txn := { kind := .request, req := none, stage := 1, mir := true }
     live (busy x) = true ∧ (lctl (busy x) 5).active = some x ∧ x.mir = true) := by decide +kernel

theorem test_meets_ScrubReadsCheckTheirLine :
    (let s := st [(MEM_SCRUB_CFG, 256), (MEM_STATUS, 4095)]
     ∀ line ∈ [0, 0x2D00000000 / 128 - 1, 0x4000000000 / 128],
      live s = true ∧ bitOf s MEM_SCRUB_CFG 8 = true ∧ (inLoft s (line * 128) || inCellar s (line * 128)) = true ∧ (lctl s line).active = none ∧
      deviceUp s (deviceOf s (line * 128)) = true) ∧
    (∀ r, dirRec (st [(MEM_SCRUB_CFG, 256), (MEM_STATUS, 4095)]) 0 = some r → r.owned = false) ∧
    (let u := st [(MEM_SCRUB_CFG, 256), (MEM_STATUS, 4095)]
     (inCellar u (0xF3FFFFFF00 / 128 * 128) && !inCellar u (0xF3FFFFFF00 / 128 * 128 + 128)) = false) :=
  ⟨by decide +kernel, fun _ h => (nomatch h), by decide +kernel⟩

theorem test_meets_DevicesAndDiesComeAndGo :
    (let s := st [(PWR_STATUS, 2 * 8)]
     live s = true ∧ 2 ≤ phase s ∧ deviceExists s 11 = true ∧ vget false s.homes.trained 11 = false ∧ pwrState s = 0) ∧
    (let s := { st [(PWR_STATUS, 2 * 8)] with homes := { storedMem := Vector.replicate 12 true } }
     vget false s.homes.storedMem 0 = true ∧ bitOf s MEM_TRAIN_CFG 0 = false) ∧
    deviceUp (st [(MEM_STATUS, 1)]) 0 = true ∧
    (∀ cellar ∈ [false, true],
      let s := { st [(MEM_STATUS, 2 ^ 12 + 2 ^ 13)] with homes := { trained := Vector.replicate 12 true } }
      bitOf s MEM_STATUS (if cellar then 13 else 12) = true ∧ tierTrained s cellar = true) ∧
    (let s := st ((MEM_STATUS, 2 ^ 14 + 4095) :: regionWords 16383 0)
     let s := { s with homes := { s.homes with trained := Vector.replicate 12 true, evacSaved := [0] } }
     bitOf s MEM_STATUS 14 = true ∧ bitOf s MEM_STATUS 12 = false ∧ tierTrained s false = true ∧ (validRegions s).contains 16383 = true) ∧
    (∀ d ∈ [Die.hearth, .hall, .store 0, .store 1, .port 0, .port 3], dieDead (st []) d = false) := by decide +kernel

/-- The Hall reads a line of zeros with status OK, 128 bytes. -/
theorem test_read_answers :
    then_ (.read (dlv { homeReq opREAD 5 with src := myEpc (st []) 8 })) { homed with homes := { dirBits := [(5, 0)] } }
      (fun t => (t.homes.lines.length, t.sw.queue.map fun e => (e.pkt.opcode, e.pkt.status, e.pkt.length))) = some (0, [(opDATA, 0, 128)]) := by
  decide +kernel

/-- A WRITE with the wrong region key stores nothing and answers KEYFAIL, 3 (R114, R170). -/
theorem test_write_keyfail :
    then_ (.write (dlv { homeReq opWRITE 5 3 8 with src := myEpc (st []) 8, length := 128, payload := List.replicate 128 255 })) homed
      (fun t => (t.homes.mem.length, t.sw.queue.map fun e => (e.pkt.opcode, e.pkt.status))) = some (0, [(opCOMP, 3)]) := by decide +kernel

/-! ## The register space (chapters 2, 12 to 17) -/

/-- A state in which Annex runs, with PF0 of host port 1's link up. -/
def putSt (ws : List (Nat × Nat) := []) : State := st ([(SEC_STATUS, 4), (HST_PORT_STATUS 1, 1)] ++ ws)

/-- `MayPut`, as a test. -/
def putOk (s : State) (p : Path) (off v : Nat) : Bool :=
  live s && pathThere s p && (findReg (hostTouch s p).part.hz7134 off).isSome &&
  (!(islandOnly (hostTouch s p)) || blockOf off == 0 || blockOf off == 2) && mayWrite (hostTouch s p) p off v && !(hallGone (hostTouch s p) off) &&
  (match secWindow off with | some w => !(windowBusy (hostTouch s p) w) | none => true)

theorem mayPut_of_putOk {s : State} {p : Path} {off v : Nat} (h : putOk s p off v = true) : MayPut s p off v := by
  simp only [putOk, Bool.and_eq_true, Bool.or_eq_true, Bool.not_eq_true', beq_iff_eq] at h
  obtain ⟨⟨⟨⟨⟨⟨h1, h2⟩, h3⟩, h4⟩, h5⟩, h6⟩, h7⟩ := h
  refine ⟨h1, h2, h3, ?_, h5, h6, ?_⟩
  · rcases h4 with (h | h) | h <;> simp [h]
  · intro w hw; rw [hw] at h7; simpa using h7

/-- The accesses of a list of a register word and its value, by Annex and by PF0 of host port 1, are all met. -/
def bothPut (s : State) (xs : List (Nat × Nat)) : Bool := xs.all fun x => putOk s .annex x.1 x.2 && putOk s (.host 1 0) x.1 x.2

theorem bothPut_spec {s : State} {xs : List (Nat × Nat)} (h : bothPut s xs = true) :
    ∀ x ∈ xs, MayPut s .annex x.1 x.2 ∧ MayPut s (.host 1 0) x.1 x.2 := by
  intro x hx
  have := List.all_eq_true.1 h x hx
  rw [Bool.and_eq_true] at this
  exact ⟨mayPut_of_putOk this.1, mayPut_of_putOk this.2⟩

theorem test_meets_WritesReachTheirFields :
    (∀ x ∈ [(IDN_SCRATCH, 0), (IDN_SCRATCH, 2 ^ 32 - 1), (LNK_LANE_EYE_CTRL 0, 10 * 4), (LNK_LANE_EYE_CTRL 527, 1 + 40 * 4 + 2 * 2 ^ 24),
        (CNT_SLOT_CFG 0, 0), (CNT_SLOT_CFG 63, 4095)], MayPut (putSt []) .annex x.1 x.2 ∧ MayPut (putSt []) (.host 1 0) x.1 x.2) ∧
    (∀ v ∈ [10 * 4, 1 + 40 * 4 + 2 * 2 ^ 24], 10 ≤ bits v 7 2 ∧ bits v 7 2 ≤ 40 ∧ bits v 25 24 ≤ 2) ∧
    MayPut (putSt []) .i3c (SEC_W_BUF 3) (2 ^ 64 - 1) :=
  ⟨bothPut_spec (by decide +kernel), by decide, mayPut_of_putOk (by decide +kernel)⟩

theorem test_meets_RefusedAccessesAreRecorded :
    (islandOnly (putSt []) = false ∧ blockOf PWR_CAP = 2 ∧ blockOf 0 = 0) ∧
    ((2 : Nat) % 4 ≠ 0 ∧ (12 : Nat) % 8 ≠ 0 ∧ ((16 : Nat) ≠ 4 ∧ (16 : Nat) ≠ 8)) ∧
    (0x2C % 4 = 0 ∧ findReg (putSt []).part.hz7134 0x2C = none) ∧
    (∃ r is, SWC_ROLE % 4 = 0 ∧ findReg (putSt []).part.hz7134 SWC_ROLE = some (r, is, 0) ∧ (∃ f ∈ r.fields, f.word = 0 ∧ f.acc = .rwc) ∧
      pathProposes (putSt []) .annex SWC_ROLE = true) ∧
    (∃ r is, findReg (putSt []).part.hz7134 SEC_SVN = some (r, is, 0) ∧ mayRead (putSt []) (.window 0) SEC_SVN = false) := by
  refine ⟨by decide +kernel, by decide, by decide +kernel, ?_, ?_⟩
  · exact ⟨_, _, by decide, rfl, by decide +kernel, by decide +kernel⟩
  · exact ⟨_, _, rfl, by decide +kernel⟩

theorem test_meets_LinkRegistersAct : ∀ x ∈ [(LNK_LANE_ALIGN 0, 0), (LNK_LANE_ALIGN 527, 1), (LNK_LANE_ALIGN 0, 2 + fldOf (putSt []) (LNK_LANE_ALIGN 0) 0 0),
      (LNK_DROOP 0 0, 2 ^ 31), (LNK_DROOP 3 3, 2 ^ 31), (LNK_PORT_CMD 0, 1), (LNK_PORT_CMD 257, 1)],
    MayPut (putSt []) .annex x.1 x.2 ∧ MayPut (putSt []) (.host 1 0) x.1 x.2 := bothPut_spec (by decide +kernel)

theorem test_meets_HallRegistersAct :
    (∀ x ∈ [(HAL_SEM_ADD 0, 0), (HAL_SEM_ADD 255, 2 ^ 32 - 1), (HAL_CTX_CTRL 0, 1), (HAL_CTX_CTRL 15, 2), (HAL_CTX_LIST 15, 2 ^ 64 - 1)],
      MayPut (putSt []) .annex x.1 x.2 ∧ MayPut (putSt []) (.host 1 0) x.1 x.2) ∧
    bitOf (hostTouch (putSt []) .annex) (HAL_CTX_CFG 0) 10 = false := ⟨bothPut_spec (by decide +kernel), by decide +kernel⟩

theorem test_meets_FaultRegistersAct : ∀ x ∈ [(FLT_TWIN_CMD, 1), (FLT_QUEUE_POP, 1), (FLT_RING_TAIL, 65536), (FLT_OVF 0, 2 ^ 24), (FLT_OVF 15, 2 ^ 24)],
    MayPut (putSt []) .annex x.1 x.2 ∧ MayPut (putSt []) (.host 1 0) x.1 x.2 := bothPut_spec (by decide +kernel)

theorem test_meets_ClaspAndConfigurationCommands :
    (∀ x ∈ [(SEC_W_CMD 0, 1 + 4 * 1), (SEC_W_CMD 0, 1 + 4 * 128), (SEC_W_CMD 0, 2 + 2 ^ 10 + 2 ^ 11 * 255), (SEC_W_CMD 0, 3), (CFG_CMD, 1), (CFG_CMD, 7),
        (CFG_CMD, 23), (CFG_CMD, 2), (CFG_CMD, 10), (CFG_CMD, 3), (CFG_CMD, 4), (CFG_CMD, 5), (CFG_CMD, 6)], MayPut (putSt []) .annex x.1 x.2) ∧
    MayPut (putSt []) (.window (mkEpc 0 0 129 0)) (SEC_W_CMD 4) 3 := by
  refine ⟨fun x hx => mayPut_of_putOk ?_, mayPut_of_putOk (by decide +kernel)⟩
  revert x hx; decide +kernel

theorem test_meets_PowerCommandsAct :
    (∀ x ∈ [(PWR_CMD, 1), (PWR_CMD, 3), (PWR_CMD, 4), (PWR_CMD, 8), (PWR_CAP, 0), (PWR_CAP, 65535)],
      MayPut (putSt []) .annex x.1 x.2 ∧ MayPut (putSt []) (.host 1 0) x.1 x.2) ∧ MayPut (putSt []) .i3c PWR_CAP 65535 :=
  ⟨bothPut_spec (by decide +kernel), mayPut_of_putOk (by decide +kernel)⟩

theorem test_meets_HostAndCounterRegistersAct : ∀ x ∈ [(HST_AP_BASE 0 0 0, 0), (HST_AP_BASE 1 127 3, 2 ^ 64 - 1), (HST_AP_CTRL 1 127 3, 15),
      (HST_FN_FENCE 0 127, 1), (HST_FN_NOTE_TAIL 1 0, 256), (CNT_SNAP, 2 ^ 64 - 1), (CNT_CMD, 1 + 4 * 4095), (CNT_CHAIN 47, 2 ^ 32 - 1), (CNT_CHAIN 0, 0)],
    MayPut (putSt []) .annex x.1 x.2 ∧ MayPut (putSt []) (.host 1 0) x.1 x.2 := bothPut_spec (by decide +kernel)

theorem test_meets_HostAndCounterRegistersAct_all : MayPut (putSt []) (.host 1 0) CNT_CMD 2 := mayPut_of_putOk (by decide +kernel)

theorem test_meets_ReadsAndWindowAccessesAnswer :
    (live (putSt []) = true ∧ pathThere (putSt []) .annex = true ∧ mayRead (hostTouch (putSt []) .annex) .annex PWR_COUNTER = true) ∧
    (∀ o ∈ [opREG_READ, opREG_WRITE], (pkt o 32 31 (opfM (2 ^ 26) 2 0 0 0)).opcode = o ∧ 2 ^ 26 ≤ (pkt o 32 31 (opfM (2 ^ 26) 2 0 0 0)).offset ∧
      (pkt o 32 31 (opfM (2 ^ 26 - 8) 3 0 0 0)).offset < 2 ^ 26) := by decide +kernel

/-- A 64-bit I3C write of a window's buffer keeps bits 39 to 19 (R371, R460). -/
theorem test_i3c_write_of_eight_bytes :
    then_ (.i3cWrite8 (BitVec.ofNat 32 (SEC_W_BUF 3)) (2 ^ 64 - 1)) (putSt []) (fun t => rd64 t (SEC_W_BUF 3)) = some (2 ^ 40 - 2 ^ 19) := by decide +kernel

/-- The part's number is 0x7168 (R16); what IDN_SCRATCH holds reads back. -/
theorem test_identity_reads :
    (then_ (.i3cRead4 (BitVec.ofNat 32 IDN_PART)) (putSt []) fun t => t.out.map fun e =>
      match e with | .readData _ v => v.toNat % 65536 | _ => 0) = some [0x7168] ∧
    (then_ (.i3cRead4 (BitVec.ofNat 32 IDN_SCRATCH)) (putSt [(IDN_SCRATCH, 0x12345678)]) fun t => t.out) = some [.readData .i3c 0x12345678] := by
  decide +kernel

/-! ## The Hall (chapters 9 and 10) -/

/-- A command line of an opcode, with more bits. -/
def cmdLine (op : Nat) (more : Nat := 0) : Line := BitVec.ofNat 1024 (op + more)

/-- The Hall on, with context 15 in a STATE and as given. -/
def hallSt (x : HallCtx) (state : Nat := 1) (ws : List (Nat × Nat) := []) : State :=
  let s := st ([(HAL_STATUS, 1), (HAL_CTX_STATUS 15, state)] ++ ws)
  { s with hall := { ctxs := [(15, x)] } }

theorem test_meets_CommandsAreDispatched :
    (∀ e ∈ [(1, 0), (2, 0), (3, 0), (3, 1), (3, 2), (3, 3), (3, 4), (3, 5), (3, 6), (3, 7), (3, 8), (4, 0), (5, 0), (6, 0), (7, 0), (8, 0)],
      let l := cmdLine e.1 (e.2 * 2 ^ 128)
      let s := hallSt { fetched := some l }
      live s = true ∧ (hctx s 15).fetched = some l ∧ coreChoice s (15 % 2) = some 15 ∧ cOp l = e.1 ∧ (e.1 = 3 → dKind l = e.2)) ∧
    (dispatchErr (hallSt { fetched := some (cmdLine 6) }) 15 (cmdLine 6) ≠ 0 ∧ dispatchErr (hallSt { fetched := some (cmdLine 8) }) 15 (cmdLine 8) = 0 ∧
     dispatchErr (hallSt { fetched := some (cmdLine 6 (64 * 2 ^ 128)) }) 15 (cmdLine 6 (64 * 2 ^ 128)) = 0) := by decide +kernel

/-- A command that has completed. -/
def doneCmd (err : Nat := 0) (more : Nat := 0) : HCmd :=
  { id := 1, va := 128, body := cmdLine 4 more, inst := .core 1, started := true, finished := true, err := err }

theorem test_meets_HallCommandsGoOn :
    (let s := hallSt { fetched := some (cmdLine 8 (2 ^ 24)) } 2
     live s = true ∧ (hctx s 15).fetched = some (cmdLine 8 (2 ^ 24)) ∧ ctxState s 15 = 2 ∧ waitOk s 15 (cmdLine 8 (2 ^ 24)) = true ∧ hallOn s = true) ∧
    (∀ e ∈ [0, 11], let s := hallSt { cmds := [doneCmd e] }
      findCmd s 15 1 = some (doneCmd e) ∧ cmdFinished s 15 (doneCmd e) = true) ∧
    (let s := hallSt { pendingCfg := [(HAL_CTX_SHARE 15, 5)] } 1
     (hctx s 15).pendingCfg ≠ [] ∧ ctxState s 15 ≠ 0) ∧
    (let s := hallSt { pendingCfg := [(HAL_CTX_SHARE 15, 5)] } 0
     let t := forEach (hctx s 15).pendingCfg s fun s e => wr s e.1 e.2.toNat
     let u := setHctx (dropTranslations t 15) 15 { hctx t 15 with pendingCfg := [] }
     (hctx s 15).pendingCfg ≠ [] ∧ ctxState s 15 = 0 ∧ (hctx s 15).cmds = [] ∧ rd u (HAL_CTX_PANTRY 15) = rd s (HAL_CTX_PANTRY 15) ∧
     fldOf u (HAL_CTX_CFG 15) 7 0 = fldOf s (HAL_CTX_CFG 15) 7 0) := by decide +kernel

theorem test_meets_CompletedCommandsSignal :
    State.reset.Canon ∧ ((doneCmd 0 (2 ^ 72)).err = 0 ∧ cbit (doneCmd 0 (2 ^ 72)).body 9 0 = true) ∧
    ((doneCmd 11 (2 ^ 72)).err ≠ 0 ∧ cbit (doneCmd 0).body 9 0 = false) := ⟨canon_reset, by decide +kernel⟩

/-- A walk that has its entry. -/
def walked (level : Nat) (pte : BitVec 128) (stale : Bool) : Walk := { ctx := 15, va := 0, level := level, pte := some pte, stale := stale }

theorem test_meets_WalksEndInTranslations :
    ∀ w ∈ [walked 1 3 false, walked 2 3 true, walked 2 0 false],
      let s := { st [] with hall := { walks := [w] } }
      live s = true ∧ (s.hall.walks.find? fun w => w.ctx == 15 && w.va.toNat == 0 && w.pte.isSome) = some w ∧ w.pte.isSome = true := by decide +kernel

/-- An ARRAY of M rows (8 to a tile at most), N and K of 1, FP32, 4 bytes a row. -/
def mulCmd (m : Nat) (mt : Nat) : HCmd :=
  { id := 1, va := 0, body := cmdLine 1 (m * 2 ^ 384 + 2 ^ 416 + 2 ^ 448 + mt * 2 ^ 480), inst := .array, started := true }

/-- A state of the Hall's array with that command of context 0. -/
def arraySt (k : HCmd) (f : Hall → Hall) : State :=
  let s := st [(HAL_STATUS, 1)]
  { s with hall := f { ctxs := [(0, { cmds := [k] })] } }

theorem test_meets_ArrayPassesAndBanks :
    (∀ tries ∈ [0, 1, 2],
      let r : ArrayRun := { ctx := 0, id := 1, pass := 2, tries := tries }
      let s := arraySt (mulCmd 1 1) fun h => { h with run := some r }
      live s = true ∧ s.hall.run = some r ∧ s.hall.stopped = false ∧ r.pass < nPasses (runBody s r)) ∧
    (let r : ArrayRun := { ctx := 0, id := 1, pass := 2, tries := 2 }
     let s := arraySt (mulCmd 1 1) fun h => { h with run := some r }
     let charged := setHctx (countPass s r false) r.ctx { hctx (countPass s r false) r.ctx with shareUsed := 1 }
     let t := fault (halErr charged 2) 0x0501 3 4 (hallEpc charged) (det [(16, 1, r.ctx)])
     runCmd (setHall t { t.hall with run := none }) r = some (mulCmd 1 1)) ∧
    (let r : ArrayRun := { ctx := 0, id := 1 }
     (arraySt (mulCmd 1 1) fun h => { h with spilling := some r }).hall.spilling = some r ∧
     (arraySt (mulCmd 1 1) fun h => { h with restoring := some r }).hall.restoring = some r) ∧
    (∀ m ∈ [1, 2],
      let e : ArrayRun := { ctx := 0, id := 1 }
      let s := arraySt (mulCmd m 1) fun h => { h with epilogue := some e }
      let l := runBody s e
      let t := writeTile (countGap s) l e
      let t := setHall t { t.hall with epilogue := none }
      s.hall.epilogue = some e ∧ t.hall.run = none ∧ nTiles t l = m ∧ runCmd t e = some (mulCmd m 1)) := by decide +kernel

/-- A LOOP with a COUNT of 0 has an encoding error, 2, and halts its context (R279, R281). -/
theorem test_loop_without_count :
    then_ (.loop 15) (hallSt { fetched := some (cmdLine 6) }) (fun t => (ctxState t 15, fldOf t (HAL_CTX_STATUS 15) 11 8)) = some (3, 2) := by
  decide +kernel

/-- A semaphore counts modulo 2^32 (R252). -/
theorem test_semaphore_wraps :
    then_ (.halSemAdd .annex 255 3) (putSt [(HAL_SEM 255, 2 ^ 32 - 1)]) (fun t => rd t (HAL_SEM 255)) = some 2 := by decide +kernel

/-! ## Collectives (chapter 11) -/

/-- Group 1023 of two members, seats 0 and 1 of the module's half, with one chunk of 16 elements; the module, seat 128, is leaf, owner and
steward where the bits of the first word say so. -/
def groupSt (kind roles : Nat) (ws : List (Nat × Nat) := []) (now : Nat := 0) : State :=
  st ([(SWC_ROLE, 128 * 2 ^ 12), (COL_GROUP 1023 0, 1 + 2 * kind + roles), (COL_GROUP 1023 2, 2 + 2 ^ 16), (COL_GROUP 1023 4, 2),
    (COL_GROUP 1023 6, 4108), (COL_GROUP 1023 7, 1), (COL_GROUP 1023 8, 1), (COL_GROUP 1023 11, 16 * 2 ^ 16), (COL_GROUP 1023 22, 16),
    (COL_MEMBER 1, 32), (COL_MEMBER 2, 4108)] ++ ws) now

def isLeaf : Nat := 16
def isSpine : Nat := 32
def isOwner : Nat := 64
def isSteward : Nat := 128

/-- A step of the group that is open since 0. -/
def openRec (step : Word := 0) : StepRec := { g := 1023, step := step, firstAt := 0, arrivals := [{ member := 0, stamp := 0, rank := 0 }] }

/-- The same with a step open. -/
def withStep (s : State) (r : StepRec := openRec) : State := { s with coll := { s.coll with steps := [r] } }

/-- A C4 packet of group 1023, step 0, chunk 0, piece 0, strand A. -/
def kP (op : Byte) (src dest : Epc) (fmt : Nat) (len : Nat) (body : List Byte := List.replicate len 0) : Packet :=
  mkPkt op 4 dest src (opfK 1023 0 0 false fmt 0) body

/-- The state in which a C4 packet is judged. -/
def judged (s : State) (p : Packet) : State := (takeHearth (takeInbox s (dlv p)) (dlv p)).1

theorem test_meets_CollectivePacketsAtTheirRole_push :
    (let p := kP opCOLL_PUSH 0 4108 0 64
     p.opcode = opCOLL_PUSH ∧ live (st []) = true ∧ gValid (judged (st []) p) p.group = false ∧
     gLeaf (judged (groupSt 0 isOwner) p) p.group = false ∧ 2 < gKind (judged (groupSt 3 isLeaf) p) p.group) ∧
    (let s := groupSt 2 isLeaf
     let p := kP opCOLL_PUSH 0 4108 0 60
     gValid (judged s p) p.group = true ∧ gLeaf (judged s p) p.group = true ∧ gKind (judged s p) p.group ≤ 2 ∧ pieceFits (judged s p) p 0 = false ∧
     gFmtIn (judged s p) p.group = 0) ∧
    (let s := groupSt 0 isLeaf
     let p := kP opCOLL_PUSH 0 4108 0 64
     pieceFits (judged s p) p 0 = true ∧ pushOpen (judged s p) p = false ∧ pushOpen (judged (withStep s) p) p = true) := by decide +kernel

theorem test_meets_CollectivePacketsAtTheirRole_others :
    (let s := groupSt 2 isSpine
     let p := kP opCOLL_PARTIAL 4108 4108 0 64
     p.opcode = opCOLL_PARTIAL ∧ gValid (judged s p) p.group = true ∧ gSpine (judged s p) p.group = true ∧ gKind (judged s p) p.group ≤ 2 ∧
     (gLeaves (judged s p) p.group).contains p.src = true ∧ pieceFits (judged s p) p 0 = true ∧ stepClosed (judged s p) p.group p.step = false ∧
     stepClosed (judged { s with coll := { closed := [(1023, 0)] } } p) p.group p.step = true) ∧
    (let s := groupSt 1 isOwner
     let p := kP opCOLL_RESULT 4108 4108 0 64
     p.opcode = opCOLL_RESULT ∧ gValid (judged s p) p.group = true ∧ p.mcast = false ∧ gOwner (judged s p) p.group = true ∧
     gKind (judged s p) p.group = 1 ∧ (myChunks (judged s p) p.group).contains p.chunk.toNat = true ∧
     pieceFits (judged s p) p (gFmtOut (judged s p) p.group) = true) ∧
    (let s := groupSt 6 isLeaf
     let p := kP opCOLL_A2A 32 0 15 32
     p.opcode = opCOLL_A2A ∧ memberOf (judged s p) p.group p.src = some 1 ∧ memberOf (judged s p) p.group p.dest = some 0 ∧
     a2aLeaf (judged s p) p = true ∧ p.fmt = 15 ∧ p.piece = 0 ∧ p.strand = false ∧ gRecord (judged s p) p.group ≠ 0 ∧
     p.length.toNat % gRecord (judged s p) p.group = 0 ∧ stepClosed (judged s p) p.group p.step = false) ∧
    (let p := kP opREVOKE 0 4108 15 0
     let i (r : Nat) := takeInbox (groupSt 0 r) (dlv p)
     let u (r : Nat) := noticeAll (ev (bump64 (i r) COL_REVOKES 1) 1972 1) (gPart (i r) p.group) p.group 0x11 p.step.toNat p.chunk.toNat 0
     p.opcode = opREVOKE ∧ gValid (i isSteward) p.group = true ∧ ¬(p.src = myEpc (i isSteward) 12 ∧ p.mcast = true) ∧
     actsSteward (u isSteward) p.group = true ∧ actsSteward (u isLeaf) p.group = false) ∧
    (let p := kP opREVOKE 4140 4108 15 0
     let i := takeInbox (groupSt 0 isLeaf) (dlv p)
     let u := noticeAll (ev (bump64 i COL_REVOKES 1) 1972 1) (gPart i p.group) p.group 0x11 p.step.toNat p.chunk.toNat 0
     fromSteward u p = true ∧ stepClosed u p.group p.step = false) := by decide +kernel

/-- A COLL_COUNT's body: KIND, COUNT and ARG (R315). -/
def countBody (kind count arg : Nat) : List Byte := leBytes 4 kind ++ leBytes 4 count ++ leBytes 4 arg ++ leBytes 4 0

/-- A COLL_COUNT. -/
def cP (src dest : Epc) (kind count arg : Nat) (fmt : Nat := 15) : Packet := kP opCOLL_COUNT src dest fmt 16 (countBody kind count arg)

/-- The state in which a COLL_COUNT is judged. -/
def counted (s : State) (p : Packet) : State := takeInbox s (dlv p)

theorem test_meets_CountMessagesByKind_votes :
    (∀ k ∈ [1, 2, 3, 4, 5, 6, 7, 8], (cP 0 0 k 0 0 14).opcode = opCOLL_COUNT ∧ leAt (cP 0 0 k 0 0 14).payload 0 1 = k ∧ (cP 0 0 k 0 0 14).fmt ≠ 15 ∧
      (cP 0 0 k 0 0).fmt = 15 ∧ 16 ≤ (cP 0 0 k 0 0).length.toNat) ∧
    (let s := groupSt 0 isSteward
     let p := cP 4108 4108 1 2 0xFFFFFFFF
     let t := counted s p
     live s = true ∧ actsSteward t p.group = true ∧ stepClosed t p.group p.step = false ∧ gKind t p.group ≠ 5 ∧ argOf p = 0xFFFFFFFF ∧
     (gLeaves t p.group).contains p.src = true ∧ (tallyOf t p.group p.step).leaves.contains p.src = false) ∧
    (let s := groupSt 0 isSteward
     let p := cP 4108 4108 1 0 0
     let t := counted s p
     argOf p < gOwners t p.group ∧ ownerEpc t p.group (argOf p) = p.src ∧ (tallyOf t p.group p.step).owners.contains (argOf p) = false) ∧
    (let p := cP 4108 4108 2 0 0
     let t := counted (groupSt 0 isLeaf) p
     gValid t p.group = true ∧ fromSteward t p = true ∧ stepClosed t p.group p.step = false) ∧
    (∀ k ∈ [3, 4, 5],
      let p := cP 4108 4108 3 2 0
      let t := counted (groupSt k isSteward) p
      actsSteward t p.group = true ∧ stepClosed t p.group p.step = false ∧ gKind t p.group = k ∧ gSource1 t p.group = false ∧
      (gLeaves t p.group).contains p.src = true ∧ (tallyOf t p.group p.step).arrivedFrom.contains p.src = false) ∧
    (let p := cP 4108 4108 4 0 0
     let t := counted (groupSt 5 isLeaf) p
     gValid t p.group = true ∧ fromSteward t p = true ∧ stepClosed t p.group p.step = false ∧ gKind t p.group = 5 ∧ gLeaf t p.group = true) := by decide +kernel

theorem test_meets_CountMessagesByKind_others :
    (let p := cP 4108 4108 5 0 1
     let t := counted (groupSt 0 isLeaf) p
     gValid t p.group = true ∧ gLeaf t p.group = true ∧ stepClosed t p.group p.step = false ∧ gKind t p.group ≤ 2 ∧
     halfPieces t p.group p.chunk.toNat p.strand ≠ [] ∧ p.chunk.toNat < gChunks t p.group ∧ findHalf t p.group p.step p.chunk p.strand = none) ∧
    (let p := cP 0 4108 6 0 1
     let r : StepRec := { openRec with published := true }
     let t := counted (withStep (groupSt 0 isOwner) r) p
     gValid t p.group = true ∧ gOwner t p.group = true ∧ (memberOf t p.group p.src).isSome = true ∧ (myChunks t p.group).contains p.chunk.toNat = true ∧
     stepRec t p.group p.step = some r ∧ r.published = true) ∧
    (∀ e ∈ [(7, isLeaf), (8, isLeaf + 2 ^ 24)],
      let p := cP 32 0 e.1 5 0
      let t := counted (groupSt 6 e.2) p
      memberOf t p.group p.src = some 1 ∧ memberOf t p.group p.dest = some 0 ∧ a2aLeaf t p = true ∧ stepClosed t p.group p.step = false ∧
      gCountMode t p.group = (e.1 == 8) ∧ a2aTold t p.group p.step 0 = false) := by decide +kernel

/-- A half of step 0, chunk 0, strand A with the inputs of the sources given. -/
def halfOf (srcs : List Epc) : Half :=
  { g := 1023, step := 0, chunk := 0, strand := false, combiner := false, moved := false,
    inputs := srcs.map fun e => { src := e, piece := 0, fmt := 0, payload := List.replicate 64 0, cells := 1, ing := .port 0, period := 0 },
    firstAt := 0, reissuedAt := 0, done := [], tries := [], sent := false }

theorem test_meets_CollectiveTimersAct :
    (let c : GroupChange := { g := 1023, words := [(COL_GROUP 1023 9, 7)], since := 0, owner := .request 0 }
     let s := groupSt 0 isLeaf [(COL_TIMEOUT, 2 ^ 16)] 10000000
     let s := { s with coll := { s.coll with changes := [c] } }
     live s = true ∧ (s.coll.changes.find? fun c => c.g == 1023) = some c ∧ openSteps s 1023 = [] ∧
     c.since + fldOf s COL_TIMEOUT 31 16 * 10000000 ≤ s.now ∧ c.owner ≠ .commitJob ∧ c.owner ≠ .returnJob) ∧
    (let s := withStep (groupSt 0 isLeaf)
     let h := halfOf [0, 32]
     let s := { s with coll := { s.coll with halves := [h] } }
     findHalf s 1023 0 0 false = some h ∧ pieceReady s h 0 = true ∧ ∀ x ∈ h.done, x.1 ≠ 0) ∧
    (let s := withStep (groupSt 0 isLeaf [(COL_TIMEOUT, 1)] 100000)
     let h := halfOf [0]
     let s := { s with coll := { s.coll with halves := [h] } }
     findHalf s 1023 0 0 false = some h ∧ max h.firstAt h.reissuedAt + fldOf s COL_TIMEOUT 15 0 * 100000 ≤ s.now ∧
     ((halfSources s h.g h.step).filter fun src => lackMask s h src ≠ 0) = [32]) ∧
    (let r : StepRec := { openRec with written := [(0, 1)] }
     let s := withStep (groupSt 2 isOwner) r
     stepRec s 1023 0 = some r ∧ gOwner s 1023 = true ∧ gKind s 1023 = 2 ∧ r.shardDone = false ∧ shardWritten s r = true ∧ openBefore s 1023 r = false) ∧
    (let s := withStep (groupSt 0 isSteward [(COL_TIMEOUT, 2 ^ 16)] 10000000)
     openSteps s 1023 = [openRec] ∧ (∀ t ∈ s.coll.tallies, t.g ≠ 1023) ∧ openRec.firstAt ≤ s.now ∧ actsSteward s 1023 = true ∧ gKind s 1023 ≠ 5 ∧
     openRec.firstAt + fldOf s COL_TIMEOUT 31 16 * 10000000 ≤ s.now) ∧
    (let s := groupSt 0 isLeaf [(COL_TIMEOUT, 1), (SWC_SEAT 1, 1 + 4 * 3)] 100000
     gValid s 1023 = true ∧ gLeaf s 1023 = true ∧ isLocalSeat s (memberEpc s 1023 1) = true ∧ 1 < gMembers s 1023 ∧ degraded s 1023 = false ∧
     memberPort s 1023 1 < 258 ∧ inService s (memberPort s 1023 1) = false ∧
     (link s (memberPort s 1023 1)).outAt + fldOf s COL_TIMEOUT 15 0 * 100000 ≤ s.now) := by decide +kernel

/-! ## Failure handling (chapter 12) -/

/-- A state with the twin's supervision as given. -/
def twinSt (t : Twin) (ws : List (Nat × Nat) := []) (now : Nat := 0) : State :=
  let s := st ws now
  { s with res := { s.res with twin := t } }

theorem test_meets_TwinSupervision_losses :
    (let s := twinSt { downAt := some 5 } [(FLT_TWIN_CFG, 2 ^ 16)] 10005
     live s = true ∧ pwrState s = 0 ∧ twinUp s = false ∧ s.res.twin.lost = false ∧ s.res.twin.downAt = some 5 ∧ 5 + confirmNs s ≤ s.now ∧
     bitOf s PWR_INPUTS 4 = false) ∧
    (let s := twinSt { downAt := some 5, probeAt := some 10005 } [(FLT_TWIN_CFG, 2 ^ 16), (PWR_INPUTS, 16)] 10005
     twinUp s = false ∧ 5 + confirmNs s ≤ s.now ∧ bitOf s PWR_INPUTS 4 = true ∧ (∀ r ∈ s.e2e.outs, r.agent ≠ .probe) ∧
     s.res.twin.probeAt = some s.now) ∧
    (let s := twinSt { stage := 1 } (regionWords 0 (2 ^ 23))
     let s := { s with homes := { s.homes with standbyDir := [{ line := 0, owned := true, fwd := false, holders := [41], granted := 0, extAt := 0 },
       { line := 8192, owned := false, fwd := false, holders := [41], granted := 0, extAt := 0 }] } }
     let u := forEach (s.homes.standbyDir.filter fun r => (regionOfLine s r.line).isSome) s loadRecord
     s.res.twin.stage = 1 ∧ (∀ r ∈ u.homes.standbyDir, regionOfLine u r.line = none) ∧ u.homes.standbyDir.length = 1 ∧
     u.res.twin.returning = false) ∧
    (let s := twinSt { aliasDue := [7, 9] } [] 7
     ∃ rest, s.res.twin.aliasDue = 7 :: rest ∧ 7 ≤ s.now) := by
  refine ⟨by decide +kernel, by decide +kernel, by decide +kernel, [9], by decide +kernel⟩

theorem test_meets_TwinSupervision_handoff :
    (let s := twinSt { handingOff := true } ([(LNK_PORT_STATUS 256, 3)] ++ regionWords 0 (2 ^ 22))
     let rs := ((validRegions s).map (regionOf s)).filter (handRegion s)
     let gone (l : Nat) : Bool := rs.any fun r => r.holds (l * 128)
     let recs := s.homes.dir.filter fun r => gone r.line
     let u := forEach recs (emit s (.twin .handoff)) fun s r => setDirBits s r.line 0
     let u := { u with homes := { u.homes with dir := u.homes.dir.filter (fun r => !(gone r.line)), standbyDir := u.homes.standbyDir ++ recs } }
     let u := forEach rs (noteDir (noteDir u 0) 1) fun s r => setBitOf s (HOM_REGION r.i 0) 23 true
     let u := setTwin u { u.res.twin with handingOff := false, stage := 0, taken := [] }
     let u := if aliasActive u then setAlias (setBitOf u FLT_STATUS 8 false) false else u
     live s = true ∧ s.res.twin.handingOff = true ∧ twinUp s = true ∧ handoffQuiet s = true ∧ rs.length = 1 ∧ u.res.twin.handingOff = false) ∧
    (let s := twinSt { changeMap := [0] } [(LNK_PORT_STATUS 257, 3), (FLT_STATUS, 2 ^ 10)]
     bitOf s FLT_STATUS 10 = true ∧ twinUp s = true ∧
     (∀ e ∈ s.homes.lines, e.2.active.isSome = true → s.res.twin.changeMap.contains (e.1 / 8192) = false)) := by decide +kernel

theorem test_meets_TwinSupervision_digest :
    let s := twinSt {} (regionWords 0 (2 ^ 22))
    (live s = true ∧ s.res.twin.mismatch = false ∧ hasTwinned s = true) ∧ myDigest s + 1 ≠ myDigest s := by
  have g (x : BitVec 256) : x + 1 ≠ x := by bv_omega
  exact ⟨by decide +kernel, g _⟩

/-- A fault record of a source. -/
def rec_ (sev : Fin 5) (source : Fin 16) : FaultRec :=
  { stamp := 0, code := 0x0101, severity := sev, source := source, epc := 0, lostBefore := false, details := 0 }

/-- A state with records queued, the ring on, and room for two of them. -/
def ringSt (q : List FaultRec) (retry : Nat := 0) (now : Nat := 0) : State :=
  let s := st [(FLT_RING_CFG, 1), (FLT_RING_HEAD, 65534)] now
  { s with res := { s.res with queue := q, ringRetryAt := retry } }

theorem test_meets_FaultRecordsReachRingAndSummary :
    (let s := st [(FLT_WINDOW, 1)] 1000000
     let w := fldOf s FLT_WINDOW 15 0 * 1000000
     live s = true ∧ w ≠ 0 ∧ (min s.res.nextWindow (s.now / max w 1) + 1) * w ≤ s.now) ∧
    (let s := ringSt [rec_ 1 6, rec_ 3 7]
     bitOf s FLT_RING_CFG 0 = true ∧ s.res.ringWrite = none ∧ drainChoice (ringFree s) [] s.res.queue = some (rec_ 3 7) ∧ s.res.ringRetryAt = 0) ∧
    (let s := ringSt [rec_ 4 6] 1000000 1000000
     s.res.ringWrite = none ∧ drainChoice (ringFree s) [] s.res.queue = some (rec_ 4 6) ∧ s.res.ringRetryAt ≠ 0 ∧ s.res.ringRetryAt ≤ s.now) ∧
    (let s := { st [] 10000000009 with res := { summaryPend := [rec_ 3 0], summaryAt := some 9 } }
     s.res.summaryPend ≠ [] ∧ ∀ t, s.res.summaryAt = some t → t + 10000000000 ≤ s.now) := by
  refine ⟨by decide +kernel, by decide +kernel, by decide +kernel, by decide +kernel, ?_⟩
  intro t h
  obtain rfl := Option.some.inj h
  decide

/-- A queue of 125 records takes one of severity 2; at 126 it is lost, and the source's count is 1 (R362, R363). -/
theorem test_queue_room :
    let s (n : Nat) : State := { st [] with res := { queue := List.replicate n (rec_ 0 0) } }
    let t (n : Nat) := fault0 (s n) 0x0108 2 6
    (t 125).res.queue.length = 126 ∧ (t 126).res.queue.length = 126 ∧ fldOf (t 126) (FLT_OVF 6) 23 0 = 1 ∧ bitOf (t 126) (FLT_OVF 6) 24 = true := by
  decide +kernel

/-! ## Security and configuration (chapters 13 and 14) -/

/-- A state with Clasp's queue as given. -/
def queueSt (q : List ClaspJob) (ws : List (Nat × Nat) := []) (now : Nat := 0) : State := { st ws now with sec := { queue := q } }

/-- Clasp's area of window `w`, in a region of partition 0. -/
def areaWords (w : Nat) : List (Nat × Nat) :=
  [(HOM_REGION 0 0, 2 ^ 20 + 2 ^ 26 + 2 ^ 27), (HOM_REGION 0 1, 1), (SEC_W_BUF w, 2 ^ 19), (MEM_STATUS, 4095)]

theorem test_meets_ClaspServesItsQueue :
    (live (queueSt [.request 0 [] 0, .swap [] []]) = true ∧ (queueSt [.swap [] []]).sec.queue = .swap [] [] :: []) ∧
    (((4 : Nat) = 4 ∨ ((3 : Nat) = 3 ∧ true = true)) ∧ (0 : Nat) ≠ 4 ∧ ¬((3 : Nat) = 3 ∧ false = true)) ∧
    (let s := queueSt [.locket 0 false 0 0 0]
     areaOk s (windowBuf s 0) (2 ^ 19) = false) ∧
    (let s := queueSt [.locket 3 false 0 0 0] ((SEC_STATUS, 256) :: areaWords 3)
     areaOk s (windowBuf s 3) (2 ^ 19) = true ∧ bitOf s SEC_STATUS 8 = true ∧ maySign s = true) ∧
    (let s := queueSt [.locket 4 false 0 0 5] [] 2000000005
     5 + 2000000000 ≤ s.now) ∧
    (let s := queueSt [.grant 2 0] [(SEC_STATUS, 256)]
     bitOf s SEC_STATUS 8 = true ∧ s.sec.delivery = none) ∧
    (let s := { st [] with sec := { signing := some (0, true, 255, 0, 0) } }
     s.sec.signing = some (0, true, 255, 0, 0)) ∧
    (let d : Delivery := { w := 1, key := { job := 7, epoch := 3, partition := 255, key := 0 }, entries := [(64, 2048, [])], index := 0, sent := 0, failed := none }
     let s := { st [] with sec := { delivery := some d } }
     s.sec.delivery = some d ∧ d.sent = 0 ∧ d.entries[d.index]? = some (64, 2048, [])) ∧
    (∀ n : Fin 3,
      let s := { st [(PWR_STATUS, 2 * 8)] with sec := { bootStep := n.val } }
      2 ≤ phase s ∧ s.sec.bootStep = n.val ∧ maySign s = true) := by decide +kernel

/-- A partition's memory keys. -/
def memKey9 : MemKey := { id := 9, enc := 1, mac := 2 }

/-- A state whose twin's Locket was verified, with these keys and waits. -/
def keySt (ks : List MemKey) (wait : List (Byte × Nat)) (ws : List (Nat × Nat)) (now : Nat := 0) : State :=
  let s := twinSt { locketOk := true } ws now
  { s with sec := { memKeys := ks, keyWait := wait } }

theorem test_meets_KeysAndDebugTokens :
    (live (upAt 257) = true ∧ twinUp (upAt 257) = true) ∧
    ((keySt [memKey9] [] []).res.twin.locketOk = true ∧ memKey (keySt [memKey9] [] []) 9 = some memKey9 ∧
     Config.keyCheck memKey9.enc + 1 ≠ Config.keyCheck memKey9.enc) ∧
    (memKey (keySt [] [] [(SWC_ROLE, 128 * 2 ^ 12)]) 9 = none ∧ lowerSeat (keySt [] [] [(SWC_ROLE, 128 * 2 ^ 12)]) = true) ∧
    (let s := keySt [] [(9, 5)] [] 1000000005
     (s.sec.keyWait.find? fun k => k.1.toNat == 9) = some (9, 5) ∧ 5 + 1000000000 ≤ s.now) ∧
    (let s := st [(PWR_RESET_CAUSE, 1)]
     debugLeft s = some 0 ∧ phase s = 0 ∧ bitOf s PWR_RESET_CAUSE 0 = true ∧ bit s.part.fuse.toNat 0 = false) := by
  have g (x : BitVec 64) : x + 1 ≠ x := by bv_omega
  exact ⟨by decide +kernel, ⟨by decide +kernel, by decide +kernel, g _⟩, by decide +kernel, by decide +kernel, by decide +kernel⟩

/-- The configuration engine in a STATE with its own fields. -/
def cfgSt (state : Nat) (c : Cfg) (ws : List (Nat × Nat) := []) (now : Nat := 0) : State := { st ((CFG_STATUS, 16 * state) :: ws) now with cfg := c }

theorem test_meets_ConfigurationJobsEnd :
    (let s := cfgSt 1 { roles := { staged := 0, stgState := 1 } }
     live s = true ∧ cfgState s = 1 ∧ s.cfg.roles.stgState = 1) ∧
    (let s := cfgSt 1 {}
     cfgState s = 1 ∧ s.cfg.roles.stgState ≠ 1) ∧
    (let s := queueSt [.commitImage true]
     s.sec.queue = .commitImage true :: [] ∧ s.sw.drain = none ∧ s.cfg.job = none ∧ jobImage (popQueue s) .commit = none) ∧
    (let s := queueSt [.commitImage false]
     let s := { s with cfg := { s.cfg with roles := { staged := 2 } } }
     (jobImage (popQueue s) .commit).isSome = true) ∧
    (let s := cfgSt 0 { roles := { probation := true }, probEnd := 30000000000, probPorts := [0] } [(LNK_PORT_CFG 0, 1), (CFG_PROBATION, 1)] 30000000000
     s.cfg.roles.probation = true ∧ s.cfg.job = none ∧ s.cfg.probEnd ≠ 0 ∧ s.cfg.probEnd ≤ s.now ∧ probationVerdict s = 0 ∧
     bitOf s CFG_PROBATION 0 = true ∧ s.cfg.probPorts.contains 0 = true ∧ portEnabled s 0 = true ∧ inService s 0 = false ∧
     (link s 0).outAt + 1000000000 ≤ s.now) ∧
    (let s := cfgSt 5 { summaryClear := true }
     cfgState s = 5 ∧ (setCfgState s 0).cfg.summaryClear = true) ∧
    (let s := cfgSt 5 {} ([(CFG_BUF, 0)] ++ areaWords 0)
     cfgState s = 5 ∧ (setCfgState s 0).cfg.summaryClear = false ∧ areaOk (setCfgState s 0) (cfgBuf (setCfgState s 0)) 4096 = true) := by decide +kernel

/-! ## Power, clocks and resets (chapter 15) -/

/-- A state in a power state, entering another where `p` says so. -/
def pwrSt (state : Nat) (p : Pwr := {}) (ws : List (Nat × Nat) := []) (now : Nat := 0) : State := { st ((PWR_STATUS, state) :: ws) now with pwr := p }

theorem test_meets_PowerStatesComeAndGo :
    (live (pwrSt 1) = true ∧ pwrState (pwrSt 1) = 1 ∧ pwrState (pwrSt 2) = 2 ∧ pwrState (pwrSt 3) = 3 ∧ pwrState (pwrSt 4) = 4) ∧
    (deepWake .semaphore = false ∧ deepWake .i3cRun = true ∧ deepWake (.perstDeassert 1) = true) ∧
    (∀ k ∈ [3, 4], pwrState (pwrSt 0 { target := k, entryStep := 4 }) = 0 ∧ entering (pwrSt 0 { target := k, entryStep := 4 }) = true) ∧
    (let u := pwrProgress (pwrSt 0 { target := 4, entryStep := 4 })
     entering u = true ∧ u.pwr.entryStep = 4 ∧ noneCached u (fun _ => true) = true) ∧
    (∀ a ∈ [1, 2],
      let s := pwrSt 0 { idleSince := 5 } [(PWR_CFG, a * 2 ^ 11), (PWR_IDLE_CFG, 1)] 105
      pwrState s = 0 ∧ s.pwr.target = 0 ∧ autoIdle s = a ∧ poiseReady s = true ∧ idleFrom s + poiseDwell s ≤ s.now) ∧
    (let s := pwrSt 1 { idleSince := 5 } [(PWR_CFG, 2 * 2 ^ 11), (PWR_IDLE_CFG, 2 ^ 16)] 1005
     pwrState s = 1 ∧ autoIdle s = 2 ∧ hushReady s = true ∧ idleFrom s + hushDwell s ≤ s.now) := by decide +kernel

/-- A state in a phase of start-up. -/
def phaseSt (n : Nat) (ws : List (Nat × Nat) := []) (now : Nat := 0) : State := st ((PWR_STATUS, 8 * n) :: ws) now

theorem test_meets_ResetsTripsAndPhases :
    (st []).pwr.off = false ∧
    (let s := { st [(PWR_INPUTS, 1)] with pwr := { dark := true } }
     s.pwr.off = false ∧ s.pwr.dark = true ∧ bitOf s PWR_INPUTS 0 = true) ∧
    (live (pwrSt 0 { tripped := true }) = true ∧ (pwrSt 0 { tripped := true }).pwr.tripped = true ∧ (st []).pwr.tripped = false) ∧
    domainExists (st []) (.lane 65) = true ∧
    (pwrState (phaseSt 0) = 0 ∧ phase (phaseSt 0) = 0 ∧ phase (phaseSt 1) = 1) ∧
    (let s := { phaseSt 2 with homes := { trained := Vector.replicate 12 true } }
     phase s = 2 ∧ tierTrained s false = true ∧ tierTrained s true = true) ∧
    phase (phaseSt 3) = 3 ∧
    (let s := phaseSt 4 [(LNK_PORT_STATUS 0, 3), (LNK_PORT_STATUS 1, 3)]
     phase s = 4 ∧ bitOf s MEM_STATUS 12 = false ∧ bitOf s MEM_STATUS 13 = false ∧ floorUp s = true) ∧
    (let s := phaseSt 4 [] 1200000000
     phase s = 4 ∧ floorUp s = false ∧ s.pwr.lateSent = false ∧ s.pwr.startAt + 1200000000 ≤ s.now) := by decide +kernel

/-- A state with one input's filter as given. -/
def inputSt (i : Input) (x : InputState) (ws : List (Nat × Nat) := []) (now : Nat := 0) : State := pwrSt 0 { inputs := [(inputBit i, x)] } ws now

theorem test_meets_InputsAndCapAct :
    (pwrSt 0 { off := true }).pwr.off = true ∧
    (bitOf (inputSt .perst1 {}) PWR_INPUTS (inputBit .perst1) ≠ true ∧ (inputOf (inputSt .perst1 {}) .perst1).damped = false ∧
     (inputSt .perst1 {}).pwr.off = false) ∧
    (let s := inputSt .perst0 { damped := true, lastChange := 3 } [] 10000003
     bitOf s PWR_INPUTS (inputBit .perst0) ≠ true ∧ (inputOf s .perst0).lastChange + 10000000 ≤ s.now) ∧
    (let s := inputSt .perst0 { damped := true, lastChange := 3 } [] 10000002
     (inputOf s .perst0).damped = true ∧ s.now < (inputOf s .perst0).lastChange + 10000000 ∧ ¬(Input.perst0 = .capLow ∧ true = true)) ∧
    (let s := inputSt .capLow { activeSince := 1 } [(PWR_INPUTS, 8)] 10000000001
     Input.capLow ≠ .pwrgood ∧ Input.capLow ≠ .twinPrsnt ∧ bitOf s PWR_INPUTS (inputBit .capLow) = true ∧ (inputOf s .capLow).stuckSent = false ∧
     (inputOf s .capLow).activeSince + 10000000000 ≤ s.now) ∧
    (let s := inputSt .pwrgood { damped := true, tripleAt := 4 } [] 1000000004
     (inputOf s .pwrgood).damped = true ∧ (inputOf s .pwrgood).tripleAt + 1000000000 ≤ s.now) ∧
    (bitOf (st [(PWR_INPUTS, 8)]) PWR_INPUTS 3 = true ∧ bitOf (st [(PWR_INPUTS, 8)]) PWR_STATUS 6 = false ∧
     bitOf (st [(PWR_STATUS, 64)]) PWR_INPUTS 3 = false ∧ bitOf (st [(PWR_STATUS, 64)]) PWR_STATUS 6 = true) := by decide +kernel

theorem test_meets_InputsAndCapAct_cap (w : BitVec 16) :
    let u (s : State) : State := takeFree (wr s PWR_MEASURE (w.toNat % 2 ^ 16 + freeVal s % 2 ^ 16 * 2 ^ 16))
    (pwrState (u (st [(PWR_CAP, 700)])) = 0 ∧ fldOf (st [(PWR_CAP, 700)]) PWR_CAP 15 0 = 700) ∧
    (u (pwrSt 0 { capRaised := true } [(PWR_CAP, 700)])).pwr.capRaised = true ∧ (u (st [])).pwr.capRaised = false ∧
    (700 < (701 : BitVec 16).toNat ∧ (700 : BitVec 16).toNat ≤ 700) := by
  refine ⟨⟨?_, by decide +kernel⟩, rfl, rfl, by decide⟩
  have h (s : State) (v : Nat) : pwrState (takeFree (wr s PWR_MEASURE v)) = pwrState s := by
    unfold pwrState fldOf
    exact congrArg (fun n => bits n 2 0) (rd_wr_other s (by decide) v)
  rw [h]; decide +kernel

/-- The dwell of Poise is 1 µs where POISE_DWELL is 0 (R423): 10 of 100 ns. -/
theorem test_poise_dwell :
    (then_ .poiseEntry (pwrSt 0 {} [(PWR_CFG, 2 ^ 11), (PWR_IDLE_CFG, 0)] 1000) pwrState) = some 1 ∧
    (then_ .poiseEntry (pwrSt 0 {} [(PWR_CFG, 2 ^ 11), (PWR_IDLE_CFG, 0)] 999) pwrState) = some 0 := by decide +kernel

/-! ## The host ports and the counters (chapters 16 and 17) -/

/-- A state with both host links up, aperture 0 of PF0 of port `j` enabled, and the path active where `act` says so. -/
def hostSt (act : Nat) (ws : List (Nat × Nat) := []) (now : Nat := 0) : State :=
  st ([(HST_PORT_STATUS 0, 1 + 2 ^ 9 * act), (HST_PORT_STATUS 1, 1 + 2 ^ 9 * act), (HST_AP_CTRL 0 0 0, 1), (HST_AP_CTRL 1 0 0, 1)] ++ ws) now

theorem test_meets_HostAccessesMakeRequests :
    (∀ j : Fin 2,
      let s := hostSt 1
      let u := wakeRun (hostBusy s)
      let v := hostBusy u
      live s = true ∧ linkUp s j = true ∧ linkUp u j = true ∧ fnThere u j 0 = true ∧ apFails v j 0 0 = 0 ∧ apFails v j 0 (2 ^ 36 - 1) = 0 ∧
      apFails v j 0 (2 ^ 36) ≠ 0) ∧
    (let v := hostBusy (wakeRun (hostBusy (hostSt 0)))
     apFails v 0 0 0 ≠ 0) ∧
    (¬(((12 : Nat) = 4 ∨ (12 : Nat) = 8 ∨ ((12 : Nat) = 16 ∧ (0 : Nat) = 8)) ∧ 0 % 12 = 0) ∧
     (((16 : Nat) = 4 ∨ (16 : Nat) = 8 ∨ ((16 : Nat) = 16 ∧ (8 : Nat) = 8)) ∧ 0 % 16 = 0) ∧
     (((8 : Nat) = 4 ∨ (8 : Nat) = 8 ∨ ((8 : Nat) = 16 ∧ (7 : Nat) = 8)) ∧ 2 ^ 36 % 8 = 0)) := by decide +kernel

/-- A request to the host of port `j`. -/
def toHost (op : Byte) (j : Nat) (key : Word) (part : Byte := 0) : Packet :=
  { mkPkt op 1 (hostEpc (st []) j 0) 32 0 [] with regionKey := key, partition := part }

theorem test_meets_HostPortsAnswer_requests :
    ∀ j : Fin 2, ∀ o ∈ [opREAD, opREAD_VOL, opWRITE, opWRITE_MASK, opSTREAM_WRITE],
      let d := dlv (toHost o j 9)
      let t (s : State) := takeInbox s d
      live (st []) = true ∧ o ≠ opCOLL_COUNT ∧ o ≠ opTELEMETRY ∧ d.pkt.opcode = o ∧ hostOf (t (st [])) d.pkt.dest = some j.val ∧
      linkUp (t (st [])) j = false ∧ hostOf (t (hostSt 0)) d.pkt.dest = some j.val ∧ linkUp (t (hostSt 0)) j = true ∧
      boundFns (t (hostSt 0)) j 0 = [0] ∧ boundFns (t (hostSt 0)) j (toHost o j 9 1).partition.toNat = [] ∧
      rd (t (hostSt 0)) (HST_FN_INKEY j 0) = 0 ∧
      (let s := hostSt 0 [(HST_FN_INKEY j 0, 9)]
       rd (t s) (HST_FN_INKEY j 0) ≠ 0 ∧ rd (t s) (HST_FN_INKEY j 0) = d.pkt.regionKey.toNat ∧
       rd (t s) (HST_FN_INKEY j 0) ≠ (toHost o j 8).regionKey.toNat) := by decide +kernel

theorem test_meets_HostPortsAnswer_events :
    (let i : Inbound := { j := 1, n := 3, d := dlv (toHost opREAD 1 0), at_ := 5 }
     let s := { hostSt 0 [] 10000005 with hosts := { inbound := [i] } }
     linkUp s 1 = true ∧ findInbound (wakeRun (hostBusy s)) 1 3 = some i ∧ findInbound s 1 3 = some i ∧ i.at_ + 10000000 ≤ s.now) ∧
    (let s := { st [(HST_PBA 1 127, 8), (HST_MSIX 1 127 15, 0)] 1999 with hosts := { msixAt := [((128 + 127) * 4 + 3, 1000)] } }
     live s = true ∧ bitOf s (HST_PBA 1 127) 3 = true ∧ bitOf s (HST_MSIX 1 127 (4 * 3 + 3)) 0 = false ∧
     cget 0 s.hosts.msixAt ((1 * 128 + 127) * 4 + 3) + 1000 ≤ s.now + 1) ∧
    (let s := hostSt 0
     let u := wakeRun (hostBusy s)
     linkUp s 0 = true ∧ linkUp u 0 = true ∧ onceSince (hostErr (hostBusy u) 0 1) (0x0B0400 + 0) 1000000 = true ∧
     onceSince (noteSince (hostErr (hostBusy u) 0 1) (0x0B0400 + 0)) (0x0B0400 + 0) 1000000 = false) ∧
    (let s := st [(HST_PORT_CFG 1, 1)]
     bitOf s PWR_INPUTS (1 + 1) = false ∧ bitOf s (HST_PORT_CFG 1) 0 = true ∧ dieDead s (.port 0) = false ∧ (6 : BitVec 3) ≠ 0 ∧ (6 : BitVec 3) ≠ 7) ∧
    (let r : SnapReq := { slot := 63, event := 5, stamp := 7, taken := some (9, false, false) }
     let s := { st [] 7 with cnt := { snaps := [r] } }
     ((captureDue s).cnt.snaps.find? fun r => r.slot == 63) = some r ∧ r.taken = some (9, false, false)) := by decide +kernel

theorem test_meets_ResetLeavesResetValues : State.reset.Canon ∧ (6 : Nat) < 32 := ⟨canon_reset, by decide⟩

theorem test_meets_AlertLevelsAndStatus : (readWord (st []) .annex HST_ALERT_STATE).2.2 = false ∧
    ({ pkt opCOMP 0 0 with status := 7 } : Packet).status.toNat < 8 ∧ 8 ≤ ({ pkt opCOMP 0 0 with status := 8 } : Packet).status.toNat := by decide +kernel

theorem test_meets_NothingHappensInOff : (pwrSt 0 { off := true }).pwr.off = true ∧ Instr.bufAudit ≠ .powerOnReset ∧
    Instr.bufAudit ≠ .inputAccept .pwrgood true := by decide +kernel

theorem test_meets_MemoryReadsBackAndStays : Memory.wf (st []).homes.mem = true ∧ 128 ≤ (List.replicate 128 (7 : Byte)).length ∧
    (129 / 128 ≠ 0) ∧ settled (st []) ∧ memoryAside (.fecLock 0) = true ∧ ∃ t, exec (.fecLock 0) (lk 0 { phase := .lock }) = .next t := by
  refine ⟨by decide +kernel, by decide +kernel, by decide, ⟨rfl, rfl⟩, rfl, _, rfl⟩

theorem test_meets_EveryStepGoesOnAndKeepsForm : State.reset.Canon := canon_reset

theorem test_meets_StepRunsTheFrontCommand : State.reset.pending = [] := rfl

/-- A step runs the command in front, and an empty queue lets a nanosecond pass. -/
theorem test_step :
    (match step { lk 0 { phase := .detect } with pending := [.laneDetect 0, .bufAudit] } with
      | .next t => ((lane t 0).phase, t.pending) | _ => (.off, [])) = (.lock, [.bufAudit]) ∧
    (match step State.reset with | .next t => t.now | _ => 0) = 1 := by decide +kernel

end Sys2Proof.Tests
end

/-! PROOFS. Accesses of the module register space that are refused (R8, R9, R12, R375): what the read or the write answers is the
record of its error alone. -/

namespace Sys2Proof.Machine

section
variable {s : State} {p : Path} {off : Nat}

/-- The model's check of an access's form, as a proposition (R8). -/
theorem illFormed_iff {size : Nat} :
    (!(decide (size = 4) || decide (size = 8)) || decide (off % size ≠ 0)) = true ↔ off % size ≠ 0 ∨ (size ≠ 4 ∧ size ≠ 8) := by
  simp [or_comm]

/-- The block is served: the island serves IDN and PWR even where it is alone. -/
theorem served_of (hb : islandOnly s = false ∨ blockOf off = 0 ∨ blockOf off = 2) :
    ¬ (islandOnly s && decide (blockOf off ≠ 0) && decide (blockOf off ≠ 2)) = true := by
  rcases hb with h | h | h <;> simp [h]

/-- R8 for a write. -/
theorem mrsWrite_illFormed {size v : Nat} (hb : islandOnly s = false ∨ blockOf off = 0 ∨ blockOf off = 2)
    (hi : off % size ≠ 0 ∨ (size ≠ 4 ∧ size ≠ 8)) : mrsWrite s p off size v = (accessErr s p off 1, false) := by
  unfold mrsWrite
  rw [if_neg (served_of hb), if_pos (illFormed_iff.mpr hi)]

/-- R8 for a read. -/
theorem mrsRead_illFormed {size : Nat} (hb : islandOnly s = false ∨ blockOf off = 0 ∨ blockOf off = 2)
    (hi : off % size ≠ 0 ∨ (size ≠ 4 ∧ size ≠ 8)) : mrsRead s p off size = (0, accessErr s p off 1, false) := by
  unfold mrsRead
  rw [if_neg (served_of hb), if_pos (illFormed_iff.mpr hi)]

/-- A read of an aligned word, where the block is served. -/
theorem mrsRead_word (hb : islandOnly s = false ∨ blockOf off = 0 ∨ blockOf off = 2) (ha : off % 4 = 0) :
    mrsRead s p off 4 = readWord s p off := by
  unfold mrsRead
  rw [if_neg (served_of hb), if_neg (by simp [ha]), if_pos rfl]

/-- R9 for a write: no register is at the offset. -/
theorem writeReg_unmapped {n v : Nat} (hf : findReg s.part.hz7134 off = none) : writeReg s p off n v = (accessErr s p off 0, false) := by
  unfold writeReg
  rw [hf]

/-- R9 for a read. -/
theorem readWord_unmapped (hf : findReg s.part.hz7134 off = none) : readWord s p off = (0, accessErr s p off 0, false) := by
  unfold readWord
  rw [hf]

/-- A read outside the path's view (R375). -/
theorem readWord_outside {r : RegRow} {is : List Nat} {w : Nat} (hf : findReg s.part.hz7134 off = some (r, is, w))
    (hm : mayRead s p off = false) : readWord s p off = (0, accessErr s p off 3, true) := by
  unfold readWord
  rw [hf]
  simp only [hm, Bool.not_false, if_true]

/-- A field of the first word is among those a write of that word touches. -/
theorem writtenFields_any_rwc {r : RegRow} {v : Nat} (h : ∃ f ∈ r.fields, f.word = 0 ∧ f.acc = .rwc) :
    ((writtenFields r 0 1 v).any fun e => e.1.acc == .rwc) = true := by
  obtain ⟨f, hf, hw, hacc⟩ := h
  refine List.any_eq_true.mpr ⟨(f, bits (v / 2 ^ (32 * (f.word - 0))) f.hi f.lo), List.mem_map.mpr ⟨f, ?_, rfl⟩, by simp [hacc]⟩
  exact List.mem_filter.mpr ⟨hf, by simp [hw]⟩

/-- A direct write of a field that only Clasp changes, by a path whose own window may propose it (R12, R370). -/
theorem writeReg_rwc {r : RegRow} {is : List Nat} {w n v : Nat} (hf : findReg s.part.hz7134 off = some (r, is, w))
    (hr : ((writtenFields r w n v).any fun e => e.1.acc == .rwc) = true) (hp : pathProposes s p off = true) :
    writeReg s p off n v = (accessErr s p off 2, false) := by
  unfold writeReg
  rw [hf]
  simp only [hr, hp, if_true]

end

/-- Settles O29: the size and alignment check comes first, then the register lookup, then the view or the access codes; each ends in `accessErr`. -/
theorem refusedAccessesAreRecorded : Obligations.RefusedAccessesAreRecorded := by
  unfold Obligations.RefusedAccessesAreRecorded
  intro s p off size v hb
  refine ⟨fun hi => ⟨mrsWrite_illFormed hb hi, mrsRead_illFormed hb hi⟩, fun ha hf => ⟨?_, ?_⟩, fun r is ha hf => ⟨fun hrwc hp => ?_, fun hm => ?_⟩⟩
  · rw [mrsWrite_word hb ha, writeReg_unmapped hf]
  · rw [mrsRead_word hb ha, readWord_unmapped hf]
  · rw [mrsWrite_word hb ha, writeReg_rwc hf (writtenFields_any_rwc hrwc) hp]
  · rw [mrsRead_word hb ha, readWord_outside hf hm]

end Sys2Proof.Machine

/-! PROOFS. The alert levels (R464) are the binary digits of HST_ALERT_STATE, and a register outside the counters' slots and the Hall
reads as its view, with the fields that no read shows left out (R10). -/

namespace Sys2Proof

theorem bit_eq_testBit (v n : Nat) : bit v n = v.testBit n := by
  rw [Nat.testBit_eq_decide_div_mod_eq]
  rfl

/-- A field differs from zero exactly when a bit of it is 1. -/
theorem bits_ne_zero_iff (v hi lo : Nat) : bits v hi lo ≠ 0 ↔ ∃ i, i < hi + 1 - lo ∧ bit v (lo + i) = true := by
  simp only [bit_eq_testBit]
  constructor
  · intro h
    obtain ⟨i, hset⟩ := Nat.exists_testBit_of_ne_zero h
    rw [bits_testBit, Bool.and_eq_true, decide_eq_true_eq] at hset
    exact ⟨i, hset⟩
  · rintro ⟨i, hlt, hb⟩ h0
    have hbit : (bits v hi lo).testBit i = true := by rw [bits_testBit, hb, decide_eq_true hlt, Bool.true_and]
    rw [h0, Nat.zero_testBit] at hbit
    exact Bool.false_ne_true hbit

theorem b2n_eq_toNat (b : Bool) : b2n b = b.toNat := by cases b <;> rfl

end Sys2Proof

namespace Sys2Proof.Machine

/-- The conditions of R464, in the order of their bits. -/
def alertConds (s : State) : Fin 6 → Bool :=
  ![bitOf s PWR_STATUS 6, bitOf s PWR_STATUS 7 || bitOf s PWR_STATUS 8, bitOf s PWR_STATUS 9,
    fldOf s PWR_INPUTS 12 8 ≠ 0 || fldOf s PWR_INPUTS 20 16 ≠ 0, (List.range 16).any fun k => bitOf s (FLT_OVF k) 24,
    serving s && (!(bitOf s FLT_STATUS 1) || !(bitOf s FLT_STATUS 2))]

theorem alertState_eq_ofBits (s : State) : alertState s = Nat.ofBits (alertConds s) := by
  simp only [alertState, alertConds, b2n_eq_toNat, Nat.ofBits_succ, Nat.ofBits_zero, Matrix.cons_val_zero, Function.comp_def,
    Matrix.cons_val_succ]
  ring

theorem alertState_lt (s : State) : alertState s < 2 ^ 6 := by
  rw [alertState_eq_ofBits]
  exact Nat.ofBits_lt_two_pow _

/-- Each bit is the level of its condition. -/
theorem bit_alertState (s : State) (n : Fin 6) : bit (alertState s) n = alertConds s n := by
  rw [bit_eq_testBit, alertState_eq_ofBits, Nat.testBit_ofBits_lt _ _ n.isLt]

/-- INPUT: a STUCK or a DAMPED bit. -/
theorem alertConds_input_iff (s : State) :
    alertConds s 3 = true ↔ ∃ i, i < 5 ∧ (bitOf s PWR_INPUTS (8 + i) = true ∨ bitOf s PWR_INPUTS (16 + i) = true) := by
  have stuck := bits_ne_zero_iff (rd s PWR_INPUTS) 12 8
  have damped := bits_ne_zero_iff (rd s PWR_INPUTS) 20 16
  calc alertConds s 3 = true ↔ fldOf s PWR_INPUTS 12 8 ≠ 0 ∨ fldOf s PWR_INPUTS 20 16 ≠ 0 := by simp [alertConds]
    _ ↔ _ := by rw [fldOf, fldOf, stuck, damped, ← exists_or]; simp only [bitOf, ← and_or_left]

/-- FAULT_LOST: a LOST bit of some source. -/
theorem alertConds_faultLost_iff (s : State) : alertConds s 4 = true ↔ ∃ k, k < 16 ∧ bitOf s (FLT_OVF k) 24 = true := by
  simp [alertConds, List.any_eq_true]

/-- BELOW: MEMORY or UPDATE is 0 in Serving. -/
theorem alertConds_below_iff (s : State) :
    alertConds s 5 = true ↔ serving s = true ∧ (bitOf s FLT_STATUS 1 = false ∨ bitOf s FLT_STATUS 2 = false) := by
  simp [alertConds]

/-- A read inside the path's view of a word that is neither a slot's, the local counter's nor the Hall's. -/
theorem readWord_plain {s : State} {p : Path} {off : Nat} {r : RegRow} {is : List Nat} {w : Nat}
    (hf : findReg s.part.hz7134 off = some (r, is, w)) (hm : mayRead s p off = true) (hs : slotOfOff off = none)
    (hc : off ≠ PWR_COUNTER ∧ off ≠ PWR_COUNTER + 4) (hb : blockOf off ≠ 7) : readWord s p off = (maskWord r w (rawWord s p off), s, false) := by
  have hg : hallGone s off = false := by simp [hallGone, hb]
  obtain ⟨hlow, hhigh⟩ := hc
  unfold readWord
  simp only [hf, hm, hg, hs, hlow, hhigh, hb, Bool.not_true, Bool.false_eq_true, if_false]

/-- What a read of a one-word register shows of its only field, low in the word. -/
theorem maskWord_one (base hi v : Nat) : maskWord (r1 base [fld 0 hi 0 .ro]) 0 v = v % 2 ^ (hi + 1) := by
  simp [maskWord, r1, fld, FieldRow.shows, setBits, bits]

theorem findReg_HST_ALERT_STATE (hz : Bool) : findReg hz HST_ALERT_STATE = some (r1 HST_ALERT_STATE [fld 0 5 0 .ro], [], 0) := by
  cases hz <;> rfl

theorem rawWord_HST_ALERT_STATE (s : State) (p : Path) : rawWord s p HST_ALERT_STATE = alertState s := rfl

/-- A read of HST_ALERT_STATE by a path whose view holds it. -/
theorem readWord_HST_ALERT_STATE {s : State} {p : Path} (hm : mayRead s p HST_ALERT_STATE = true) :
    readWord s p HST_ALERT_STATE = (alertState s, s, false) := by
  rw [readWord_plain (findReg_HST_ALERT_STATE _) hm (by decide) (by decide) (by decide), rawWord_HST_ALERT_STATE, maskWord_one,
    Nat.mod_eq_of_lt (alertState_lt s)]

/-- A read that is not answered as outside the view of its path lay inside it (R375). -/
theorem mayRead_of_not_outside {s : State} {p : Path} {off : Nat} {r : RegRow} {is : List Nat} {w : Nat}
    (hf : findReg s.part.hz7134 off = some (r, is, w)) (h : (readWord s p off).2.2 = false) : mayRead s p off = true := by
  by_contra hm
  rw [readWord_outside hf (Bool.eq_false_of_not_eq_true hm)] at h
  exact Bool.false_ne_true h.symm

theorem statusOf_of_lt {p : Packet} (h : p.status.toNat < 8) : statusOf p = p.status.toNat := if_neg (Nat.not_le.mpr h)

theorem statusOf_reserved {p : Packet} (h : 8 ≤ p.status.toNat) : statusOf p = stUNREACHABLE := if_pos h

/-- Settles O57: HST_ALERT_STATE is the number whose digits are the conditions of R464, and it fits the register's only field. -/
theorem alertLevelsAndStatus : Obligations.AlertLevelsAndStatus := by
  unfold Obligations.AlertLevelsAndStatus
  refine ⟨fun s => ⟨alertState_lt s, bit_alertState s 0, bit_alertState s 1, bit_alertState s 2, ?_, ?_, ?_⟩, fun s p h => ?_,
    ⟨rfl, rfl, rfl, rfl, rfl, rfl, rfl, rfl⟩, fun p => ⟨statusOf_of_lt, statusOf_reserved⟩⟩
  · exact (bit_alertState s 3).symm ▸ alertConds_input_iff s
  · exact (bit_alertState s 4).symm ▸ alertConds_faultLost_iff s
  · exact (bit_alertState s 5).symm ▸ alertConds_below_iff s
  · have hm := mayRead_of_not_outside (findReg_HST_ALERT_STATE _) h
    rw [readWord_HST_ALERT_STATE hm]

end Sys2Proof.Machine

/-! PROOFS. A cache's answer to a C2 packet, one equation per row of the table of R202, by the column its line answers in: the line's
state, or I while its announcement is outstanding. -/

namespace Sys2Proof.Machine

/-- The column of R202's table that a line answers in. -/
def answerColumn (l : CacheLine) : BitVec 3 := if l.evicting then 0 else l.state

theorem answerColumn_evicting {l : CacheLine} (h : l.evicting = true) : answerColumn l = 0 := if_pos h

theorem answerColumn_settled {l : CacheLine} (h : l.evicting = false) : answerColumn l = l.state := by simp [answerColumn, h]

/-- `answerC2` counts the columns as natural numbers. -/
theorem answerColumn_toNat (l : CacheLine) : (if l.evicting then 0 else l.state.toNat) = (answerColumn l).toNat := by
  unfold answerColumn
  split <;> rfl

theorem answerColumn_toNat_eq (l : CacheLine) :
    ((answerColumn l).toNat = 2 ↔ answerColumn l = 2) ∧ ((answerColumn l).toNat = 3 ↔ answerColumn l = 3) ∧
    ((answerColumn l).toNat = 4 ↔ answerColumn l = 4) := by
  simp [BitVec.toNat_eq_nat]

/-- A line that goes to a state other than I, whether or not it is in that state already. -/
theorem line_goes_of_ne_zero (l : CacheLine) {st : BitVec 3} (hst : st ≠ 0) :
    (if st = 0 then l.toI else if st = l.state then l else { l with state := st }) = { l with state := st } := by
  rw [if_neg hst]
  split
  next h => rw [h]
  next => rfl

section
variable {s : State} {self : Epc} {l : CacheLine} {p : Packet}

/-- SNOOP_INV and RECALL: the line goes to I, and its data home from M. -/
theorem answerC2_snoopInv (h : p.opcode = opSNOOP_INV ∨ p.opcode = opRECALL) :
    answerC2 s self l p =
      (if answerColumn l = 3 then sendAnswer s self p opSNOOP_DATA p.src 0 false false (lineBytes l.data)
        else sendAnswer s self p opSNOOP_RESP p.src 0 false l.evicting [], l.toI) := by
  have hne : p.opcode ≠ opFWD_SHARED ∧ p.opcode ≠ opFWD_EXCL := by rcases h with h | h <;> rw [h] <;> decide
  simp only [answerC2, answerColumn_toNat, answerColumn_toNat_eq, if_neg hne.1, if_neg hne.2]
  exact (apply_ite (·, l.toI) _ _ _).symm

/-- FWD_SHARED for another cache: DATA F goes there from M, E and F, before the answer to the home. -/
theorem answerC2_fwdShared (h : p.opcode = opFWD_SHARED) (hr : p.req ≠ p.src) :
    answerC2 s self l p =
      let sent := sendAnswer s self p opDATA p.req 4 false false (lineBytes l.data)
      if answerColumn l = 3 then (sendAnswer sent self p opSNOOP_DATA p.src 1 true false (lineBytes l.data), { l with state := 1 })
      else if answerColumn l = 2 ∨ answerColumn l = 4 then (sendAnswer sent self p opSNOOP_RESP p.src 1 true false [], { l with state := 1 })
      else (sendAnswer s self p opSNOOP_RESP p.src (answerColumn l) false l.evicting [], l) := by
  simp only [answerC2, answerColumn_toNat, if_pos h, if_neg hr, Bool.or_eq_true, decide_eq_true_eq, answerColumn_toNat_eq,
    BitVec.ofNat_toNat, BitVec.setWidth_eq]
  by_cases h3 : answerColumn l = 3#3
  · simp [h3]
  · simp [h3]

/-- FWD_SHARED for the home itself: a line in M or E keeps F. -/
theorem answerC2_fwdShared_home (h : p.opcode = opFWD_SHARED) (hr : p.req = p.src) :
    answerC2 s self l p =
      if answerColumn l = 3 then (sendAnswer s self p opSNOOP_DATA p.src 4 false false (lineBytes l.data), { l with state := 4 })
      else if answerColumn l = 2 then (sendAnswer s self p opSNOOP_RESP p.src 4 false false [], { l with state := 4 })
      else (sendAnswer s self p opSNOOP_RESP p.src (answerColumn l) false l.evicting [], l) := by
  simp only [answerC2, answerColumn_toNat, if_pos h, if_pos hr, answerColumn_toNat_eq, BitVec.ofNat_toNat, BitVec.setWidth_eq]

/-- FWD_EXCL: the line goes to I, and from M and E to REQ with its state. -/
theorem answerC2_fwdExcl (h : p.opcode = opFWD_EXCL) :
    answerC2 s self l p =
      (if answerColumn l = 2 ∨ answerColumn l = 3 then
        sendAnswer (sendAnswer s self p opDATA p.req (answerColumn l) false false (lineBytes l.data)) self p opSNOOP_RESP p.src 0 true false []
      else sendAnswer s self p opSNOOP_RESP p.src 0 false l.evicting [], l.toI) := by
  have hne : p.opcode ≠ opFWD_SHARED := by rw [h]; decide
  simp only [answerC2, answerColumn_toNat, if_neg hne, if_pos h, Bool.or_eq_true, decide_eq_true_eq, answerColumn_toNat_eq,
    BitVec.ofNat_toNat, BitVec.setWidth_eq]
  exact (apply_ite (·, l.toI) _ _ _).symm

/-- A line whose announcement is outstanding answers an invalidation in the column I, with EVICTING. -/
theorem answerC2_evicting (he : l.evicting = true) (h : p.opcode = opSNOOP_INV ∨ p.opcode = opRECALL ∨ p.opcode = opFWD_EXCL) :
    answerC2 s self l p = (sendAnswer s self p opSNOOP_RESP p.src 0 false true [], l.toI) := by
  rcases h with h | h | h
  · simp [answerC2_snoopInv (.inl h), answerColumn_evicting he, he]
  · simp [answerC2_snoopInv (.inr h), answerColumn_evicting he, he]
  · simp [answerC2_fwdExcl h, answerColumn_evicting he, he]

theorem answerC2_fwdShared_evicting (he : l.evicting = true) (h : p.opcode = opFWD_SHARED) :
    answerC2 s self l p = (sendAnswer s self p opSNOOP_RESP p.src 0 false true [], l) := by
  by_cases hr : p.req = p.src
  · simp [answerC2_fwdShared_home h hr, answerColumn_evicting he, he]
  · simp [answerC2_fwdShared h hr, answerColumn_evicting he, he]

end

/-- Settles O19: each row of R202's table is an equation of `answerC2` by the column of the line, which is I for an evicting line and the
line's state for any other. -/
theorem snoopAnswersByState : Obligations.SnoopAnswersByState := by
  unfold Obligations.SnoopAnswersByState
  refine ⟨fun s self l p he => ⟨answerC2_evicting he, answerC2_fwdShared_evicting he⟩, fun s self l p he _ => ?_⟩
  have hcol := answerColumn_settled he
  have goesS := line_goes_of_ne_zero l (show (1 : BitVec 3) ≠ 0 by decide)
  have goesF := line_goes_of_ne_zero l (show (4 : BitVec 3) ≠ 0 by decide)
  refine ⟨fun h => ?_, fun h hr => ?_, fun h hr => ?_, fun h => ?_⟩
  · rw [answerC2_snoopInv h, hcol, he]
    exact apply_ite (·, l.toI) _ _ _
  · simp only [answerC2_fwdShared h hr, hcol, goesS]
    rw [he]
  · simp only [answerC2_fwdShared_home h hr, hcol, goesF]
    rw [he]
  · rw [answerC2_fwdExcl h, hcol, he]
    exact apply_ite (·, l.toI) _ _ _

end Sys2Proof.Machine

/-! PROOFS. Every command goes on. Each meaning is an event, a packet taken, an access or a change beside the queue; what holds of these
shapes (nothing that every state keeps is lost, and Off changes nothing) holds of every command. -/

namespace Sys2Proof.Machine

/-- A meaning goes on, keeps what every state is to keep, and does nothing in Off (R421). -/
def Goes (s : State) (o : Host.Outcome State Fault Refusal) : Prop := ∃ t, o = .next t ∧ Keeps s t ∧ (s.pwr.off = true → t = s)

section
variable {s : State} {f : State → State} {d : Delivered} {op : Byte} {kind : Nat} {g : State → Delivered → State}

theorem live_off (h : s.pwr.off = true) : live s = false := by simp [live, h]

theorem event_off (h : s.pwr.off = true) : event s f = s := event_dead (live_off h)

theorem goes_event (hf : ∀ t, Keeps s t → Keeps s (f t)) : Goes s (.next (event s f)) :=
  ⟨_, rfl, event_keeps hf (Keeps.refl s), event_off⟩

theorem goes_takenBy (hg : ∀ t, Keeps s t → Keeps s (g t d)) : Goes s (.next (takenBy s d g)) :=
  ⟨_, rfl, takenBy_keeps hg (Keeps.refl s), event_off⟩

theorem goes_taken (hg : ∀ t, Keeps s t → Keeps s (g t d)) : Goes s (.next (taken s d op g)) := by
  refine ⟨_, rfl, taken_keeps hg (Keeps.refl s), fun h => ?_⟩
  unfold taken
  split
  · exact event_off h
  · rfl

theorem goes_countTaken (hg : ∀ t, Keeps s t → Keeps s (g t d)) : Goes s (.next (countTaken s d kind g)) := by
  refine ⟨_, rfl, countTaken_keeps hg (Keeps.refl s), fun h => ?_⟩
  unfold countTaken
  split
  · exact event_off h
  · rfl

theorem goes_access (hf : ∀ t, Keeps s t → Keeps s (f t)) : Goes s (.next (access s f)) :=
  ⟨_, rfl, access_keeps hf (Keeps.refl s), access_off⟩

/-- A change beside the queue that does nothing in Off. -/
theorem goes_aside (hf : ∀ t, Keeps s t → Keeps s (f t)) (ho : s.pwr.off = true → f s = s) : Goes s (.next (aside s f)) :=
  ⟨_, rfl, aside_keeps hf (Keeps.refl s), fun h => by rw [aside, ho h]⟩

/-- The form of a change beside the queue that looks at Off itself. -/
theorem goes_aside_on (hf : ∀ t, Keeps s t → Keeps s (f t)) : Goes s (.next (aside s fun t => if t.pwr.off then t else f t)) := by
  refine goes_aside (fun t h => ?_) fun h => if_pos h
  split
  · exact h
  · exact hf t h

/-- Of the accepted inputs only a rise of PWRGOOD acts in Off. -/
theorem inputAccept_off {i : Sys2Proof.Input} {active : Bool} (h : s.pwr.off = true) (hi : ¬ (i = .pwrgood ∧ active = true)) :
    inputAccept s i active = s := by
  unfold inputAccept
  rw [if_pos h]
  cases i with
  | pwrgood => exact if_neg fun ha => hi ⟨rfl, ha⟩
  | perst0 | perst1 | capLow | twinPrsnt => rfl

/-- The wake events of Still and Vigil, and no others, act. -/
theorem goes_wake {e : WakeEvent} (hf : ∀ t, Keeps s t → Keeps s (f t)) : Goes s (.next (event s fun t => if deepWake e then f t else t)) := by
  refine goes_event fun t h => ?_
  split
  · exact hf t h
  · exact h

theorem goes_host {j : Nat} (hf : ∀ t, Keeps s t → Keeps s (f t)) : Goes s (.next (event s fun t => hostDoes t j f)) :=
  goes_event fun _ h => hostDoes_keeps hf h

end

/-- Every command but power coming on goes on, keeps what every state is to keep, and does nothing in Off. -/
theorem exec_goes (s : State) (c : Instr) (hp : c ≠ .powerOnReset) (hi : c ≠ .inputAccept .pwrgood true) : Goes s (exec c s) := by
  cases c
  case registerWrite | laneAlignManual | slip | eyeCtrlWrite | droopResetMin | retrain | halSemAdd | ctxStart | ctxStop | halCtxListWrite
      | handoff | fltQueuePop | fltRingTailWrite | fltOvfClear | windowRequest | locketRequest | keyGrant | stage | stageFw | commit |
      confirm | returnCmd | readSummary | clearSummary | pwrCmdRun | enterStill | enterVigil | moduleReset | pwrCapWrite | hstApBaseWrite |
      hstApCtrlWrite | hstFnFence | hostNoteTailWrite | i3cWrite4 | i3cWrite8 | cntSnap | clear | clearAll | cntChainWrite | slotEventWrite
      =>
    exact goes_access fun _ h => pathWrite_keeps h
  case i3cRead4 | i3cRead8 | localCounterRead | liveRead | registerRead =>
    exact goes_access fun _ h => pathRead_keeps h
  case array | vector | dmaLoad | dmaStore | dmaCopy | dmaTakeS | dmaTakeX | dmaGive | dmaCupOut | dmaCupIn | dmaAtomic | signal | fence |
      loop | tlbInv | endCmd =>
    exact goes_event fun _ h => dispatchRow_keeps h
  case packetArrive => exact goes_event fun _ h => packetArrive_keeps h
  case congestionNote => exact goes_event fun _ h => congestionNote_keeps h
  case transmitSlot => exact goes_event fun _ h => transmitSlot_keeps h
  case c0TokenGrant => exact goes_event fun _ h => takeC0Token_keeps h
  case flitReceive => exact goes_event fun _ h => receiveFlit_keeps h
  case ackTimeoutReplay => exact goes_event fun _ h => ackTimeout_keeps h
  case codewordDecode => exact goes_event fun _ h => decodePair_keeps h
  case fecLock => exact goes_event fun _ h => fecLocked_keeps h
  case blockLock => exact goes_event fun _ h => blockLocked_keeps h
  case superframeLock => exact goes_event fun _ h => sfLocked_keeps h
  case lossOfLock => exact goes_event fun _ h => losesLock_keeps h
  case quarReceive => exact goes_event fun _ h => quarReceived_keeps h
  case quarantineEnd => exact goes_event fun _ h => quarantineEnds_keeps h
  case quarantineLevelReset => exact goes_event fun _ h => levelReset_keeps h
  case laneDetect => exact goes_event fun _ h => laneDetected_keeps h
  case capBlockAccept => exact goes_event fun _ h => capSets_keeps h
  case equaliseDone => exact goes_event fun _ h => equalised_keeps h
  case verifyDone => exact goes_event fun _ h => verified_keeps h
  case trainingPhaseTimeout => exact goes_event fun _ h => phaseTimeout_keeps h
  case stepAdvance => exact goes_event fun _ h => stepAdvances_keeps h
  case laneRestart => exact goes_event fun _ h => laneRestarts_keeps h
  case portEnterService => exact goes_event fun _ h => checked_keeps h
  case checkingRetry => exact goes_event fun _ h => checkingAgain_keeps h
  case manualAlignTimeout => exact goes_event fun _ h => manualTimeout_keeps h
  case idleEntry => exact goes_event fun _ h => idleEnters_keeps h
  case eiEnterReceive => exact goes_event fun _ h => idleHeard_keeps h
  case idleExit => exact goes_event fun _ h => idleExits_keeps h
  case trainingBurstReceive => exact goes_event fun _ h => burstHeard_keeps h
  case idleExitFail => exact goes_event fun _ h => idleExitFails_keeps h
  case widthReceive => exact goes_event fun _ h => widthHeard_keeps h
  case widthApply => exact goes_event fun _ h => widthApplies_keeps h
  case twinPortReturn => exact goes_event fun _ h => twinReturns_keeps h
  case eyeSearchDone => exact goes_event fun _ h => eyeSearched_keeps h
  case eyeManualDone => exact goes_event fun _ h => eyeCounted_keeps h
  case opticalRefresh => exact goes_event fun _ h => opticalRead_keeps h
  case e2eRetryTimeout => exact goes_event fun _ h => retryTimeout_keeps h
  case pairClose => exact goes_event fun _ h => closePair_keeps h
  case c0RequestTimeout => exact goes_event fun _ h => c0Timeout_keeps h
  case deferredResend => exact goes_event fun _ h => resendDeferred_keeps h
  case flaggedWriteRelease => exact goes_event fun _ h => releaseFlagged_keeps h
  case fenceComplete => exact goes_event fun _ h => fenceEnds_keeps h
  case read | readVol | write | writeMask | atomic | takeShared | takeExcl | give | evictNotice =>
    exact goes_taken fun _ h => atHome_keeps h
  case regRead => exact goes_taken fun _ h => windowRead_keeps h
  case regWrite => exact goes_taken fun _ h => windowWrite_keeps h
  case snoopInv | fwdShared | fwdExcl => exact goes_taken fun _ h => cacheTakes_keeps h
  case comp | data => exact goes_taken fun _ h => responseAt_keeps h
  case compAck => exact goes_taken fun _ h => homeCompAck_keeps h
  case snoopResp | snoopData => exact goes_taken fun _ h => snoopAnswer_keeps h
  case collPush => exact goes_taken fun _ h => pushIn_keeps h
  case collPartial => exact goes_taken fun _ h => partialIn_keeps h
  case collResult => exact goes_taken fun _ h => resultIn_keeps h
  case collA2a => exact goes_taken fun _ h => a2aIn_keeps h
  case revoke => exact goes_taken fun _ h => revokeIn_keeps h
  case streamWrite => exact goes_taken fun _ h => homeStream_keeps h
  case telemetry => exact goes_taken fun _ h => telemetryIn_keeps h
  case vote => exact goes_countTaken fun _ h => voteIn_keeps h
  case committed => exact goes_countTaken fun _ h => committedIn_keeps h
  case arrived => exact goes_countTaken fun _ h => arrivedIn_keeps h
  case release => exact goes_countTaken fun _ h => releaseIn_keeps h
  case reissue => exact goes_countTaken fun _ h => reissueIn_keeps h
  case regather => exact goes_countTaken fun _ h => regatherIn_keeps h
  case a2aEnd => exact goes_countTaken fun _ h => a2aEndIn_keeps h
  case a2aCount => exact goes_countTaken fun _ h => a2aCountIn_keeps h
  case hotRunServe => exact goes_event fun _ h => serveHot_keeps h
  case tokenLapse => exact goes_event fun _ h => lapseToken_keeps h
  case snoopResendTimeout => exact goes_event fun _ h => resendSnoop_keeps h
  case grantCheckTimeout => exact goes_event fun _ h => checkGrant_keeps h
  case twinMirrorReceive => exact goes_event fun _ h => applyMirror_keeps h
  case twinMirrorAck => exact goes_event fun _ h => ackMirror_keeps h
  case patrolScrubRead => exact goes_event fun _ h => scrubRead_keeps h
  case memTrainingDone => exact goes_event fun _ h => trainingDone_keeps h
  case memDeviceLost => exact goes_event fun _ h => memLost_keeps h
  case poisonMarkingDone => exact goes_event fun _ h => markingDone_keeps h
  case evacRestoreDone => exact goes_event fun _ h => evacRestored_keeps h
  case dieLost => exact goes_event fun _ h => dieLost_keeps h
  case routeAddRequest => exact goes_event fun _ h => routeAdd_keeps h
  case bufAudit => exact goes_event fun _ h => bufAudit_keeps h
  case mirrorRecordDelivered => exact goes_event fun _ h => mirrorDelivered_keeps h
  case drainQuiesced => exact goes_event fun _ h => drainQuiesced_keeps h
  case drainSettleEnd => exact goes_event fun _ h => drainSettled_keeps h
  case holdQueuesEmpty => exact goes_event fun _ h => holdEmpty_keeps h
  case drainAbandon => exact goes_event fun _ h => drainAbandon_keeps h
  case semaphoreWaitSatisfied => exact goes_event fun _ h => waitSatisfied_keeps h
  case releasePointReached => exact goes_event fun _ h => startAll_keeps h
  case commandComplete => exact goes_event fun _ h => completeCmd_keeps h
  case arrayPassEnd => exact goes_event fun _ h => passEnds_keeps h
  case spillComplete => exact goes_event fun _ h => spillEnds_keeps h
  case restoreComplete => exact goes_event fun _ h => restoreEnds_keeps h
  case epilogueComplete => exact goes_event fun _ h => epilogueEnds_keeps h
  case sliceFrameEnd => exact goes_event fun _ h => frameEnds_keeps h
  case translationWalkDone => exact goes_event fun _ h => walkDone_keeps h
  case contextConfigApply => exact goes_event fun _ h => ctxCfgApply_keeps h
  case groupChangeApply => exact goes_event fun _ h => changeApply_keeps h
  case groupChangeAbandon => exact goes_event fun _ h => changeAbandon_keeps h
  case pieceCombineDone => exact goes_event fun _ h => combineDone_keeps h
  case shardRelease => exact goes_event fun _ h => shardReleased_keeps h
  case reissueTimeout => exact goes_event fun _ h => reissueDue_keeps h
  case voteTimeout => exact goes_event fun _ h => voteDue_keeps h
  case memberLost => exact goes_event fun _ h => memberLost_keeps h
  case twinConfirmTimeout => exact goes_event fun _ h => confirmTimeout_keeps h
  case takeoverDirectoryLoaded => exact goes_event fun _ h => takeoverLoaded_keeps h
  case aliasBroadcast => exact goes_event fun _ h => aliasDue_keeps h
  case handoffComplete => exact goes_event fun _ h => handoffOver_keeps h
  case twinHandoffReceive => exact goes_event fun _ h => handoffReceived_keeps h
  case resyncDone => exact goes_event fun _ h => resyncDone_keeps h
  case windowEvaluate => exact goes_event fun _ h => windowEvaluate_keeps h
  case faultQueueDrain => exact goes_event fun _ h => queueDrain_keeps h
  case ringWriteRetry => exact goes_event fun _ h => ringRetry_keeps h
  case faultSummaryWrite => exact goes_event fun _ h => summaryWrite_keeps h
  case claspRequestValidated => exact goes_event fun _ h => validateHead_keeps h
  case locketSigned => exact goes_event fun _ h => locketSigned_keeps h
  case locketRateTimeout => exact goes_event fun _ h => locketLate_keeps h
  case keyDelivery => exact goes_event fun _ h => deliverKey_keeps h
  case debugToken => exact goes_event fun _ h => debugToken_keeps h
  case twinLocketReceive => exact goes_event fun _ h => takeTwinLocket_keeps h
  case twinKeyReceive => exact goes_event fun _ h => takeTwinKeys_keeps h
  case partitionKeyTimeout => exact goes_event fun _ h => keyWaitEnds_keeps h
  case claspBootStep => exact goes_event fun _ h => bootStep_keeps h
  case stagingComplete => exact goes_event fun _ h => stagingEnds_keeps h
  case commitApply => exact goes_event fun _ h => commitTakes_keeps h
  case probationPass => exact goes_event fun _ h => probationPass_keeps h
  case probationPortTimeout => exact goes_event fun _ h => probationPort_keeps h
  case wake => exact goes_event fun _ h => wakeEvent_keeps h
  case powerStateEntered => exact goes_event fun _ h => stateEntered_keeps h
  case poiseEntry => exact goes_event fun _ h => poiseEntry_keeps h
  case hushEntry => exact goes_event fun _ h => hushEntry_keeps h
  case internalDomainReset => exact goes_event fun _ h => domainReset_keeps h
  case crossingResume => exact goes_event fun _ h => crossingResume_keeps h
  case capControl => exact goes_event fun _ h => capControl_keeps h
  case thermalTrip => exact goes_event fun _ h => thermalTrip_keeps h
  case phaseEnd => exact goes_event fun _ h => phaseEnd_keeps h
  case startupLate => exact goes_event fun _ h => startupLate_keeps h
  case hostDmaTimeout => exact goes_event fun _ h => dmaTimeout_keeps h
  case msixHoldoffEnd => exact goes_event fun _ h => msixHoldoff_keeps h
  case hostPerst => exact goes_event fun _ h => hostPerst_keeps h
  case hostLinkDown => exact goes_event fun _ h => hostLinkDown_keeps h
  case snapshotCapture => exact goes_event fun _ h => snapDone_keeps h
  case stageFwDone => exact goes_event fun _ h => stageFwEnds_keeps h
  case summaryOpDone => exact goes_event fun _ h => summaryEnds_keeps h
  case supplyDroop => exact goes_event fun _ h => droopSeen_keeps h
  case resyncSignalReceive => exact goes_event fun _ h => setTwin_keeps h
  case twinDigestReceive => exact goes_event fun _ h => takeDigest_keeps h
  case stillExit => exact goes_wake fun _ h => stillExit_keeps h
  case vigilExit => exact goes_wake fun _ h => vigilExit_keeps h
  case bar2Write | bar2Read => exact goes_host fun _ h => bar2_keeps h
  case bar2Fetchadd | bar2Swap | bar2Cas => exact goes_host fun _ h => bar2Atomic_keeps (fun _ k => hostTlpErr_keeps k) h
  case hostDmaComplete => exact goes_host fun _ h => dmaComplete_keeps h
  case vfEnable => exact goes_host fun _ h => vfEnable_keeps h
  case hostTlpErr => exact goes_host fun _ h => hostTlpErr_keeps h
  case hostLinkUp => exact goes_event fun _ h => wakeRun_keeps (hostLinkUp_keeps h)
  case capLowAssert => exact goes_event fun _ h => throttleOn_keeps (inputAccept_keeps h)
  case capLowRelease => exact goes_event fun _ h => throttleOff_keeps (inputAccept_keeps h)
  case hostInboundRequest => exact goes_takenBy fun _ h => hostTakes_keeps h
  case inputStuck => exact goes_aside_on fun _ h => inputStuck_keeps h
  case dampingEnd => exact goes_aside_on fun _ h => dampingEnd_keeps h
  case thermalRestart => exact goes_aside_on fun _ h => thermalRestart_keeps h
  case undervoltageLockout | overvoltageLockout => exact goes_aside_on fun _ h => switchOff_keeps h
  case i3cAddressAssign =>
    refine ⟨_, rfl, ?_, fun h => if_pos h⟩
    split
    · exact Keeps.refl s
    · exact mk_keeps (Keeps.refl s) rfl rfl rfl
  case inputAccept i active =>
    exact goes_aside (fun _ h => inputAccept_keeps h) fun h => inputAccept_off h fun e => hi (by rw [e.1, e.2])
  case powerOnReset => exact absurd rfl hp
  -- RECALL is left, whose constructor has the name of a command of Lean and cannot be named as a case.
  exact goes_taken fun _ h => cacheTakes_keeps h

/-- Every command goes on, and keeps what every state is to keep. -/
theorem exec_keeps (s : State) (c : Instr) : ∃ t, exec c s = .next t ∧ Keeps s t := by
  by_cases hp : c = .powerOnReset
  · subst hp
    exact ⟨_, rfl, aside_keeps (fun _ h => powerOn_keeps h) (Keeps.refl s)⟩
  by_cases hi : c = .inputAccept .pwrgood true
  · subst hi
    exact ⟨_, rfl, aside_keeps (fun _ h => inputAccept_keeps h) (Keeps.refl s)⟩
  obtain ⟨t, e, k, -⟩ := exec_goes s c hp hi
  exact ⟨t, e, k⟩

/-- Settles O60: a command behind the front one's meaning keeps the rest by `exec_keeps`, and a nanosecond that passes by `tick_keeps`. -/
theorem everyStepGoesOnAndKeepsForm : Obligations.EveryStepGoesOnAndKeepsForm := by
  unfold Obligations.EveryStepGoesOnAndKeepsForm
  intro s hs
  cases hq : s.pending with
  | nil =>
    refine ⟨tick s, by unfold step; rw [hq], ?_⟩
    by_cases ho : s.pwr.off = true
    · have ht : tick s = s := if_pos ho
      rw [ht, hq]
      exact ⟨hs, PartInfo.Same.refl _, rfl, List.prefix_refl _, Nat.le_refl _⟩
    · have k := tick_keeps (Bool.eq_false_of_not_eq_true ho)
      exact ⟨k.canon { hs with }, k.part, k.pending.trans hq, k.out, k.free⟩
  | cons c rest =>
    obtain ⟨t, e, k⟩ := exec_keeps { s with pending := rest } c
    exact ⟨t, by unfold step; rw [hq]; exact e, k.canon { hs with }, k.part, k.pending, k.out, k.free⟩

/-- Settles O58: of the shapes of a meaning none does anything in Off but the two by which power comes on. -/
theorem nothingHappensInOff : Obligations.NothingHappensInOff := by
  unfold Obligations.NothingHappensInOff
  intro s c ho hp hi
  obtain ⟨t, e, -, hoff⟩ := exec_goes s c hp hi
  rw [e, hoff ho]

end Sys2Proof.Machine

/-! PROOFS. Lanes: what decoding and the three locks do (R68, R70, R82), and a failed flit (R100). -/

namespace Sys2Proof.Machine

section
variable {s : State} {n : Nat}

theorem fecLocked_lock (h : (lane s n).phase = .lock) : fecLocked s n = setBitOf s (LNK_LANE_STATUS n) 5 true := by
  simp [fecLocked, h, setLock]

/-- A lane in service that comes out of electrical idle. -/
theorem fecLocked_inPort (h : (lane s n).phase = .inPort) (hd : (lane s n).idleDeadline ≠ 0) :
    fecLocked s n = setBitOf (setLane s n { lane s n with idleDeadline := 0 }) (LNK_LANE_STATUS n) 5 true := by
  simp [fecLocked, h, hd, setLock]

theorem blockLocked_lock (h : (lane s n).phase = .lock) (hb : bitOf s (LNK_LANE_STATUS n) 5 = true) :
    blockLocked s n = setBitOf s (LNK_LANE_STATUS n) 6 true := by
  simp [blockLocked, h, hb, setLock]

theorem sfLocked_lock (h : (lane s n).phase = .lock) (hb : bitOf s (LNK_LANE_STATUS n) 6 = true) :
    sfLocked s n = enterPhase (setBitOf s (LNK_LANE_STATUS n) 7 true) n .exchange 1000000 := by
  simp [sfLocked, h, hb, setLock]

theorem decodePair_decoding {a b : Nat} {burst : Bool} (h : decoding s n = true) : decodePair s n a b burst =
    codeword (codeword s n a (burst && decide (a + b ≤ 14) || decide (a ≤ 7))) n b (burst && decide (a + b ≤ 14) || decide (b ≤ 7)) := by
  simp [decodePair, h]

end

/-- Settles O1: each lock's command sets its bit, and the third enters Exchange. -/
theorem locksCompleteInOrder : Obligations.LocksCompleteInOrder := by
  unfold Obligations.LocksCompleteInOrder
  intro s n hl
  exact ⟨fun h => event_next hl (fecLocked_keeps (Keeps.refl s)) (fecLocked_lock h),
    fun h hd => event_next hl (fecLocked_keeps (Keeps.refl s)) (fecLocked_inPort h hd),
    fun h hb => event_next hl (blockLocked_keeps (Keeps.refl s)) (blockLocked_lock h hb),
    fun h hb => event_next hl (sfLocked_keeps (Keeps.refl s)) (sfLocked_lock h hb)⟩

section
variable {s : State} {p : Nat}

theorem receiveFlit_flagged {f : Flit} (h : inService s p = true) : receiveFlit s p f true = failFlit s p := by
  simp [receiveFlit, h]

/-- A flit that fails its CRC is treated as a flagged one (R68). -/
theorem receiveFlit_badCrc {f : Flit} (h : inService s p = true) (hc : f.crc ≠ f.goodCrc) : receiveFlit s p f false = failFlit s p := by
  simp [receiveFlit, h, hc]

theorem ev_arrivals (s : State) (n k : Nat) : (ev s n k).arrivals = s.arrivals := by
  obtain ⟨r, c, e⟩ := ev_shape s n k
  rw [e]

theorem ev_links (s : State) (n k : Nat) : (ev s n k).links = s.links := by
  obtain ⟨r, c, e⟩ := ev_shape s n k
  rw [e]

/-- What a port's link holds once it is stored. -/
theorem link_setLink (h : s.Canon) (l : PortLink) : link (setLink s p l) p = l := cget_cset_same _ _ _ h.links

/-- A failed flit is discarded. -/
theorem failFlit_arrivals : (failFlit s p).arrivals = s.arrivals := by
  unfold failFlit lnkEv
  dsimp only
  split <;> simp [ev_arrivals]

/-- A failed flit leaves the receiver asking for a replay. -/
theorem failFlit_rxFailed (h : s.Canon) : (link (failFlit s p) p).rxFailed = true := by
  have hev : link (ev (lnkEv s 2 1) (1080 + 8 * dieOfPort s p + 5) 1) p = link s p := by simp [link, lnkEv, ev_links]
  unfold failFlit
  dsimp only
  split
  case isTrue hf => rw [hev, hf]
  case isFalse =>
    rw [link_setLink ((lnkEv_keeps (ev_keeps (lnkEv_keeps (Keeps.refl s)))).canon h)]

end

/-- Settles O2: the two codewords of a pair one after the other, and the flits of a flagged one as failed ones. -/
theorem codewordsCorrectedOrFlagged : Obligations.CodewordsCorrectedOrFlagged := by
  unfold Obligations.CodewordsCorrectedOrFlagged
  refine ⟨fun s n a b burst hl hd => ?_, fun s p f hl hp => ⟨?_, failFlit_arrivals, fun hc => ?_, failFlit_rxFailed⟩⟩
  · refine event_next hl (decodePair_keeps (Keeps.refl s)) ?_
    rw [decodePair_decoding hd, Bool.or_comm _ (decide (a ≤ 7)), Bool.or_comm _ (decide (b ≤ 7))]
    rfl
  · exact event_next hl (receiveFlit_keeps (Keeps.refl s)) (receiveFlit_flagged hp)
  · have hx : ∀ flagged, receiveFlit s p f flagged = failFlit s p → exec (.flitReceive p f flagged) s = .next (progress (failFlit s p)) :=
      fun flagged => event_next hl (receiveFlit_keeps (Keeps.refl s))
    rw [hx false (receiveFlit_badCrc hp hc), hx true (receiveFlit_flagged hp)]

end Sys2Proof.Machine

/-! PROOFS. Losses of lock and quarantine (R71, R84, R86, R87): what the events of a lane's quarantine do, and what the lane is left in. -/

namespace Sys2Proof.Machine

section
variable {s : State} {n : Nat}

theorem losesLock_heard (h : bitOf s (LNK_LANE_STATUS n) 5 = true ∨ (lane s n).phase = .inPort) (he : (lane s n).eiRx = false) :
    losesLock s n = lossOfLock s n := by
  rcases h with h | h <;> simp [losesLock, decoding, h, he]

theorem quarReceived_heard {secs : Nat} (h : laneState s n = 5 ∨ bitOf s (LNK_LANE_STATUS n) 5 = true) :
    quarReceived s n secs =
      let t := setLaneState (clearLocks (enterPhase s n .off 0) n) n 5
      laneLeaves (setLane t n { lane t n with
        quarUntil := max (lane s n).quarUntil (t.now + secs * 1000000000), eiRx := false, idleDeadline := 0 }) n := by
  rcases h with h | h <;> simp [quarReceived, decoding, h]

theorem quarantineEnds_due (h : laneState s n = 5) (hd : (lane s n).quarUntil ≤ s.now) :
    quarantineEnds s n = if (trainPort s n).isSome then startDetect s n else setLaneState s n 0 := by
  simp [quarantineEnds, h, Nat.not_lt.mpr hd]

theorem levelReset_due (h : (lane s n).phase = .inPort) (hc : (lane s n).cleanSince + 600000000000 ≤ s.now) :
    levelReset s n = setFld s (LNK_LANE_QUAR n) 13 10 0 := by
  simp [levelReset, h, hc]

/-- What a lane holds once it is stored. -/
theorem lane_setLane (h : s.Canon) (l : Lane) : lane (setLane s n l) n = l := cget_cset_same _ _ _ h.lanes

theorem lane_setFld (off hi lo v : Nat) : lane (setFld s off hi lo v) n = lane s n := by rw [lane, setFld_lanes, lane]

theorem lane_ev (m k : Nat) : lane (ev s m k) n = lane s n := by
  obtain ⟨r, c, e⟩ := ev_shape s m k
  rw [e]
  rfl

theorem lane_fault (code sev source : Nat) (e : Epc) (d : BitVec 128) : lane (fault s code sev source e d) n = lane s n := by
  obtain ⟨r, q, k, m, c, o, h⟩ := fault_shape s code sev source e d
  rw [h]
  rfl

/-- A field is read from the registers alone. -/
theorem fldOf_of_regs {t : State} (h : s.regs = t.regs) (off hi lo : Nat) : fldOf s off hi lo = fldOf t off hi lo := by
  unfold fldOf rd
  rw [h]

theorem fldOf_ev_below {off : Nat} (h : off < 0x2C00000) (m k hi lo : Nat) : fldOf (ev s m k) off hi lo = fldOf s off hi lo := by
  unfold fldOf
  rw [rd_ev_below h]

/-- The period of each level, in seconds (R86). -/
theorem quarSeconds_eq {level : Nat} (h : level ≤ 6) : quarSeconds level = [10, 20, 40, 80, 160, 320, 600].getD level 0 := by
  interval_cases level <;> rfl

end

/-! What a quarantine leaves (R86). -/

section
variable {s : State} {n : LaneNo}

/-- The lane's status is the one it goes silent with. -/
theorem fldOf_quarantine_status (hi lo : Nat) : fldOf (quarantine s n) (LNK_LANE_STATUS n) hi lo =
    fldOf (setLaneState (clearLocks (enterPhase s n .off 0) n) n 5) (LNK_LANE_STATUS n) hi lo := by
  have hq : LNK_LANE_QUAR n ≠ LNK_LANE_STATUS n := by simp only [LNK_LANE_QUAR, LNK_LANE_STATUS]; omega
  have hs : LNK_LANE_STATUS n < 0x2000000 := by simp only [LNK_LANE_STATUS]; omega
  unfold quarantine lnkEv
  dsimp only
  rw [fldOf_ev_below (by omega), fldOf_fault_below hs, fldOf_setFld_other _ hq]
  exact fldOf_of_regs (by simp [setLaneState, clearLocks, enterPhase, sendBlock, rd]) _ _ _

theorem laneState_quarantine (h : s.Canon) : laneState (quarantine s n) n = 5 := by
  have k := (clearLocks_keeps (enterPhase_keeps (Keeps.refl s) (n := n) (ph := .off) (timeout := 0)) (n := n)).canon h
  exact (fldOf_quarantine_status 2 0).trans (fldOf_setFld_same k.regs _ (by decide) (by decide) 5)

theorem locks_quarantine (h : s.Canon) : fldOf (quarantine s n) (LNK_LANE_STATUS n) 7 5 = 0 := by
  have k := (enterPhase_keeps (Keeps.refl s) (n := n) (ph := .off) (timeout := 0)).canon h
  have kc := (clearLocks_keeps (enterPhase_keeps (Keeps.refl s) (n := n) (ph := .off) (timeout := 0)) (n := n)).canon h
  rw [fldOf_quarantine_status]
  unfold setLaneState
  rw [fldOf_setFld_apart kc.regs _ (by decide) (by decide) (.inr (by decide))]
  exact fldOf_setFld_same k.regs _ (by decide) (by decide) 0

theorem level_quarantine (h : s.Canon) :
    fldOf (quarantine s n) (LNK_LANE_QUAR n) 13 10 = min 6 (fldOf s (LNK_LANE_QUAR n) 13 10 + 1) := by
  have hq : LNK_LANE_QUAR n < 0x2000000 := by simp only [LNK_LANE_QUAR]; omega
  unfold quarantine lnkEv
  dsimp only
  rw [fldOf_ev_below (by omega), fldOf_fault_below hq, fldOf_setFld_same ?_ _ (by decide) (by decide)]
  · omega
  · exact (setLane_keeps (setLaneState_keeps (clearLocks_keeps (enterPhase_keeps (emit_keeps (sendBlock_keeps (Keeps.refl s))))))).canon h |>.regs

/-- The lane's own record: off, and kept out for the period. -/
theorem lane_quarantine (h : s.Canon) : (lane (quarantine s n) n).phase = .off ∧ (lane (quarantine s n) n).quarUntil =
    max (lane s n).quarUntil (s.now + quarSeconds (fldOf s (LNK_LANE_QUAR n) 13 10) * 1000000000) := by
  unfold quarantine lnkEv
  extract_lets level secs t u _ v _
  have hu : lane u n = { lane s n with phase := .off, deadline := s.now + 0 } :=
    lane_setLane ((emit_keeps (sendBlock_keeps (Keeps.refl s))).canon h) _
  have hv : lane v n = { lane u n with quarUntil := max (lane u n).quarUntil (u.now + secs * 1000000000), eiRx := false, idleDeadline := 0 } :=
    lane_setLane ((setLaneState_keeps (clearLocks_keeps (enterPhase_keeps (emit_keeps (sendBlock_keeps (Keeps.refl s)))))).canon h) _
  rw [lane_ev, lane_fault, lane_setFld, hv, hu]
  exact ⟨rfl, rfl⟩

/-- QUAR goes out with the period, and the lane is silent. -/
theorem out_quarantine : s.out ++ [.block n 0x55 (BitVec.ofNat 56 (quarSeconds (fldOf s (LNK_LANE_QUAR n) 13 10))), .silent n]
    <+: (quarantine s n).out := by
  unfold quarantine
  extract_lets level secs t
  have ht : t.out = s.out ++ [.block n 0x55 (BitVec.ofNat 56 secs), .silent n] := by simp [t, sendBlock]
  rw [← ht]
  exact (lnkEv_keeps (fault_keeps (setFld_keeps (setLane_keeps (setLaneState_keeps (clearLocks_keeps (enterPhase_keeps (Keeps.refl t)))))))).out

end

/-- Settles O4: the events by their conditions, and what `quarantine` leaves of the lane, its level and the tape. -/
theorem lossesOfLockQuarantine : Obligations.LossesOfLockQuarantine := by
  unfold Obligations.LossesOfLockQuarantine
  intro s n
  refine ⟨fun hl => ⟨fun h he => ?_, fun h secs => ?_, fun h hd => ?_, fun h hc => ?_⟩, fun h hv => ?_⟩
  · exact event_next hl (losesLock_keeps (Keeps.refl s)) (losesLock_heard h he)
  · exact event_next hl (quarReceived_keeps (Keeps.refl s)) (quarReceived_heard h)
  · exact event_next hl (quarantineEnds_keeps (Keeps.refl s)) (quarantineEnds_due h hd)
  · exact event_next hl (levelReset_keeps (Keeps.refl s)) (levelReset_due h hc)
  · obtain ⟨hp, hu⟩ := lane_quarantine (n := n) h
    have hs := quarSeconds_eq hv
    dsimp only
    rw [← hs]
    exact ⟨laneState_quarantine h, locks_quarantine h, hp, hu, level_quarantine h, out_quarantine⟩

end Sys2Proof.Machine

/-! PROOFS. Training (R73-R80) and entry into service (R79, R85, R88): what each event does where its condition holds. -/

namespace Sys2Proof.Machine

section
variable {s : State} {n : Nat}

theorem laneDetected_detect (h : (lane s n).phase = .detect) :
    laneDetected s n = startStep (setLane s n { lane s n with retried := false }) n 0 := by
  simp [laneDetected, h]

/-- The phases in which a partner's capability blocks are read (R77). -/
theorem capSets_reading {a b : BitVec 384} (h : (lane s n).phase ∈ [LanePhase.exchange, .equalise, .verify, .readyWait]) :
    capSets s n a b = if capAccepted a b then acceptCap s n b else s := by
  simp only [List.mem_cons, List.not_mem_nil, or_false] at h
  rcases h with h | h | h | h <;> simp [capSets, h]

theorem equalised_equalise (h : (lane s n).phase = .equalise) : equalised s n = stepCompleted s n := by simp [equalised, h]

theorem verified_passed (h : (lane s n).phase = .verify) : verified s n true = stepCompleted s n := by simp [verified, h]

theorem verified_failed (h : (lane s n).phase = .verify) :
    verified s n false = enterPhase s n .equalise (equaliseTime (laneStep s n)) := by
  simp [verified, h]

theorem stepAdvances_ready (h : (lane s n).phase = .readyWait) (ht : (lane s n).readyTx = true) (hr : (lane s n).readyRx = true) :
    stepAdvances s n = startStep (setLane s n { lane s n with retried := false }) n (laneStep s n + 1) := by
  simp [stepAdvances, h, ht, hr]

theorem laneRestarts_due (h : (lane s n).phase = .failed) (hd : (lane s n).restartAt ≤ s.now) (hp : (trainPort s n).isSome = true) :
    laneRestarts s n = startDetect s n := by
  simp [laneRestarts, h, hd, hp]

theorem phaseTimeout_timed (h : (lane s n).phase ∈ [LanePhase.detect, .exchange, .equalise, .verify]) (hd : (lane s n).deadline ≤ s.now) :
    phaseTimeout s n = phaseTimesOut s n := by
  simp only [List.mem_cons, List.not_mem_nil, or_false] at h
  rcases h with h | h | h | h <;> simp [phaseTimeout, h, hd]

/-- The Lock phase's deadline runs while MANUAL is 0 (R80). -/
theorem phaseTimeout_lock (h : (lane s n).phase = .lock) (hd : (lane s n).deadline ≤ s.now) (hm : bitOf s (LNK_LANE_ALIGN n) 0 = false) :
    phaseTimeout s n = phaseTimesOut s n := by
  simp [phaseTimeout, h, hd, hm]

/-- Under manual alignment it does not. -/
theorem phaseTimeout_manual (h : (lane s n).phase = .lock) (hm : bitOf s (LNK_LANE_ALIGN n) 0 = true) : phaseTimeout s n = s := by
  simp [phaseTimeout, h, hm]

theorem manualTimeout_due (h : (lane s n).phase = .lock) (hm : bitOf s (LNK_LANE_ALIGN n) 0 = true)
    (hd : manualFrom s n + 100000000 ≤ s.now) : manualTimeout s n = phaseTimesOut s n := by
  simp [manualTimeout, h, hm, hd]

/-- A first timeout runs the phase once more from the start of its step. -/
theorem phaseTimesOut_first (h : (lane s n).retried = false) : phaseTimesOut s n =
    if (lane s n).phase = .detect then enterPhase (setLane s n { lane s n with retried := true }) n .detect 5000000
    else startStep (setLane s n { lane s n with retried := true }) n (laneStep s n) := by
  simp [phaseTimesOut, h]

/-- A second one ends the lane's training. -/
theorem phaseTimesOut_second (h : (lane s n).retried = true) : phaseTimesOut s n = trainingEnds s n := by simp [phaseTimesOut, h]

end

/-- Settles O3: every event by its phase; the two timeouts come to `phaseTimesOut`. -/
theorem trainingAdvancesOrTimesOut : Obligations.TrainingAdvancesOrTimesOut := by
  unfold Obligations.TrainingAdvancesOrTimesOut
  refine ⟨fun s n hl => ⟨fun h => ?_, fun a b h => ?_, fun h => ?_, fun h => ?_, fun h => ?_, fun h ht hr => ?_, fun h hd hp => ?_⟩,
    fun s n hl => ?_⟩
  · exact event_next hl (laneDetected_keeps (Keeps.refl s)) (laneDetected_detect h)
  · exact event_next hl (capSets_keeps (Keeps.refl s)) (capSets_reading h)
  · exact event_next hl (equalised_keeps (Keeps.refl s)) (equalised_equalise h)
  · exact event_next hl (verified_keeps (Keeps.refl s)) (verified_passed h)
  · exact event_next hl (verified_keeps (Keeps.refl s)) (verified_failed h)
  · exact event_next hl (stepAdvances_keeps (Keeps.refl s)) (stepAdvances_ready h ht hr)
  · exact event_next hl (laneRestarts_keeps (Keeps.refl s)) (laneRestarts_due h hd hp)
  · intro l timedOut manualOut again t
    have ht : phaseTimesOut s n = t := by
      cases hr : l.retried with
      | false => rw [phaseTimesOut_first hr]; simp only [t, hr]; rfl
      | true =>
        rw [phaseTimesOut_second hr, trainingEnds]
        simp only [t, hr]
        cases (lane s n).completed <;> rfl
    refine ⟨fun h => ?_, fun ⟨h, hm, hd⟩ => ?_, fun h hm => ?_⟩
    · refine event_next hl (phaseTimeout_keeps (Keeps.refl s)) (Eq.trans ?_ ht)
      rcases h with ⟨h, hd⟩ | ⟨h, hd, hm⟩
      · exact phaseTimeout_timed h hd
      · exact phaseTimeout_lock h hd hm
    · exact event_next hl (manualTimeout_keeps (Keeps.refl s)) ((manualTimeout_due h hm hd).trans ht)
    · exact event_next hl (phaseTimeout_keeps (Keeps.refl s)) (phaseTimeout_manual h hm)

section
variable {s : State} {p : Nat}

/-- Checking ends by what the partner, the lanes and the skew show (R79, R85). -/
theorem checked_checking {skew : Nat} (h : portState s p = 2) (he : portEnabled s p = true) (hx : portExists s p = true) :
    checked s p skew =
      match partnerFault s p with
      | some k => miswire s p k
      | none =>
        let ls := (lanesOf s p).filter fun n => laneTrained s n && laneStep s n == portStep s p
        if ls.length < minWidth s p then setFld s (LNK_PORT_STATUS p) 2 0 1
        else if maxSkew p < skew then setLink s p { link s p with skewFail := true, checkAt := s.now }
        else enterService s p ls :=
  if_neg (by simp [h, he, hx])

theorem checkingAgain_due (h : portState s p = 2) (hf : (link s p).skewFail = true) (hd : (link s p).checkAt + 1000000000 ≤ s.now) :
    checkingAgain s p =
      let t := setFld (setLink s p { link s p with skewFail := false }) (LNK_PORT_STATUS p) 2 0 1
      forEach (lanesOf t p) t fun s n => if laneState s n = 5 then s else startDetect s n :=
  if_neg (by simp [h, hf, Nat.not_lt.mpr hd])

theorem twinReturns_clear (h : inService s 256 = true) (ha : twinActive s = 1) (hr : (link s 257).replay = []) :
    twinReturns s = setFld s LNK_TWIN_STATUS 1 0 0 := by
  simp [twinReturns, h, ha, hr]

end

/-- Settles O5: Checking by `checked`'s order, its retry, and the twin port's return. -/
theorem portsEnterService : Obligations.PortsEnterService := by
  unfold Obligations.PortsEnterService
  refine fun s hl => ⟨fun p skew h he hx => ?_, fun p h hf hd => ?_, fun h ha hr => ?_⟩
  · exact event_next hl (checked_keeps (Keeps.refl s)) (checked_checking h he hx)
  · exact event_next hl (checkingAgain_keeps (Keeps.refl s)) (checkingAgain_due h hf hd)
  · exact event_next hl (twinReturns_keeps (Keeps.refl s)) (twinReturns_clear h ha hr)

end Sys2Proof.Machine

/-! PROOFS. Electrical idle (R81, R82), width changes (R83, R85), the margin monitors (R90, R91) and flits (R100-R107, R148). -/

namespace Sys2Proof.Machine

section
variable {s : State} {p : Nat}

theorem idleEnters_due (h : inService s p = true) (ht : txIdle s p = false)
    (hq : hasToSend s p = false ∨ (link s p).stopHush = true) (hd : idleDue s p = true) :
    idleEnters s p =
      let t := forEach (maskLanes s p) s fun s n => emit (sendBlock s n 0x4B 0) (.silent n)
      lnkEv (setLink (setTxIdle t p true) p { link t p with idleAt := t.now }) 10 1 :=
  if_neg (by rcases hq with hq | hq <;> simp [h, ht, hq, hd])

theorem idleExits_due (h : inService s p = true) (ht : txIdle s p = true) (hq : hasToSend s p = true) (hh : (link s p).stopHush = false)
    (hi : heldIdle s p = false) (hd : (link s p).idleAt + 80 ≤ s.now) :
    idleExits s p =
      let first := ((portLanes s p).getD (0, 0)).1
      let t := forEach (maskLanes s p) s fun s n => sendBlock (emit s (.burst n)) n 0x2D (n - first + portStep s p * 2 ^ 8)
      setLink (setTxIdle t p false) p { link s p with busyAt := t.now } :=
  if_neg (by simp [h, ht, hq, hh, hi, Nat.not_lt.mpr hd])

variable {n i : Nat} (hn : portOfLane s n = some (p, i))
include hn

theorem idleHeard_port (h : inService s p = true) (hl : (lane s n).phase = .inPort) (hm : n ∈ maskLanes s p) :
    idleHeard s n = noteRxIdle (setLaneState (setBitOf
      (setLane s n { lane s n with eiRx := true, idleDeadline := 0 }) (LNK_LANE_STATUS n) 5 false) n 4) p := by
  unfold idleHeard
  rw [hn]
  exact if_neg (by simp [h, hl, hm])

theorem burstHeard_port (h : inService s p = true) (he : (lane s n).eiRx = true) :
    burstHeard s n =
      let w := wakeRun s
      noteRxIdle (setLaneState
        (setLane w n { lane w n with eiRx := false, idleDeadline := w.now + burstTime (portStep w p) }) n 3) p := by
  unfold burstHeard
  rw [hn]
  exact if_neg (by simp [h, he])

theorem idleExitFails_due (h : (lane s n).idleDeadline ≠ 0) (hd : (lane s n).idleDeadline ≤ s.now)
    (hb : bitOf s (LNK_LANE_STATUS n) 5 = false) :
    idleExitFails s n = lossOfLock (lnkEv (portEvent (setLane s n { lane s n with idleDeadline := 0 }) p 6) 11 1) n := by
  unfold idleExitFails
  rw [hn]
  exact if_neg (by simp [decoding, h, Nat.not_lt.mpr hd, hb])

end

/-- Settles O6: each event of electrical idle by its conditions. -/
theorem electricalIdleEntersAndLeaves : Obligations.ElectricalIdleEntersAndLeaves := by
  unfold Obligations.ElectricalIdleEntersAndLeaves
  refine fun s hl => ⟨fun p h => ⟨fun ht hq hd => ?_, fun ht hq hh hi hd => ?_⟩, fun n p i hn => ⟨fun h hp hm => ?_, fun h he => ?_, fun h hd hb => ?_⟩⟩
  · exact event_next hl (idleEnters_keeps (Keeps.refl s)) (idleEnters_due h ht hq hd)
  · exact event_next hl (idleExits_keeps (Keeps.refl s)) (idleExits_due h ht hq hh hi hd)
  · exact event_next hl (idleHeard_keeps (Keeps.refl s)) (idleHeard_port hn h hp hm)
  · exact event_next hl (burstHeard_keeps (Keeps.refl s)) (burstHeard_port hn h he)
  · exact event_next hl (idleExitFails_keeps (Keeps.refl s)) (idleExitFails_due hn h hd hb)

/-! ## Width changes -/

/-- The partner's announcement is its first, or carries a higher sequence number than one that has not yet applied (R83). -/
def widthNewer (l : PortLink) (sq : Byte) : Prop := ∀ w, l.widthPeer = some w → sq ≠ w.seq ∧ (sq.toNat + 256 - w.seq.toNat) % 256 < 128

section
variable {s : State} {p : Nat} {sq mask : Byte} {boundary : BitVec 24}

theorem widthNewer_iff {l : PortLink} : widthNewer l sq ↔ (match l.widthPeer with
    | some w => sq != w.seq && decide ((sq.toNat + 256 - w.seq.toNat) % 256 < 128)
    | none => true) = true := by
  unfold widthNewer
  cases l.widthPeer <;> simp

theorem widthHeard_newer (h : inService s p = true) (hn : widthNewer (link s p) sq) :
    widthHeard s p sq mask boundary =
      let t := setLink s p { link s p with widthPeer := some { seq := sq, mask := mask, boundary := boundary } }
      if (link s p).widthMine.isSome then t else announceWidth t p (maskOfLanes t p (offeredLanes t p)) :=
  if_neg (by
    rw [h, Bool.not_true, Bool.false_or, Bool.not_eq_true', Bool.not_eq_false]
    exact widthNewer_iff.mp hn)

theorem widthHeard_older (h : inService s p = true) (hn : ¬ widthNewer (link s p) sq) : widthHeard s p sq mask boundary = s :=
  if_pos (by
    rw [h, Bool.not_true, Bool.false_or, Bool.not_eq_true']
    exact Bool.eq_false_iff.mpr (mt widthNewer_iff.mpr hn))

theorem widthApplies_reached {a b : WidthMsg} (h : inService s p = true) (ha : (link s p).widthMine = some a)
    (hb : (link s p).widthPeer = some b) (hr : sfReached s p (sfLater a.boundary.toNat b.boundary.toNat) = true) :
    widthApplies s p =
      let t := setLink s p { link s p with widthMine := none, widthPeer := none }
      if popMask (a.mask &&& b.mask).toNat < minWidth t p then portDown t p else applyMask t p (a.mask &&& b.mask).toNat := by
  unfold widthApplies
  simp only [ha, hb]
  exact if_neg (by simp [h, hr])

end

/-- Settles O7: an announcement is taken where it is newer, and both apply at the later boundary. -/
theorem widthsChangeAtTheLaterBoundary : Obligations.WidthsChangeAtTheLaterBoundary := by
  unfold Obligations.WidthsChangeAtTheLaterBoundary
  refine fun s p hl h => ⟨fun sq mask boundary => ⟨fun hn => ?_, fun hn => ?_⟩, fun a b ha hb hr => ?_⟩
  · exact event_next hl (widthHeard_keeps (Keeps.refl s)) (widthHeard_newer h hn)
  · exact event_next hl (widthHeard_keeps (Keeps.refl s)) (widthHeard_older h hn)
  · exact event_next hl (widthApplies_keeps (Keeps.refl s)) (widthApplies_reached h ha hb hr)

end Sys2Proof.Machine

/-! PROOFS. The margin monitors (R90, R91), and flits in their sequence (R100-R107, R148). -/

namespace Sys2Proof.Machine

section
variable {s : State} {n : Nat}

theorem eyeSearched_inService {w h eye : Nat} (hs : laneState s n = 3) (hm : bitOf s (LNK_LANE_EYE_CTRL n) 0 = false) (he : eye < 4) :
    eyeSearched s n w h eye =
      let t := wr s (LNK_LANE_EYE_RESULT n) (w + h * 2 ^ 8 + eye * 2 ^ 16 + 2 ^ 18 +
        (fldOf s (LNK_LANE_EYE_RESULT n) 31 24 + 1) % 256 * 2 ^ 24)
      if w < fldOf t LNK_MARGIN_CFG 7 0 || h < fldOf t LNK_MARGIN_CFG 15 8 then marginWarn t 0 (6 + dieOfLane t n) n else t := by
  unfold eyeSearched
  rw [if_neg (by simp [hs, hm]), Nat.mod_eq_of_lt he]

theorem eyeCounted_manual {count : Nat} (hs : laneState s n = 3) (hm : bitOf s (LNK_LANE_EYE_CTRL n) 0 = true) :
    eyeCounted s n count = setBitOf (wr64 s (LNK_LANE_EYE_ERR n) count) (LNK_LANE_EYE_RESULT n) 18 true :=
  if_neg (by simp [hs, hm])

theorem opticalRead_served {rx oma bias laser : Nat} (ho : isOptical s n = true) (h4 : laneState s n ≠ 4) (h5 : laneState s n ≠ 5) :
    opticalRead s n rx oma bias laser =
      let t := wr (wr s (LNK_LANE_OPT_RX n) (rx + oma * 2 ^ 16)) (LNK_LANE_OPT_LASER n) (bias + laser * 2 ^ 16)
      if signedBits 16 rx < -500 + 10 * (fldOf t LNK_MARGIN_CFG 31 24 : Int) then marginWarn t 2 (6 + dieOfLane t n) n else t :=
  if_neg (by simp [ho, h4, h5])

variable {d i mv margin : Nat}

/-- A lower voltage than any since RESET_MIN is kept. -/
theorem droopSeen_lower (hmv : mv < 2 ^ 12) (hma : margin < 2 ^ 12)
    (h : fldOf s (LNK_DROOP d i) 11 0 = 0 ∨ mv < fldOf s (LNK_DROOP d i) 11 0) :
    droopSeen s d i mv margin =
      let t := wr s (LNK_DROOP d i) (mv + margin * 2 ^ 12)
      if signedBits 12 margin < (fldOf t LNK_MARGIN_CFG 23 16 : Int) then marginWarn t 1 (6 + d) (1024 + 4 * d + i) else t := by
  unfold droopSeen
  rw [if_neg (by rcases h with h | h <;> simp [h, Nat.not_le.mpr]), Nat.mod_eq_of_lt hmv, Nat.mod_eq_of_lt hma]

theorem droopSeen_kept (h : fldOf s (LNK_DROOP d i) 11 0 ≠ 0) (hl : fldOf s (LNK_DROOP d i) 11 0 ≤ mv) : droopSeen s d i mv margin = s :=
  if_pos (by simp [h, hl])

end

/-- Settles O8: each monitor's result by its conditions. -/
theorem marginMonitorsReport : Obligations.MarginMonitorsReport := by
  unfold Obligations.MarginMonitorsReport
  refine fun s hl => ⟨fun n w h eye hs hm => ?_, fun n count hs hm => ?_, fun n rx oma bias laser ho h4 h5 => ?_,
    fun d i mv margin => ⟨fun h => ?_, fun h hv => ?_⟩⟩
  · exact event_next hl (eyeSearched_keeps (Keeps.refl s)) (eyeSearched_inService hs hm eye.isLt)
  · exact event_next hl (eyeCounted_keeps (Keeps.refl s)) (eyeCounted_manual hs hm)
  · exact event_next hl (opticalRead_keeps (Keeps.refl s)) (opticalRead_served ho h4 h5)
  · exact event_next hl (droopSeen_keeps (Keeps.refl s)) (droopSeen_lower mv.isLt margin.isLt h)
  · exact event_next hl (droopSeen_keeps (Keeps.refl s)) (droopSeen_kept h hv)

section
variable {s : State} {p : Nat} {f : Flit}

/-- A good flit of a class brings its trailer, and is then taken by its sequence number. -/
theorem receiveFlit_sequenced (h : inService s p = true) (hc : f.crc = f.goodCrc) (hf : f.fvc.toNat ≤ 5) :
    receiveFlit s p f false = takeSequenced (takeTrailer s p f) p f := by
  simp [receiveFlit, h, hc, hf]

/-- A control-only flit brings its trailer, and ahead of the next one shows a loss. -/
theorem receiveFlit_control (h : inService s p = true) (hc : f.crc = f.goodCrc) (hf : f.fvc = 7) :
    receiveFlit s p f false =
      let t := takeTrailer s p f
      let d := seqDist (link t p).rxNext f.seq
      if d ≠ 0 ∧ d < 4096 - 512 then failFlit t p else t := by
  simp [receiveFlit, h, hc, hf]

theorem ackTimeout_due {e : ReplayEntry} {es : List ReplayEntry} (h : inService s p = true) (hr : (link s p).replay = e :: es)
    (hs : (link s p).resend ≠ some 0) (hd : e.sentAt + tAck (link s p) ≤ s.now) : ackTimeout s p = startReplay (lnkEv s 6 1) p := by
  unfold ackTimeout
  simp only [hr]
  exact if_neg (by simp [h, hs, Nat.not_lt.mpr hd])

theorem takeC0Token_taken (h : (link s p).waitTokens ≠ 0) (ht : tokenUnit ≤ tokensNow s p) :
    takeC0Token s p = ev (setLink s p { link s p with
      tokens := tokensNow s p - tokenUnit, tokenAt := s.now, waitTokens := (link s p).waitTokens - 1,
      freed := vset (link s p).freed 0 (vget 0 (link s p).freed 0 + 1), owed := max (link s p).owed 1 }) 1247 1 :=
  if_neg (by simp [h, Nat.not_lt.mpr ht])

theorem takeSequenced_ahead (h : seqDist (link s p).rxNext f.seq ≠ 0) (ha : seqDist (link s p).rxNext f.seq < 4096 - 512) :
    takeSequenced s p f = failFlit s p :=
  (if_neg h).trans (if_neg (Nat.not_le.mpr ha))

theorem takeSequenced_behind (h : 4096 - 512 ≤ seqDist (link s p).rxNext f.seq) : takeSequenced s p f = s :=
  (if_neg (by omega)).trans (if_pos h)

/-- The next flit in sequence: it is expected no more, nothing has failed, and its packets arrive. -/
theorem takeSequenced_next (h : seqDist (link s p).rxNext f.seq = 0) :
    takeSequenced s p f =
      let t := ev (setLink s p { link s p with rxNext := (link s p).rxNext + 1, rxFailed := false, owed := max (link s p).owed 1 })
        (1080 + 8 * dieOfPort s p) 1
      streamPackets (if p ≥ 256 then ev t 1113 1 else t) p f.fvc.toNat (slice f.payload 0 240) :=
  if_pos h

/-- Packets read off a stream change the rest of the stream alone on their link. -/
theorem link_streamPackets (h : s.Canon) (c : Nat) (payload : List Byte) :
    link (streamPackets s p c payload) p =
      { link s p with rxBuf := vset (link s p).rxBuf c (parseStream 16 (vget [] (link s p).rxBuf c ++ payload)).2 } := by
  unfold streamPackets
  exact link_setLink h _

theorem homes_streamPackets (c : Nat) (payload : List Byte) : (streamPackets s p c payload).homes = s.homes := rfl

theorem link_ev (m k : Nat) : link (ev s m k) p = link s p := by rw [link, ev_links, link]

theorem homes_ev (m k : Nat) : (ev s m k).homes = s.homes := by
  obtain ⟨r, c, e⟩ := ev_shape s m k
  rw [e]

/-- The next flit in sequence is accepted: it is expected no more, nothing has failed, and memory is as it was. -/
theorem takeSequenced_accepts (hc : s.Canon) (h : seqDist (link s p).rxNext f.seq = 0) :
    (link (takeSequenced s p f) p).rxNext = (link s p).rxNext + 1 ∧ (link (takeSequenced s p f) p).rxFailed = false ∧
      (takeSequenced s p f).homes = s.homes := by
  rw [takeSequenced_next h]
  extract_lets l t
  have kt : Keeps s t := ev_keeps (setLink_keeps (Keeps.refl s))
  have ku : Keeps s (if p ≥ 256 then ev t 1113 1 else t) := by
    split
    · exact ev_keeps kt
    · exact kt
  have hu : link (if p ≥ 256 then ev t 1113 1 else t) p = link t p := by
    split
    · exact link_ev _ _
    · rfl
  have ht : link t p = { l with rxNext := l.rxNext + 1, rxFailed := false, owed := max l.owed 1 } := by
    rw [link_ev, link_setLink hc]
  rw [link_streamPackets (ku.canon hc), homes_streamPackets, hu, ht]
  refine ⟨rfl, rfl, ?_⟩
  split
  · rw [homes_ev, homes_ev]; rfl
  · rw [homes_ev]; rfl

theorem startReplay_again {e : ReplayEntry} {es : List ReplayEntry} (hr : (link s p).replay = e :: es) (ht : (link s p).oldestTries < 16) :
    startReplay s p = setLink s p { link s p with resend := some 0, oldestTries := (link s p).oldestTries + 1 } :=
  (if_neg (by simp [hr])).trans (if_neg (Nat.not_le.mpr ht))

theorem startReplay_exhausted {e : ReplayEntry} {es : List ReplayEntry} (hr : (link s p).replay = e :: es) (ht : 16 ≤ (link s p).oldestTries) :
    startReplay s p = portFault (retrain s p) 0x0108 3 p 0xFFFF 0 0 0 0 0 :=
  (if_neg (by simp [hr])).trans (if_pos ht)

end

/-- Settles O9: a flit by its CRC, class and sequence number, and a replay by the count of those before it. -/
theorem flitsFollowTheirSequence : Obligations.FlitsFollowTheirSequence := by
  unfold Obligations.FlitsFollowTheirSequence
  refine ⟨fun s p hl => ⟨fun h => ⟨fun f hc hf => ?_, fun f hc hf => ?_, fun e es hr hs hd => ?_⟩, fun h ht => ?_⟩,
    fun s p => ⟨fun f => ⟨takeSequenced_ahead, takeSequenced_behind, fun h hc => takeSequenced_accepts hc h⟩, fun e es hr => ⟨startReplay_again hr, startReplay_exhausted hr⟩⟩⟩
  · exact event_next hl (receiveFlit_keeps (Keeps.refl s)) (receiveFlit_sequenced h hc hf)
  · exact event_next hl (receiveFlit_keeps (Keeps.refl s)) (receiveFlit_control h hc hf)
  · exact event_next hl (ackTimeout_keeps (Keeps.refl s)) (ackTimeout_due h hr hs hd)
  · exact event_next hl (takeC0Token_keeps (Keeps.refl s)) (takeC0Token_taken h ht)

end Sys2Proof.Machine

/-! PROOFS. The switch core: arrivals by the order of their checks (R115-R125, R135, R140), slots, notes and telemetry (R147, R153), and
upkeep (R138, R156, R159). -/

namespace Sys2Proof.Machine

/-- A packet that has arrived, counted and sampled (R135). -/
def arrivedCounted (s : State) (ing : Ingress) (p : Packet) : State :=
  let a := { s with arrivals := s.arrivals.erase (ing, p) }
  mirrorSample (if p.vc < 6 then ev (ev a (1192 + p.vc) 1) (1200 + p.vc) p.cells else a) p ing

section
variable {s : State} {ing : Ingress} {p : Packet}

section
variable (hm : mayArrive s ing p = true) (hr : s.pwr.inReset.contains .hearthCore = false) (hd : dieDead s .hearth = false)
include hm hr hd

/-- The first two checks: framing, before the packet takes cells, and then its form. -/
theorem packetArrive_framing (hf : p.framing = true) : packetArrive s ing p = framingError (arrivedCounted s ing p) p ing :=
  (if_neg (by simp only [hm, hr, hd]; decide)).trans (if_pos hf)

theorem packetArrive_malformed (hf : p.framing = false) (hx : isMalformed p = true) :
    packetArrive s ing p = malformedPkt (takeCells (arrivedCounted s ing p) p.cells) p ing :=
  (if_neg (by simp only [hm, hr, hd]; decide)).trans ((if_neg (by simp [hf])).trans (if_pos hx))

/-- From a port, the source a down-port may name and the partition it admits. -/
theorem packetArrive_port {q : PortNo} (hi : ing = .port q) (hf : p.framing = false) (hx : isMalformed p = false) :
    packetArrive s ing p =
      let t := takeCells (arrivedCounted s ing p) p.cells
      if isDownPort t q && !sourceOk t p q then spoofed t p ing
      else if isDownPort t q && !portAdmits t p q then notAdmitted t p ing
      else pastIngress t p ing := by
  subst hi
  exact (if_neg (by simp only [hm, hr, hd]; decide)).trans ((if_neg (by simp [hf])).trans (if_neg (by simp [hx])))

theorem packetArrive_spoofed {q : PortNo} (hi : ing = .port q) (hf : p.framing = false) (hx : isMalformed p = false)
    (hp : isDownPort (takeCells (arrivedCounted s ing p) p.cells) q = true)
    (hs : sourceOk (takeCells (arrivedCounted s ing p) p.cells) p q = false) :
    packetArrive s ing p = spoofed (takeCells (arrivedCounted s ing p) p.cells) p ing :=
  (packetArrive_port hm hr hd hi hf hx).trans (if_pos (by rw [hp, hs]; rfl))

theorem packetArrive_notAdmitted {q : PortNo} (hi : ing = .port q) (hf : p.framing = false) (hx : isMalformed p = false)
    (hp : isDownPort (takeCells (arrivedCounted s ing p) p.cells) q = true)
    (hs : sourceOk (takeCells (arrivedCounted s ing p) p.cells) p q = true)
    (ha : portAdmits (takeCells (arrivedCounted s ing p) p.cells) p q = false) :
    packetArrive s ing p = notAdmitted (takeCells (arrivedCounted s ing p) p.cells) p ing :=
  (packetArrive_port hm hr hd hi hf hx).trans ((if_neg (by rw [hs]; simp)).trans (if_pos (by rw [hp, ha]; rfl)))

theorem packetArrive_admitted {q : PortNo} (hi : ing = .port q) (hf : p.framing = false) (hx : isMalformed p = false)
    (hs : sourceOk (takeCells (arrivedCounted s ing p) p.cells) p q = true)
    (ha : portAdmits (takeCells (arrivedCounted s ing p) p.cells) p q = true) :
    packetArrive s ing p = pastIngress (takeCells (arrivedCounted s ing p) p.cells) p ing :=
  (packetArrive_port hm hr hd hi hf hx).trans ((if_neg (by rw [hs]; simp)).trans (if_neg (by rw [ha]; simp)))

/-- The two checks of a down-port do not apply at another place. -/
theorem packetArrive_notDown (hp : ∀ q : PortNo, ing = .port q → isDownPort (takeCells (arrivedCounted s ing p) p.cells) q = false)
    (hf : p.framing = false) (hx : isMalformed p = false) :
    packetArrive s ing p = pastIngress (takeCells (arrivedCounted s ing p) p.cells) p ing := by
  cases ing with
  | port q =>
    have hq := hp q rfl
    exact (packetArrive_port hm hr hd rfl hf hx).trans ((if_neg (by rw [hq]; simp)).trans (if_neg (by rw [hq]; simp)))
  | host | hall | store | hearth | mgmt =>
    exact (if_neg (by simp only [hm, hr, hd]; decide)).trans ((if_neg (by simp [hf])).trans (if_neg (by simp [hx])))

end

end

/-- Settles O10: the checks one after the other. -/
theorem arrivalsAreCheckedInOrder : Obligations.ArrivalsAreCheckedInOrder := by
  unfold Obligations.ArrivalsAreCheckedInOrder
  intro s ing p hl hm hr hd a a' m t
  have hx {y : State} (e : packetArrive s ing p = y) : exec (.packetArrive ing p) s = .next (progress y) :=
    event_next hl (packetArrive_keeps (Keeps.refl s)) e
  exact ⟨fun hf => hx (packetArrive_framing hm hr hd hf), fun hf hb => hx (packetArrive_malformed hm hr hd hf hb),
    fun hf hb => ⟨fun q hi hp => ⟨fun hs => hx (packetArrive_spoofed hm hr hd hi hf hb hp hs),
      fun hs ha => hx (packetArrive_notAdmitted hm hr hd hi hf hb hp hs ha), fun hs ha => hx (packetArrive_admitted hm hr hd hi hf hb hs ha)⟩,
      fun hp => hx (packetArrive_notDown hm hr hd hp hf hb)⟩⟩

section
variable {s : State}

theorem transmitSlot_closed {eg : Egress} (h : crossingClosed s eg = true) : transmitSlot s eg = s := if_pos h

theorem transmitSlot_port {p : PortNo} (h : crossingClosed s (.port p) = false) : transmitSlot s (.port p) =
    if !inService s p then s else if txIdle s p then slotIs s p (if portQueued s p then 3 else 2) else portSlot s p :=
  if_neg (by simp [h])

theorem transmitSlot_internal {eg : Egress} (he : ∀ p, eg ≠ .port p) (h : crossingClosed s eg = false) :
    transmitSlot s eg = internalSlot s eg := by
  cases eg with
  | port p => exact absurd rfl (he p)
  | host | hall | store | mgmt => exact if_neg (by simp [h])

/-- A marked queue that still holds MARK_CELLS sends one note in a microsecond. -/
theorem congestionNote_due {q : Nat} {c : Nat} {p : Packet} (hq : q < 256) (hc : c ≤ 4) (hl : vget none (pswOf s q).lastIn c = some p)
    (hm : vget false (pswOf s q).marked c = true) (hn : vget 0 (pswOf s q).noteAt c ≠ s.now / 1000 + 1)
    (hd : fldOf s (SWC_MARK q) 15 0 ≤ queueDepth s (egPort q) c) : congestionNote s q c =
      let t := setPsw s q { pswOf s q with noteAt := vset (pswOf s q).noteAt c (s.now / 1000 + 1) }
      let body := leBytes 1 1 ++ leBytes 1 c ++ leBytes 2 q ++ leBytes 4 (queueDepth s (egPort q) c) ++ leBytes 3 p.dest.toNat ++ leBytes 5 0
      sendPlain (ev t (1216 + c) 1) (mkPkt opTELEMETRY 5 (epcWithUnit p.src 0) (myEpc t 0) (opfS 0) body) .mgmt := by
  unfold congestionNote
  simp only [hl]
  exact (if_neg (by simp only [Bool.or_eq_true, decide_eq_true_eq, Bool.not_eq_true', hm]; simp; omega)).trans (if_neg (Nat.not_lt.mpr hd))

theorem telemetryIn_mine {d : Delivered} (hm : isMine s d.pkt.dest = true) (hu : epcUnit d.pkt.dest = 0) :
    telemetryIn s d = emit s (.mgmtTelemetry d.pkt) := if_pos (by simp [hm, hu])

end

/-- Settles O11: a slot by its egress point, a note by its queue, telemetry by its Unit. -/
theorem slotsNotesAndTelemetry : Obligations.SlotsNotesAndTelemetry := by
  unfold Obligations.SlotsNotesAndTelemetry
  intro s hl
  have slot {eg : Egress} {y : State} (e : transmitSlot s eg = y) : exec (.transmitSlot eg) s = .next (progress y) :=
    event_next hl (transmitSlot_keeps (Keeps.refl s)) e
  refine ⟨fun p hc => ⟨fun h ht => ?_, fun h ht => ?_, fun h => ?_⟩, fun eg he hc => slot (transmitSlot_internal he hc),
    fun eg hc => slot (transmitSlot_closed hc), fun q c p hq hlast hm hn hd => ?_, fun d ho hm hu => ?_⟩
  · exact slot ((transmitSlot_port hc).trans (by simp [h, ht]))
  · exact slot ((transmitSlot_port hc).trans (by simp [h, ht]))
  · exact slot ((transmitSlot_port hc).trans (by simp [h]))
  · exact event_next hl (congestionNote_keeps (Keeps.refl s)) (congestionNote_due hq (by omega) hlast hm hn hd)
  · exact taken_next hl ho (fun _ h => telemetryIn_keeps h) (telemetryIn_mine hm hu)

section
variable {s : State}

theorem routeAdd_due {p : Nat} (hp : p < 256) (h : inService s p = true) (hs : serving s = true) (he : routeEn s p = false)
    (ha : cget 0 s.sw.routeAdd p ≠ 0) (hd : cget 0 s.sw.routeAdd p ≤ s.now + 1) (hn : s.sw.drain = none) :
    routeAdd s p = startDrain { s with sw := { s.sw with routeAdd := cset 0 s.sw.routeAdd p 0 } } (.port p) [] [p] :=
  if_neg (by simp [h, hs, he, ha, hn]; omega)

theorem mirrorDelivered_oldest {m : MirrorRec} {rest : List MirrorRec} (h : s.sw.mirror = m :: rest) : mirrorDelivered s =
    emit (checkReserve { s with sw := { s.sw with mirror := rest, free := s.sw.free + 1 } }) (.mirrorRecord m.bytes) := by
  unfold mirrorDelivered
  simp only [h]

end

/-- Settles O13: each upkeep command by its condition; the audit is due, and what follows is its own text. -/
theorem switchUpkeep : Obligations.SwitchUpkeep := by
  unfold Obligations.SwitchUpkeep
  refine fun s hl => ⟨fun p hp h hs he ha hd hn => ?_, fun m rest h => ?_, fun h => ?_⟩
  · exact event_next hl (routeAdd_keeps (Keeps.refl s)) (routeAdd_due hp h hs he ha hd hn)
  · exact event_next hl (mirrorDelivered_keeps (Keeps.refl s)) (mirrorDelivered_oldest h)
  · exact event_next hl (bufAudit_keeps (Keeps.refl s)) (if_neg (Nat.not_lt.mpr h))

end Sys2Proof.Machine

/-! PROOFS. The module's own requests: their timers (R117, R120, R122), those held (R175, R178, R182), the report of a fence (R183), and the
responses that complete them (R116, R169). -/

namespace Sys2Proof.Machine

section
variable {s : State} {src dst : Epc} {r : OutReq}

theorem retryTimeout_again (h : oldestOf s src dst = some r) (hd : r.last + 16000 ≤ s.now) (ht : r.tries < 3) :
    retryTimeout s src dst = forEach (outstanding s src dst) s fun s q => retransmit s q (q.n == r.n) := by
  unfold retryTimeout
  simp only [h]
  rw [if_neg (Nat.not_lt.mpr hd), if_neg (Nat.not_le.mpr ht)]

theorem retryTimeout_dies (h : oldestOf s src dst = some r) (hd : r.last + 16000 ≤ s.now) (ht : 3 ≤ r.tries) :
    retryTimeout s src dst = pump (pairDies s src dst) := by
  unfold retryTimeout
  simp only [h]
  rw [if_neg (Nat.not_lt.mpr hd), if_pos ht]

theorem c0Timeout_due {n : Nat} (h : (s.e2e.outs.find? fun r => r.n == n && r.isSent && r.pkt.vc == 0 && !r.local_) = some r)
    (hd : r.last + 16000 ≤ s.now) : c0Timeout s n = pump (endReq s r stUNREACHABLE) := by
  unfold c0Timeout
  simp only [h]
  rw [if_neg (Nat.not_lt.mpr hd)]

/-- A pair with nothing outstanding and 2 ms without a send is closed (R120). -/
theorem pairClosed_quiet {x : SrcPair} (hd : x.lastSend + 2000000 ≤ s.now)
    (h : ∀ q ∈ s.e2e.outs, ¬(q.pkt.src = x.src ∧ q.pkt.dest = x.dst ∧ q.pkt.vc = 1 ∧ q.st = .sent)) : pairClosed s x = true := by
  have hn : (s.e2e.outs.any fun q => q.pkt.src == x.src && q.pkt.dest == x.dst && q.pkt.vc == 1 && q.isSent) = false := by
    refine List.any_eq_false.mpr fun q hq => ?_
    have := h q hq
    simpa [OutReq.isSent, and_assoc] using this
  unfold pairClosed
  rw [hn]
  simp [hd]

theorem closePair_quiet (ho : (srcPair s src dst).opened = true) (hc : pairClosed s (srcPair s src dst) = true) :
    closePair s src dst = pump (setSrcPair s { srcPair s src dst with opened := false, dead := false }) :=
  if_pos (by rw [ho, hc]; rfl)

end

/-- Settles O14: each timer of a source by its condition. -/
theorem sourcesRetryThenGiveUp : Obligations.SourcesRetryThenGiveUp := by
  unfold Obligations.SourcesRetryThenGiveUp
  refine fun s hl => ⟨fun src dst r h hd => ⟨fun ht => ?_, fun ht => ?_⟩, fun n r h hd => ?_, fun src dst ho hd hq => ?_⟩
  · exact event_next hl (retryTimeout_keeps (Keeps.refl s)) (retryTimeout_again h hd ht)
  · exact event_next hl (retryTimeout_keeps (Keeps.refl s)) (retryTimeout_dies h hd ht)
  · exact event_next hl (c0Timeout_keeps (Keeps.refl s)) (c0Timeout_due h hd)
  · exact event_next hl (closePair_keeps (Keeps.refl s)) (closePair_quiet ho (pairClosed_quiet hd hq))

section
variable {s : State} {r : FenceRun}

theorem resendDeferred_due {src dst : Epc} {c0 : Bool} {ds : List OutReq}
    (hds : (s.e2e.outs.filter fun r => r.isDeferred && r.pkt.src == src && r.pkt.dest == dst && (r.pkt.vc == 0) == c0) = ds) (hn : ds ≠ [])
    (hd : ∀ r ∈ ds, ∀ t u, r.st = .deferred t u → u ≤ s.now) :
    resendDeferred s src dst c0 = pump (sendReady
      (forEach ds s fun s r => match r.st with | .deferred t _ => readyAgain s r t | _ => s) (ds.map OutReq.n)) := by
  have due : (ds.all fun r => match r.st with | .deferred _ t => decide (t ≤ s.now) | _ => true) = true := by
    refine List.all_eq_true.mpr fun r hr => ?_
    cases hst : r.st with
    | held | sent => rfl
    | deferred t u => exact decide_eq_true (hd r hr t u hst)
  subst hds
  refine (if_neg ?_).trans rfl
  rw [Bool.or_eq_true, not_or]
  exact ⟨by rw [decide_eq_true_eq]; exact hn, by rw [Bool.not_eq_true, Bool.not_eq_false']; exact due⟩

theorem releaseFlagged_due {n : Nat} {r : OutReq} (h : (s.e2e.outs.find? fun r => r.n == n && r.isHeld && r.pkt.flag) = some r)
    (hm : maySend s r = true) : releaseFlagged s n = pump (sendFirst s r) := by
  unfold releaseFlagged
  simp only [h, hm, if_true]

theorem fenceEnds_host {j : Fin 2} {fn : Fin 128} (h : (s.e2e.fences.find? fun r => r.id == .host j fn) = some r) (hw : fenceWaits s r = false) :
    fenceEnds s (.host j fn) = fnFenceEnds s r j fn := by
  unfold fenceEnds
  simp only [h, hw, Bool.false_eq_true, if_false]

theorem fenceEnds_hall {c : Fin 16} (h : (s.e2e.fences.find? fun r => r.id == .hall c) = some r) (hw : fenceWaits s r = false) :
    fenceEnds s (.hall c) = hallFenceEnds s r c := by
  unfold fenceEnds
  simp only [h, hw, Bool.false_eq_true, if_false]

theorem hallFenceEnds_started {c : Nat} {k : HCmd} (h : ((hctx s c).cmds.find? fun k => cOp k.body == 5 && !k.finished) = some k)
    (hk : k.started = true) : hallFenceEnds s r c =
      let e := endFence s r
      setCmd (pWrite e.1 (cbits k.body 16 27 0) (leBytes 4 e.2.2.2 ++ leBytes 1 e.2.1 ++ leBytes 3 e.2.2.1 ++ leBytes 8 0)) c
        { k with finished := true } := by
  unfold hallFenceEnds
  simp only [h]
  rw [if_neg (by simp [hk])]

end

/-- Settles O15: what is held goes once its condition holds. -/
theorem heldRequestsAndFencesRelease : Obligations.HeldRequestsAndFencesRelease := by
  unfold Obligations.HeldRequestsAndFencesRelease
  refine fun s hl => ⟨fun src dst c0 hn hd => ?_, fun n r h hm => ?_, fun f r h hw => ⟨fun j fn hf => ?_, fun c k hf hk hs => ?_⟩⟩
  · exact event_next hl (resendDeferred_keeps (Keeps.refl s)) (resendDeferred_due rfl hn hd)
  · exact event_next hl (releaseFlagged_keeps (Keeps.refl s)) (releaseFlagged_due h hm)
  · subst hf
    exact event_next hl (fenceEnds_keeps (Keeps.refl s)) (fenceEnds_host h hw)
  · subst hf
    exact event_next hl (fenceEnds_keeps (Keeps.refl s)) ((fenceEnds_hall h hw).trans (hallFenceEnds_started hk hs))

/-! ## The report of a fence -/

theorem earliest_cons_isSome (d : DoneReq) (ds : List DoneReq) : (earliest (d :: ds)).isSome = true := by
  unfold earliest
  split
  · split <;> rfl
  · rfl

theorem earliest_eq_none_iff {ds : List DoneReq} : earliest ds = none ↔ ds = [] := by
  cases ds with
  | nil => exact ⟨fun _ => rfl, fun _ => rfl⟩
  | cons d ds =>
    have := earliest_cons_isSome d ds
    exact ⟨fun h => by rw [h] at this; exact absurd this (by decide), fun h => absurd h (by simp)⟩

/-- What `earliest` gives is in the list, and none in it was issued before. -/
theorem earliest_least {ds : List DoneReq} : ∀ {d : DoneReq}, earliest ds = some d → d ∈ ds ∧ ∀ e ∈ ds, d.n ≤ e.n := by
  induction ds with
  | nil => intro d h; exact absurd h (by simp [earliest])
  | cons x xs ih =>
    intro d h
    rw [earliest] at h
    cases hx : earliest xs with
    | none =>
      simp only [hx, Option.some.injEq] at h
      subst h
      simp [earliest_eq_none_iff.mp hx]
    | some y =>
      obtain ⟨hy, hmin⟩ := ih hx
      simp only [hx] at h
      split at h
      case isTrue hlt =>
        obtain rfl := Option.some.inj h
        exact ⟨List.mem_cons_of_mem _ hy, List.forall_mem_cons.mpr ⟨Nat.le_of_lt hlt, hmin⟩⟩
      case isFalse hge =>
        obtain rfl := Option.some.inj h
        exact ⟨List.mem_cons_self, List.forall_mem_cons.mpr ⟨Nat.le_refl _, fun e he => Nat.le_trans (Nat.not_lt.mp hge) (hmin e he)⟩⟩

/-- The one request issued first is what `earliest` gives. -/
theorem earliest_eq_some {ds : List DoneReq} {d : DoneReq} (hd : d ∈ ds) (hmin : ∀ e ∈ ds, d.n ≤ e.n) (huniq : ∀ e ∈ ds, e.n = d.n → e = d) :
    earliest ds = some d := by
  cases he : earliest ds with
  | none => rw [earliest_eq_none_iff.mp he] at hd; exact absurd hd (by simp)
  | some e =>
    obtain ⟨hmem, hleast⟩ := earliest_least he
    rw [huniq e hmem (Nat.le_antisymm (hleast d hd) (hmin e hmem))]

/-- The failures a fence counts, loads and stores alike. -/
theorem failures_all (s : State) (srcs : List Epc) (fn : Option (Nat × Nat)) (lo hi : Nat) : failures s srcs fn lo hi false =
    s.e2e.done.filter fun d => decide (lo ≤ d.n) && decide (d.n < hi) && (srcs.contains d.src || (fn.isSome && d.fn == fn)) := by
  simp [failures]

theorem endFence_ok {s : State} {f : FenceRun} (h : failures s f.srcs f.fn f.since f.n false = []) : (endFence s f).2 = (0, 0, 0) := by
  simp only [endFence, h, earliest]

theorem endFence_failed {s : State} {f : FenceRun} {d : DoneReq} (h : earliest (failures s f.srcs f.fn f.since f.n false) = some d) :
    (endFence s f).2 = (d.status.toNat, d.dest.toNat, (failures s f.srcs f.fn f.since f.n false).length) := by
  simp only [endFence, h]

/-- Settles O16: a report is of the earliest of the failures it covers. -/
theorem fenceReportsEarliestFailure : Obligations.FenceReportsEarliestFailure := by
  unfold Obligations.FenceReportsEarliestFailure
  intro s f
  dsimp only
  rw [← failures_all]
  exact ⟨endFence_ok, fun d hd hmin huniq => endFence_failed (earliest_eq_some hd hmin huniq), rfl, rfl⟩

/-! ## Responses -/

section
variable {s : State} {d : Delivered}

theorem responseAt_stray (h : answered s d.pkt = none) : responseAt s d = s := by
  unfold responseAt
  simp only [h]

theorem responseAt_deferred {r : OutReq} (h : answered s d.pkt = some r) (hs : statusOf d.pkt = stDEFERRED) :
    responseAt s d = noteDeferred s r d.pkt.token d.pkt.hint.toNat := by
  unfold responseAt
  simp only [h]
  rw [if_pos hs]

theorem responseAt_completes {r : OutReq} (h : answered s d.pkt = some r) (hs : statusOf d.pkt ≠ stDEFERRED) :
    responseAt s d =
      let u := completeReq (retire s r (statusOf d.pkt)) r (statusOf d.pkt) d.pkt
      pump (if statusOf d.pkt = stUNREACHABLE && r.pkt.vc == 1 && !r.local_ then pairDies u r.pkt.src r.pkt.dest else u) := by
  unfold responseAt
  simp only [h]
  rw [if_neg hs]

end

/-- Settles O17: COMP and DATA are one meaning, by the request they answer and their status. -/
theorem responsesCompleteRequests : Obligations.ResponsesCompleteRequests := by
  unfold Obligations.ResponsesCompleteRequests
  intro s d c hl hc t st
  have hx {y : State} (e : responseAt t d = y) : exec c s = .next (progress y) := by
    rcases hc with ⟨rfl, ho⟩ | ⟨rfl, ho⟩ <;> exact taken_next hl ho (fun _ h => responseAt_keeps h) e
  exact ⟨fun h => hx (responseAt_stray h), fun r h => ⟨fun hs => hx (responseAt_deferred h hs), fun hs => hx (responseAt_completes h hs)⟩⟩

end Sys2Proof.Machine

/-! PROOFS. Homes: where a C2 packet and a request go (R44, R165, R192, R202), the checks of R170, and the answers a home takes as they
arrive (R193, R194, R203, R215). -/

namespace Sys2Proof.Machine

section
variable {s : State} {d : Delivered}

theorem cacheTakes_cupboard (hm : isMine s d.pkt.dest = true) (hu : epcUnit d.pkt.dest = 9) : cacheTakes s d = cupSnoop s d.pkt := by
  unfold cacheTakes
  dsimp only
  rw [if_pos hm, if_pos hu]

theorem cacheTakes_hostUnit {j : Fin 2} (hm : isMine s d.pkt.dest = true) (hu : epcUnit d.pkt.dest = 10 + j) :
    cacheTakes s d = hostSnoop s j d.pkt := by
  have hj : epcUnit d.pkt.dest - 10 = j := by omega
  unfold cacheTakes
  dsimp only
  rw [if_pos hm, if_neg (by omega), if_pos, hj]
  fin_cases j <;> simp_all

theorem cacheTakes_hostSeat {j : Nat} (hm : isMine s d.pkt.dest = false) (hh : hostOf s d.pkt.dest = some j) :
    cacheTakes s d = hostSnoop s j d.pkt := by
  unfold cacheTakes
  simp only [hm, hh, Bool.false_eq_true, if_false]

theorem isMine_takeInbox (s : State) (d : Delivered) (e : Epc) : isMine (takeInbox s d) e = isMine s e := rfl

theorem hostOf_takeInbox (s : State) (d : Delivered) (e : Epc) : hostOf (takeInbox s d) e = hostOf s e := rfl

end

/-- Settles O18: the four C2 commands have one meaning, by the seat and the Unit of the packet's destination. -/
theorem snoopsReachTheirCache : Obligations.SnoopsReachTheirCache := by
  unfold Obligations.SnoopsReachTheirCache
  intro s d c hl hc p t
  have hx {y : State} (e : cacheTakes t d = y) : exec c s = .next (progress y) := by
    rcases hc with ⟨rfl, ho⟩ | ⟨rfl, ho⟩ | ⟨rfl, ho⟩ | ⟨rfl, ho⟩ <;> exact taken_next hl ho (fun _ h => cacheTakes_keeps h) e
  exact ⟨fun hm hu => hx (cacheTakes_cupboard hm hu), fun hm _ hu => hx (cacheTakes_hostUnit hm hu),
    fun hm _ hh => hx (cacheTakes_hostSeat hm hh)⟩

section
variable {s : State} {d : Delivered}

theorem homeRequest_dup (hd : d.dup = true) : homeRequest s d = dupRequest s (d.pkt.offset / 128) d := if_pos hd

theorem homeRequest_first (hd : d.dup = false) (hu : unitDeferral s (d.pkt.offset / 128) d.pkt = none) :
    homeRequest s d =
      if (d.pkt.opcode = opGIVE || d.pkt.opcode = opEVICT_NOTICE) && crosses s (d.pkt.offset / 128) d.pkt.src then
        takeAnnounce s (d.pkt.offset / 128) d.pkt
      else if homeStatus s d.pkt (d.pkt.offset / 128) ≠ stOK then refuse s d.pkt (homeStatus s d.pkt (d.pkt.offset / 128))
      else placeRequest s (d.pkt.offset / 128) d := by
  unfold homeRequest
  simp only [hd, hu, Bool.false_eq_true, if_false]

end

/-- Settles O20: the nine requests have one meaning at their home. -/
theorem requestsReachTheirHome : Obligations.RequestsReachTheirHome := by
  unfold Obligations.RequestsReachTheirHome
  intro s d c hl hc p t line ann
  have hx {y : State} (e : atHome t d = y) : exec c s = .next (progress y) := by
    rcases hc with ⟨rfl, ho⟩ | ⟨rfl, ho⟩ | ⟨rfl, ho⟩ | ⟨rfl, ho⟩ | ⟨rfl, ho⟩ | ⟨rfl, ho⟩ | ⟨rfl, ho⟩ | ⟨rfl, ho⟩ | ⟨rfl, ho⟩ <;>
      exact taken_next hl ho (fun _ h => atHome_keeps h) e
  have hhome (hu : epcUnit p.dest = 1) : atHome t d = homeRequest t d := if_pos hu
  refine ⟨fun hu => hx (if_neg hu), fun hu hd => hx ((hhome hu).trans (homeRequest_dup hd)), fun hu hd hn =>
    ⟨fun ha => hx ?_, fun ha => ⟨fun hs => hx ?_, fun hs => hx ?_⟩⟩⟩ <;>
    rw [hhome hu, homeRequest_first hd hn]
  · exact if_pos ha
  · exact (if_neg (ne_true_of_eq_false ha)).trans (if_pos hs)
  · exact (if_neg (ne_true_of_eq_false ha)).trans (if_neg (not_not_intro hs))

/-! ## The checks of R170 -/

section
variable {s : State} {p : Packet} {line : Nat} {r : Region}

/-- The model's three rights as propositions (R170). -/
theorem rightRefused_iff :
    (((p.opcode == opREAD || p.opcode == opREAD_VOL || p.opcode == opTAKE_SHARED || takesExcl p.opcode) && !r.rRight) ||
      ((isStore p.opcode || takesExcl p.opcode || (p.opcode == opGIVE && p.length != 0)) && !r.wRight) ||
      ((p.opcode == opTAKE_SHARED || takesExcl p.opcode) && r.bulk)) = true ↔
    (p.opcode ∈ [opREAD, opREAD_VOL, opTAKE_SHARED, opTAKE_EXCL, opATOMIC] ∧ r.rRight = false) ∨
    ((p.opcode ∈ [opWRITE, opWRITE_MASK, opSTREAM_WRITE, opTAKE_EXCL, opATOMIC] ∨ (p.opcode = opGIVE ∧ p.length ≠ 0)) ∧ r.wRight = false) ∨
    (p.opcode ∈ [opTAKE_SHARED, opTAKE_EXCL, opATOMIC] ∧ r.bulk = true) := by
  simp only [takesExcl, isStore, fullWrite, Bool.or_eq_true, Bool.and_eq_true, beq_iff_eq, bne_iff_ne, Bool.not_eq_true', List.mem_cons,
    List.not_mem_nil, or_false]
  tauto

theorem regionCheck_partition (h : p.partition.toNat ≠ r.part) : regionCheck r p = stPARTITION := if_pos h

theorem regionCheck_key (h : p.partition.toNat = r.part) (hk : p.regionKey.toNat ≠ r.key) : regionCheck r p = stKEYFAIL :=
  (if_neg (not_not_intro h)).trans (if_pos hk)

theorem regionCheck_rights (h : p.partition.toNat = r.part) (hk : p.regionKey.toNat = r.key) :
    regionCheck r p = if ((p.opcode == opREAD || p.opcode == opREAD_VOL || p.opcode == opTAKE_SHARED || takesExcl p.opcode) && !r.rRight) ||
      ((isStore p.opcode || takesExcl p.opcode || (p.opcode == opGIVE && p.length != 0)) && !r.wRight) ||
      ((p.opcode == opTAKE_SHARED || takesExcl p.opcode) && r.bulk) then stPARTITION else stOK :=
  (if_neg (not_not_intro h)).trans (if_neg (not_not_intro hk))

/-- A home whose Store dies, devices and twin are as they should be. -/
structure HomeSound (s : State) (line : Nat) : Prop where
  store0 : dieDead s (.store 0) = false
  store1 : dieDead s (.store 1) = false
  own : servingTwin s = false
  kept : s.res.twin.handingOff = false
  keyed : s.sec.keyWait = []
  up : deviceUp s (deviceOf s (line * 128)) = true

theorem homeStatus_noRegion (h : HomeSound s line) (hr : regionAt s (line * 128) = none) : homeStatus s p line = stNOREGION := by
  unfold homeStatus
  simp only [h.store0, h.store1, h.own, hr, Bool.or_false, Bool.false_eq_true, if_false]

/-- With a region that holds the line and is no standby's, a recorded holder's announcement goes on, and the rest is as `regionCheck` says. -/
theorem homeStatus_region (h : HomeSound s line) (hr : regionAt s (line * 128) = some r) (hs : r.standby = false) :
    homeStatus s p line =
      if (p.opcode == opGIVE || p.opcode == opEVICT_NOTICE) && recorded s line p.src then stOK else regionCheck r p := by
  unfold homeStatus
  simp only [h.store0, h.store1, h.own, h.kept, h.keyed, h.up, Bool.or_false, Bool.false_eq_true, if_false, Bool.false_and, if_true,
    List.any_nil, Bool.not_true]
  rw [hr]
  dsimp only
  split
  · rfl
  · by_cases hc : regionCheck r p = stOK
    · rw [hc]; rfl
    · exact if_pos (by rw [hs, decide_eq_true hc]; rfl)

theorem announced_iff : ((p.opcode == opGIVE || p.opcode == opEVICT_NOTICE) && recorded s line p.src) = true ↔
    (p.opcode = opGIVE ∨ p.opcode = opEVICT_NOTICE) ∧ recorded s line p.src = true := by
  simp

end

/-- Settles O21: the checks before the region's are passed, and the region's come in the order of R170. -/
theorem homeChecksInOrder : Obligations.HomeChecksInOrder := by
  unfold Obligations.HomeChecksInOrder
  intro s p line h0 h1 hown hkept hkeys hup
  have hsound : HomeSound s line := ⟨h0, h1, hown, hkept, hkeys, hup⟩
  refine ⟨homeStatus_noRegion hsound, fun r hr hs => ?_⟩
  intro reads writes takes announced
  have hst := homeStatus_region (p := p) hsound hr hs
  have hpass (ha : ¬announced) : homeStatus s p line = regionCheck r p := hst.trans (if_neg fun h => ha (announced_iff.mp h))
  refine ⟨fun ha => hst.trans (if_pos (announced_iff.mpr ha)), fun ha hp => (hpass ha).trans (regionCheck_partition hp),
    fun ha hp hk => (hpass ha).trans (regionCheck_key hp hk), fun ha hp hk => ?_⟩
  have hc := (hpass ha).trans (regionCheck_rights hp hk)
  exact ⟨fun hb => hc.trans (if_pos (rightRefused_iff.mpr hb)), fun hb => hc.trans (if_neg fun h => hb (rightRefused_iff.mp h))⟩

/-! ## Answers -/

section
variable {s : State} {d : Delivered} {x : Txn} {w : SnoopWait}

theorem homeCompAck_grant (hx : (lctl s (d.pkt.offset / 128)).active = some x) (hg : ∃ g ∈ x.grants, g.who = d.pkt.src) :
    homeCompAck s d =
      let left := if x.kind = .convoy then (x.grants.dropWhile fun g => g.who != d.pkt.src).drop 1
        else x.grants.eraseIdx (x.grants.findIdx fun g => g.who == d.pkt.src)
      settle (modTxn s (d.pkt.offset / 128) fun t => { t with grants := left }) (d.pkt.offset / 128) := by
  have hany : (x.grants.any fun g => g.who == d.pkt.src) = true := by simpa using hg
  unfold homeCompAck
  simp only [hx, hany, if_true]

theorem snoopAnswer_stray (hw : findWait s (d.pkt.offset / 128) d.pkt = none) : snoopAnswer s d = s := by
  unfold snoopAnswer
  dsimp only
  rw [hw]
  cases (lctl s (d.pkt.offset / 128)).active <;> rfl

variable (hx : (lctl s (d.pkt.offset / 128)).active = some x) (hw : findWait s (d.pkt.offset / 128) d.pkt = some w)
  (hg : (x.grants.find? fun g => g.who == d.pkt.src && g.recalled && w.opcode == opRECALL) = none)
include hx hw hg

/-- A holder that has announced the line it was asked for: the wait is for its announcement now (R194). -/
theorem snoopAnswer_evicting (he : d.pkt.lstate = 0 ∧ d.pkt.evicting = true ∧
      (w.opcode == opFWD_SHARED || w.opcode == opFWD_EXCL || (x.own || recordedOwner s (d.pkt.offset / 128) d.pkt.src)) = true ∧ w.given = false) :
    snoopAnswer s d =
      settle (modTxn (if d.pkt.opcode = opSNOOP_DATA then storeLine s (d.pkt.offset / 128) d.pkt.payload else s) (d.pkt.offset / 128)
        fun t => { t with snoops := t.snoops.map fun y => if y == w then { y with evict := true } else y }) (d.pkt.offset / 128) := by
  obtain ⟨hl, hev, hof, hgiven⟩ := he
  unfold snoopAnswer
  simp only [hx, hw, hg]
  rw [if_pos (by simp only [hl, hev, hof, hgiven]; rfl)]

/-- Any other answer ends its wait, and is noted, or serves its convoy (R203, R215). -/
theorem snoopAnswer_ends (he : ¬(d.pkt.lstate = 0 ∧ d.pkt.evicting = true ∧
      (w.opcode == opFWD_SHARED || w.opcode == opFWD_EXCL || (x.own || recordedOwner s (d.pkt.offset / 128) d.pkt.src)) = true ∧
      w.given = false)) :
    snoopAnswer s d =
      let v := modTxn (if d.pkt.opcode = opSNOOP_DATA then storeLine s (d.pkt.offset / 128) d.pkt.payload else s) (d.pkt.offset / 128)
        fun y => { y with
          snoops := y.snoops.filter (fun z => z != w),
          fwd := y.fwd || ((w.opcode == opFWD_SHARED || w.opcode == opFWD_EXCL) && d.pkt.fwdData && y.kind == .request),
          gone := if d.pkt.lstate = 0 && d.pkt.evicting && !w.given then d.pkt.src :: y.gone else y.gone }
      settle (if x.kind = .convoy && w.opcode = opFWD_EXCL then (if d.pkt.fwdData then v else convoyServe v (d.pkt.offset / 128) w)
        else noteAnswer v (d.pkt.offset / 128) d.pkt.src d.pkt.lstate.toNat) (d.pkt.offset / 128) := by
  unfold snoopAnswer
  simp only [hx, hw, hg]
  rw [if_neg fun h => he (by simpa [and_assoc] using h)]

end

/-- Settles O22: a home's answer by the wait it ends, and a stream's lines one by one. -/
theorem answersTakenOnArrival : Obligations.AnswersTakenOnArrival := by
  unfold Obligations.AnswersTakenOnArrival
  intro s d hl p t line
  refine ⟨fun ho x hx hg => ?_, fun c hc => ?_, fun ho => ?_⟩
  · exact taken_next hl ho (fun _ h => homeCompAck_keeps h) (homeCompAck_grant hx hg)
  · have ha {y : State} (e : snoopAnswer t d = y) : exec c s = .next (progress y) := by
      rcases hc with ⟨rfl, ho⟩ | ⟨rfl, ho⟩ <;> exact taken_next hl ho (fun _ h => snoopAnswer_keeps h) e
    exact ⟨fun hw => ha (snoopAnswer_stray hw), fun x w hx hw hg =>
      ⟨fun he => ha (snoopAnswer_evicting hx hw hg he), fun he => ha (snoopAnswer_ends hx hw hg he)⟩⟩
  · exact taken_next hl ho (fun _ h => homeStream_keeps h) rfl

end Sys2Proof.Machine

/-! PROOFS. Hot lines and tokens (R212, R217), what a home asks again (R209, R210), the twin's changes (R185-R187), memory devices and
dies (R61, R240-R243). -/

namespace Sys2Proof.Machine

section
variable {s : State} {line : Nat}

theorem runKind_plain {o : Byte} (h : o ∈ [opREAD, opREAD_VOL, opWRITE, opWRITE_MASK, opSTREAM_WRITE]) : runKind o = 0 :=
  if_pos (by simpa [or_assoc] using h)

theorem runKind_convoy {o : Byte} (h : o = opTAKE_EXCL ∨ o = opATOMIC) : runKind o = 2 := by
  rcases h with rfl | rfl <;> decide

theorem serveHot_empty (hh : (lctl s line).hot = true) (hq : (lctl s line).queue = []) : serveHot s line = settle (exitHot s line) line := by
  unfold serveHot
  simp only [hh, hq, Bool.not_true, Bool.false_eq_true, if_false]

/-- A hot line with no transaction serves the request at its head by the kind of its run (R212). -/
theorem serveHot_head {r : HReq} {rest : List HReq} (hh : (lctl s line).hot = true) (hq : (lctl s line).queue = r :: rest)
    (ha : (lctl s line).active = none) {k : Nat} (hk : runKind r.d.pkt.opcode = k) (h3 : k < 3) :
    serveHot s line =
      if k = 0 then servePlain (checkDir s line r.d.pkt.src) line r
      else if k = 1 then serveShared (checkDir s line r.d.pkt.src) line r
      else serveConvoy (checkDir s line r.d.pkt.src) line r := by
  subst hk
  unfold serveHot
  simp only [hh, hq, ha, Bool.not_true, Bool.false_eq_true, if_false]
  split
  · rfl
  · split
    · rfl
    · exact if_pos (by omega)

theorem lapseToken_due {token : BitVec 16} (h : ∃ t ∈ s.homes.tokens, t.line = line ∧ t.token = token ∧ t.lapse ≤ s.now) :
    lapseToken s line token =
      let rest := s.homes.tokens.filter fun t => !(t.line == line && t.token == token && decide (t.lapse ≤ s.now))
      settle (exitHot (noteHome { s with homes := { s.homes with tokens := rest } } (storeOf (line * 128))) line) line := by
  obtain ⟨t, ht, hl, htok, hd⟩ := h
  refine if_neg fun he => ?_
  exact List.filter_eq_nil_iff.mp he t ht (by simp [hl, htok, hd])

end

/-- Settles O23: each kind of run by its opcodes. -/
theorem hotLinesServeTheirRuns : Obligations.HotLinesServeTheirRuns := by
  unfold Obligations.HotLinesServeTheirRuns
  intro s line hl
  have hx {y : State} (e : serveHot s line = y) : exec (.hotRunServe line) s = .next (progress y) :=
    event_next hl (serveHot_keeps (Keeps.refl s)) e
  refine ⟨fun hh => ⟨fun hq => hx (serveHot_empty hh hq), fun r rest hq ha => ⟨fun ho => ?_, fun ho => ?_, fun ho => ?_⟩⟩, fun token h => ?_⟩
  · exact hx (serveHot_head hh hq ha (runKind_plain ho) (by decide))
  · exact hx (serveHot_head hh hq ha (k := 1) (by rw [ho]; decide) (by decide))
  · exact hx (serveHot_head hh hq ha (runKind_convoy ho) (by decide))
  · exact event_next hl (lapseToken_keeps (Keeps.refl s)) (lapseToken_due h)

section
variable {s : State} {line : Nat} {x : Txn} (hx : (lctl s line).active = some x)
include hx

section
variable {holder : Epc} {w : SnoopWait} (hw : (x.snoops.find? fun w => w.holder == holder && !w.evict) = some w)
  (hd : w.sentAt + snoopResend s ≤ s.now)
include hw hd

theorem resendSnoop_again (hn : w.sends < 4) : resendSnoop s line holder =
    homEv (sendC2 (modTxn s line fun t => { t with snoops := t.snoops.map fun y =>
      if y == w then { y with sentAt := s.now, sends := y.sends + 1 } else y }) line w.opcode w.holder w.tag w.req) line 19 1 := by
  unfold resendSnoop
  simp only [hx, hw]
  rw [if_neg (Nat.not_lt.mpr hd), if_pos hn]

theorem resendSnoop_lost (hn : 4 ≤ w.sends) : resendSnoop s line holder =
    let owner : Bool := recordedOwner s line holder || (x.kind == .convoy && w.opcode == opFWD_EXCL)
    let t := modTxn s line fun t => { t with snoops := t.snoops.filter fun y => y != w }
    let t := cohErr (lineFault (if owner then poisonAndForget t line else dropHolder t line holder) 0x0302 3 line 0xFF 0 holder.toNat) 3 holder
    let t := modTxn t line fun t => { t with grants := t.grants.filter fun g => !(g.who == holder && g.recalled) }
    settle (convoyServe t line w) line := by
  unfold resendSnoop
  simp only [hx, hw]
  rw [if_neg (Nat.not_lt.mpr hd), if_neg (Nat.not_lt.mpr hn)]

end

theorem checkGrant_due {member : Epc} {g : GrantWait} (hg : (x.grants.find? fun g => g.who == member && !g.recalled) = some g)
    (hd : g.at_ + grantCheck s ≤ s.now) : checkGrant s line member =
      let r := snoopAll s line opRECALL [member]
      modTxn r.1 line fun t => { t with
        snoops := t.snoops ++ r.2, grants := t.grants.map fun y => if y == g then { y with recalled := true } else y } := by
  unfold checkGrant
  simp only [hx, hg]
  rw [if_neg (Nat.not_lt.mpr hd)]

theorem ackMirror_waiting (hm : x.mir = true) :
    ackMirror s line = settle (modTxn (homEv s line 24 (s.now - x.since)) line fun t => { t with mir := false }) line := by
  unfold ackMirror
  simp only [hx, hm, if_true]

end

/-- Settles O24: a snoop wait by its sends, a grant by its age. -/
theorem homesAskAgain : Obligations.HomesAskAgain := by
  unfold Obligations.HomesAskAgain
  refine fun s line x hl hx => ⟨fun holder w hw hd => ⟨fun hn => ?_, fun hn => ?_⟩, fun member g hg hd => ?_⟩
  · exact event_next hl (resendSnoop_keeps (Keeps.refl s)) (resendSnoop_again hx hw hd hn)
  · exact event_next hl (resendSnoop_keeps (Keeps.refl s)) (resendSnoop_lost hx hw hd hn)
  · exact event_next hl (checkGrant_keeps (Keeps.refl s)) (checkGrant_due hx hg hd)

section
variable {s : State} {line : Nat} {v : Line} {ver : Nat} {r : Region}

theorem applyMirror_standby (hr : regionOfLine s line = some r) (hs : r.standby = true) (hp : r.sealed = false) :
    applyMirror s (.data line v ver) = emit (setDirBits (memWriteLine s line (lineBytes v)) line 0) (.twin .mirrorAck) := by
  unfold applyMirror
  simp only [hr, hs, hp, if_true, Bool.false_eq_true, if_false]

theorem applyMirror_own (hr : regionOfLine s line = some r) (hs : r.standby = false) :
    applyMirror s (.data line v ver) = emit s (.twin .mirrorAck) := by
  unfold applyMirror
  simp only [hr, hs, Bool.false_eq_true, if_false]

theorem applyMirror_nowhere (hr : regionOfLine s line = none) : applyMirror s (.data line v ver) = emit s (.twin .mirrorAck) := by
  unfold applyMirror
  simp only [hr]

end

/-- Settles O25: a change of data by the region of its line, one of the directory, and an acknowledgement. -/
theorem mirroredChangesAreApplied : Obligations.MirroredChangesAreApplied := by
  unfold Obligations.MirroredChangesAreApplied
  intro s line hl
  have hx {m : MirrorMsg} {y : State} (e : applyMirror s m = y) : exec (.twinMirrorReceive m) s = .next (progress y) :=
    event_next hl (applyMirror_keeps (Keeps.refl s)) e
  exact ⟨fun v ver => ⟨fun r hr hs hp => hx (applyMirror_standby hr hs hp), fun r hr hs => hx (applyMirror_own hr hs),
    fun hr => hx (applyMirror_nowhere hr)⟩, fun hs owned => hx rfl,
    fun x ha hm => event_next hl (ackMirror_keeps (Keeps.refl s)) (ackMirror_waiting ha hm)⟩

/-! ## Memory devices and dies -/

section
variable {s : State}

/-- What the training of a device needs to end (R242). -/
theorem trainingDone_open {n : Nat} (hp : 2 ≤ phase s) (he : deviceExists s n = true) (ht : vget false s.homes.trained n = false)
    (hw : pwrState s = 0) : ¬(phase s < 2 || !deviceExists s n || vget false s.homes.trained n || 1 ≤ pwrState s) = true := by
  simp [he, ht, hw, Nat.not_lt.mpr hp]

theorem trainingDone_up {n : Nat} {stored : Bool} (ho : ¬(phase s < 2 || !deviceExists s n || vget false s.homes.trained n || 1 ≤ pwrState s) = true)
    (hs : stored = true → vget false s.homes.storedMem n = true ∧ bitOf s MEM_TRAIN_CFG 0 = false) :
    trainingDone s n true stored =
      let t := { s with homes := { s.homes with trained := vset s.homes.trained n true } }
      setBitOf (setBitOf { t with homes := { t.homes with storedMem := vset t.homes.storedMem n true } } MEM_STATUS n true)
        MEM_TRAIN_STATUS n stored := by
  have hn : ¬(stored && (!vget false s.homes.storedMem n || bitOf s MEM_TRAIN_CFG 0 || !true)) = true := by
    cases stored with
    | false => simp
    | true => obtain ⟨hv, hb⟩ := hs rfl; simp [hv, hb]
  exact (if_neg ho).trans ((if_neg hn).trans (if_pos rfl))

theorem trainingDone_failed {n : Nat} (ho : ¬(phase s < 2 || !deviceExists s n || vget false s.homes.trained n || 1 ≤ pwrState s) = true) :
    trainingDone s n false false =
      deviceLost (setBitOf { s with homes := { s.homes with trained := vset s.homes.trained n true } } MEM_TRAIN_STATUS (12 + n) true) n 0x0408 :=
  (if_neg ho).trans ((if_neg (by simp)).trans (if_neg (by simp)))

theorem markingDone_marking {cellar : Bool} (hb : bitOf s MEM_STATUS (if cellar then 13 else 12) = true) (ht : tierTrained s cellar = true) :
    markingDone s cellar =
      let t := setBitOf s MEM_STATUS (if cellar then 13 else 12) false
      forEach (waitingLines t) t settle := if_neg (by simp [hb, ht])

theorem evacRestored_waiting {i : Nat} (hb : bitOf s MEM_STATUS 14 = true) (hc : bitOf s MEM_STATUS 12 = false)
    (ht : tierTrained s false = true) (hv : (validRegions s).contains i = true) :
    evacRestored s i =
      let t := forEach (s.homes.evacSaved.filter fun l => (regionOf s i).holds (l * 128)) s restoreLine
      if t.homes.evacSaved = [] then setBitOf t MEM_STATUS 14 false else t := by
  refine (if_neg (by simp [hb, hc, ht])).trans ?_
  simp only [hv, if_true]

end

/-- Settles O27: each event of a device or a die by its condition. -/
theorem devicesAndDiesComeAndGo : Obligations.DevicesAndDiesComeAndGo := by
  unfold Obligations.DevicesAndDiesComeAndGo
  refine fun s hl => ⟨fun dev stored hp he ht hw => ?_, fun dev hu => ?_, fun cellar hb ht => ?_, fun i hb hc ht hv => ?_, fun d hd => ?_⟩
  · have ho := trainingDone_open hp he ht hw
    exact ⟨fun hs => event_next hl (trainingDone_keeps (Keeps.refl s)) (trainingDone_up ho hs),
      event_next hl (trainingDone_keeps (Keeps.refl s)) (trainingDone_failed ho)⟩
  · exact event_next hl (memLost_keeps (Keeps.refl s)) (if_pos hu)
  · exact event_next hl (markingDone_keeps (Keeps.refl s)) (markingDone_marking hb ht)
  · exact event_next hl (evacRestored_keeps (Keeps.refl s)) (evacRestored_waiting hb hc ht hv)
  · exact event_next hl (dieLost_keeps (Keeps.refl s)) (if_neg (ne_true_of_eq_false hd))

end Sys2Proof.Machine

/-! PROOFS. The registers that act when written: a write that nothing turns away is the operation its register stands for. -/

namespace Sys2Proof.Machine

/-- Fields whose values are all legal hold no reserved encoding (R11). -/
theorem reservedIn_of_legal {off v : Nat} {es : List (FieldRow × Nat)} (h : es.all (fun e => legalEnc e.1 e.2) = true) :
    reservedIn off es v = false := by
  refine List.any_eq_false.mpr fun e he => ?_
  have := List.all_eq_true.mp h e he
  simp [this]

section
variable {s t : State} {p : Path} {off v : Nat} {fs : List FieldRow} {is : List Nat}

/-- A path's write of a word that is a command, with legal values. -/
theorem put_next {wide : Bool} (h : MayPut s p off v) (ha : off % 4 = 0) (hl : v < 2 ^ 32)
    (hr : rowIs (hostTouch s p).part.hz7134 off fs is wide = true) (he : commandWrite (hostTouch s p) p is off 0 1 v = some t)
    (hv : (fieldsOf fs 1 v).all (fun e => legalEnc e.1 e.2) = true) (hc : fs.any (fun f => f.acc == .rwc) = false := by rfl)
    (hw : (fs.filter fun f => decide (f.word < 1)).any (fun f => f.acc.writable) = true := by rfl) :
    (Host.Outcome.next (access s fun s => pathWrite s p off 4 v) : Host.Outcome State Fault Refusal) = .next (progress t) :=
  access_put h.live (pathWrite_put h ha hl hr hc hw (reservedIn_of_legal hv) he)

/-- A path's write of a 64-bit register that is a command, with legal values. -/
theorem put_next_wide (h : MayPut s p off v) (ha : off % 8 = 0) (hl : v < 2 ^ 64)
    (hr : rowIs (hostTouch s p).part.hz7134 off fs is true = true) (he : commandWrite (hostTouch s p) p is off 0 2 v = some t)
    (hv : (fieldsOf fs 2 v).all (fun e => legalEnc e.1 e.2) = true) (hc : fs.any (fun f => f.acc == .rwc) = false := by rfl)
    (hw : (fs.filter fun f => decide (f.word < 2)).any (fun f => f.acc.writable) = true := by rfl) :
    (Host.Outcome.next (access s fun s => pathWrite s p off 8 v) : Host.Outcome State Fault Refusal) = .next (progress t) :=
  access_put h.live (pathWrite_put_wide h ha hl hr hc hw (reservedIn_of_legal hv) he)

end

/-! ## Links -/

theorem b2n_lt_two (b : Bool) : b2n b < 2 := by cases b <;> decide

theorem alignWrite_manual (s : State) (n : Nat) (on : Bool) : alignWrite s n (b2n on) = manualWritten s n on := by cases on <;> rfl

theorem fldOf_one_bit (s : State) (r n : Nat) : fldOf s r n n = b2n (bitOf s r n) := by
  unfold fldOf bitOf bits bit b2n
  rw [Nat.add_sub_cancel_left, pow_one]
  rcases Nat.mod_two_eq_zero_or_one (rd s r / 2 ^ n) with h | h <;> rw [h] <;> rfl

theorem alignWrite_slip (s : State) (n : Nat) (b : Bool) : alignWrite s n (2 + b2n b) = slipWritten (manualWritten s n b) n := by cases b <;> rfl

/-- Settles O30: each register of a link by its own operation. -/
theorem linkRegistersAct : Obligations.LinkRegistersAct := by
  unfold Obligations.LinkRegistersAct
  refine fun s path => ⟨fun n on h => ?_, fun n h => ?_, fun d i h => ?_, fun p h => ?_⟩
  · have hlt := b2n_lt_two on
    exact put_next h (by simp only [LNK_LANE_ALIGN]; omega) (by omega) (row_LNK_LANE_ALIGN _ n)
      ((commandWrite_LNK_LANE_ALIGN n.isLt).trans (congrArg some (alignWrite_manual _ _ _))) rfl
  · have hput : pathWrite s path (LNK_LANE_ALIGN n) 4 (2 + fldOf s (LNK_LANE_ALIGN n) 0 0) =
        slipWritten (manualWritten (hostTouch s path) n (bitOf s (LNK_LANE_ALIGN n) 0)) n := by
      rw [fldOf_one_bit] at h ⊢
      have hlt := b2n_lt_two (bitOf s (LNK_LANE_ALIGN n) 0)
      exact pathWrite_put h (by simp only [LNK_LANE_ALIGN]; omega) (by omega) (row_LNK_LANE_ALIGN _ n) rfl rfl (reservedIn_of_legal rfl)
        ((commandWrite_LNK_LANE_ALIGN n.isLt).trans (congrArg some (alignWrite_slip _ _ _)))
    exact congrArg Host.Outcome.next ((access_live (f := fun s => pathWrite s path (LNK_LANE_ALIGN n) 4 (2 + fldOf s (LNK_LANE_ALIGN n) 0 0)) h.live
      (pathWrite_keeps (Keeps.refl s))).trans (congrArg progress hput))
  · exact put_next h (by simp only [LNK_DROOP]; omega) (by decide) (row_LNK_DROOP _ d i) (commandWrite_LNK_DROOP d.isLt i.isLt) rfl
  · exact put_next h (by simp only [LNK_PORT_CMD]; omega) (by decide) (row_LNK_PORT_CMD _ p) (commandWrite_LNK_PORT_CMD p.isLt) rfl

/-! ## The Hall -/

theorem ctxStart_disabled {s : State} {c : Nat} (h : bitOf s (HAL_CTX_CFG c) 10 = false) :
    ctxStart s c = setBitOf s (HAL_CTX_STATUS c) 3 true := if_pos (by rw [h]; rfl)

/-- Settles O31: each register of the Hall by its own operation. -/
theorem hallRegistersAct : Obligations.HallRegistersAct := by
  unfold Obligations.HallRegistersAct
  refine fun s path => ⟨fun k v h => ?_, fun c => ⟨fun h => ?_, fun h => ?_, fun va h => ?_⟩⟩
  · exact put_next h (by simp only [HAL_SEM_ADD]; omega) v.isLt (rowIs_all (row_HAL_SEM_ADD k) (by simp only [HAL_SEM_ADD]; omega))
      (commandWrite_HAL_SEM_ADD k.isLt) rfl
  · have hs : exec (.ctxStart path c) s = .next (progress (ctxStart (hostTouch s path) c)) :=
      put_next h (by simp only [HAL_CTX_CTRL]; omega) (by decide) (rowIs_all (row_HAL_CTX_CTRL c) (by simp only [HAL_CTX_CTRL]; omega))
        (commandWrite_HAL_CTX_CTRL c.isLt) rfl
    exact ⟨hs, fun hb => hs.trans (by rw [ctxStart_disabled hb])⟩
  · exact put_next h (by simp only [HAL_CTX_CTRL]; omega) (by decide) (rowIs_all (row_HAL_CTX_CTRL c) (by simp only [HAL_CTX_CTRL]; omega))
      (commandWrite_HAL_CTX_CTRL c.isLt) rfl
  · exact put_next_wide h (by simp only [HAL_CTX_LIST]; omega) va.isLt (rowIs_all (row_HAL_CTX_LIST c) (by simp only [HAL_CTX_LIST]; omega))
      (commandWrite_HAL_CTX_LIST c.isLt) rfl

/-! ## Faults -/

theorem ringTailWrite_word (s : State) (v : Word) : ringTailWrite s v.toNat =
    if (rd s FLT_RING_HEAD + 2 ^ 32 - v.toNat) % 2 ^ 32 ≤ 65536 then wr s FLT_RING_TAIL v.toNat else s := by
  unfold ringTailWrite
  rw [Nat.mod_eq_of_lt v.isLt]

/-- Settles O32: each register of the faults by its own operation. -/
theorem faultRegistersAct : Obligations.FaultRegistersAct := by
  unfold Obligations.FaultRegistersAct
  refine fun s path => ⟨fun h => ?_, fun h => ?_, fun v h => ?_, fun k h => ?_⟩
  · exact put_next h rfl (by decide) (rowIs_all row_FLT_TWIN_CMD (by decide)) commandWrite_FLT_TWIN_CMD rfl
  · exact put_next h rfl (by decide) (rowIs_all row_FLT_QUEUE_POP (by decide)) commandWrite_FLT_QUEUE_POP rfl
  · exact put_next h rfl v.isLt (rowIs_all row_FLT_RING_TAIL (by decide))
      (commandWrite_FLT_RING_TAIL.trans (congrArg some (ringTailWrite_word _ v))) rfl
  · exact put_next h (by simp only [FLT_OVF]; omega) (by decide) (rowIs_all (row_FLT_OVF k) (by simp only [FLT_OVF]; omega))
      (commandWrite_FLT_OVF k.isLt) rfl

/-! ## Clasp and the configuration -/

/-- A write of CFG_CMD with an OP and flags that are not reserved. -/
theorem cfgCmd_next {s : State} {path : Path} {v : Nat} (h : MayPut s path CFG_CMD v) (hl : v < 32) (hop : 1 ≤ v % 8) :
    (Host.Outcome.next (access s fun s => pathWrite s path CFG_CMD 4 v) : Host.Outcome State Fault Refusal) =
      .next (progress (cfgCmd (hostTouch s path) v)) := by
  have hv : ∀ v, v < 32 → 1 ≤ v % 8 →
      (fieldsOf [fld 0 2 0 .wo [(1, 7)], fld 0 3 3 .wo, fld 0 4 4 .wo] 1 v).all (fun e => legalEnc e.1 e.2) = true := by decide
  exact put_next h rfl (by omega) (rowIs_all row_CFG_CMD (by decide)) commandWrite_CFG_CMD (hv v hl hop)

/-- A write of SEC_W_CMD whose values are legal, or leave COUNT out where OP has none. -/
theorem secCmd_next {s : State} {path : Path} {w : Fin 5} {v : Nat} (h : MayPut s path (SEC_W_CMD w) v) (hl : v < 2 ^ 32) (hop : 1 ≤ v % 4)
    (hc : v % 4 = 1 → 1 ≤ v / 4 % 256 ∧ v / 4 % 256 ≤ 128) :
    (Host.Outcome.next (access s fun s => pathWrite s path (SEC_W_CMD w) 4 v) : Host.Outcome State Fault Refusal) =
      .next (progress (secCmd (hostTouch s path) path w v)) := by
  refine access_put h.live (pathWrite_put h (by simp only [SEC_W_CMD]; omega) hl (rowIs_all (row_SEC_W_CMD w) (by simp only [SEC_W_CMD]; omega))
    rfl rfl ?_ (commandWrite_SEC_W_CMD w.isLt))
  have hop' : v % 4 ≤ 3 := by omega
  have hwin : (secWindow (SEC_W_CMD w)).isSome = true := by
    fin_cases w <;> rfl
  by_cases h1 : v % 4 = 1
  · obtain ⟨hlo, hhi⟩ := hc h1
    refine reservedIn_of_legal ?_
    simp [fieldsOf, fld, legalEnc, bits, h1, hlo, hhi]
  · simp [reservedIn, fieldsOf, fld, legalEnc, bits, hwin, h1, hop, hop']

theorem windowCmd_request {s : State} {w count part me : Nat} {scope : Bool} (h1 : 1 ≤ count) (h2 : count ≤ 128) :
    windowCmd s w 1 count scope part me =
      enqueue (setFld (setFld (setWState s w 1) (SEC_W_STATUS w) 7 3 0) (SEC_W_STATUS w) 15 8 0) (.request w (windowItems s w count) me) :=
  if_pos (c := (decide (1 ≤ count) && decide (count ≤ 128)) = true) (by simp [h1, h2])

/-- Settles O33: SEC_W_CMD by its OP, CFG_CMD by its OP and flags. -/
theorem claspAndConfigurationCommands : Obligations.ClaspAndConfigurationCommands := by
  unfold Obligations.ClaspAndConfigurationCommands
  refine fun s path => ⟨fun w count h1 h2 h => ?_, fun w scope part h => ?_, fun w h => ?_, fun h => ?_, fun annex h => ?_, fun reset h => ?_,
    fun h => ?_, fun h => ?_, fun h => ?_, fun h => ?_⟩
  · refine (secCmd_next h (by omega) (by omega) (by omega)).trans ?_
    have hop : (1 + 4 * count.toNat) % 4 = 1 := by omega
    have hcount : (1 + 4 * count.toNat) / 4 % 256 = count.toNat := by omega
    rw [secCmd, hop, hcount, windowCmd_request h1 h2]
  · have hs := b2n_lt_two scope
    have hp := part.isLt
    refine (secCmd_next h (by omega) (by omega) (by omega)).trans ?_
    have hop : (2 + 2 ^ 10 * b2n scope + 2 ^ 11 * part.toNat) % 4 = 2 := by omega
    have hcount : (2 + 2 ^ 10 * b2n scope + 2 ^ 11 * part.toNat) / 4 % 256 = 0 := by omega
    have hscope : bit (2 + 2 ^ 10 * b2n scope + 2 ^ 11 * part.toNat) 10 = scope := by
      have : (2 + 2 ^ 10 * b2n scope + 2 ^ 11 * part.toNat) / 2 ^ 10 % 2 = b2n scope := by omega
      unfold bit
      rw [this]
      cases scope <;> rfl
    have hpart : bits (2 + 2 ^ 10 * b2n scope + 2 ^ 11 * part.toNat) 18 11 = part.toNat := by unfold bits; omega
    rw [secCmd, hop, hcount, hscope, hpart]
  · exact secCmd_next h (by decide) (by decide) (by decide)
  · exact cfgCmd_next h (by decide) (by decide)
  · refine (cfgCmd_next h (by cases annex <;> decide) (by cases annex <;> decide)).trans ?_
    cases annex <;> rfl
  · refine (cfgCmd_next h (by cases reset <;> decide) (by cases reset <;> decide)).trans ?_
    cases reset <;> rfl
  · exact cfgCmd_next h (by decide) (by decide)
  · exact cfgCmd_next h (by decide) (by decide)
  · exact cfgCmd_next h (by decide) (by decide)
  · exact cfgCmd_next h (by decide) (by decide)

/-! ## Power -/

/-- A write of PWR_CMD with an OP that is not reserved. -/
theorem pwrCmd_next {s : State} {path : Path} {v : Nat} (h : MayPut s path PWR_CMD v) (hv : v ∈ [1, 3, 4, 8]) :
    (Host.Outcome.next (access s fun s => pathWrite s path PWR_CMD 4 v) : Host.Outcome State Fault Refusal) =
      .next (progress (pwrCmd (hostTouch s path) (path == .i3c) v)) := by
  have hlegal : ∀ v ∈ [1, 3, 4, 8], v < 2 ^ 32 ∧
      (fieldsOf [fld 0 2 0 .wo [(0, 1), (3, 4)], fld 0 3 3 .wo] 1 v).all (fun e => legalEnc e.1 e.2) = true := by decide
  obtain ⟨hl, he⟩ := hlegal v hv
  exact put_next h rfl hl (rowIs_all row_PWR_CMD (by decide)) commandWrite_PWR_CMD he

theorem capWritten_halfword (s : State) (w : BitVec 16) : capWritten s w.toNat = setPwr (wr s PWR_CAP w.toNat)
    { s.pwr with capRaised := w.toNat == 0 || (fldOf s PWR_CAP 15 0 != 0 && decide (fldOf s PWR_CAP 15 0 < w.toNat)) } := by
  unfold capWritten
  rw [Nat.mod_eq_of_lt w.isLt]

/-- Settles O34: PWR_CMD by its OP, and PWR_CAP by each path. -/
theorem powerCommandsAct : Obligations.PowerCommandsAct := by
  unfold Obligations.PowerCommandsAct
  refine fun s path => ⟨fun h => ?_, fun h => ?_, fun h => ?_, fun h => ?_, fun w h => ?_, fun v h => ?_⟩
  · exact pwrCmd_next h (by decide)
  · exact pwrCmd_next h (by decide)
  · exact pwrCmd_next h (by decide)
  · exact pwrCmd_next h (by decide)
  · exact put_next h rfl (by omega) (rowIs_all row_PWR_CAP (by decide)) (commandWrite_PWR_CAP.trans (congrArg some (capWritten_halfword _ w))) rfl
  · exact put_next h rfl v.isLt (rowIs_all row_PWR_CAP (by decide)) commandWrite_PWR_CAP rfl

/-! ## Host functions and counters -/

theorem noteTail_word (s : State) (j f : Nat) (v : Word) : noteTail s j f v.toNat =
    if (rd s (HST_FN_NOTE_HEAD j f) + 2 ^ 32 - v.toNat) % 2 ^ 32 ≤ 256 then wr s (HST_FN_NOTE_TAIL j f) v.toNat else s := by
  unfold noteTail
  rw [Nat.mod_eq_of_lt v.isLt]

theorem cntCmd_clear (s : State) (p : Path) (e : BitVec 12) : cntCmd s p (1 + 4 * e.toNat) =
    if maySelect s p e.toNat then cntOp (countGap s) (.clear e.toNat) else s := by
  have hop : (1 + 4 * e.toNat) % 4 = 1 := by omega
  have he : (1 + 4 * e.toNat) / 4 % 4096 = e.toNat := by omega
  unfold cntCmd
  simp only [hop, he, if_true]

/-- CNT_CMD's values with OP 1 or 2 are legal. -/
theorem cntCmd_legal {v : Nat} (h1 : 1 ≤ v % 4) (h2 : v % 4 ≤ 2) :
    (fieldsOf [fld 0 1 0 .wo [(1, 2)], fld 0 13 2 .wo] 1 v).all (fun e => legalEnc e.1 e.2) = true := by
  simp [fieldsOf, fld, legalEnc, bits, h1, h2]

/-- Settles O35: each register of the host functions and the counters by its own operation. -/
theorem hostAndCounterRegistersAct : Obligations.HostAndCounterRegistersAct := by
  unfold Obligations.HostAndCounterRegistersAct
  refine fun s path => ⟨fun j f => ⟨fun a v h => ?_, fun a v h => ?_, fun h => ?_, fun v h => ?_⟩, fun mask h => ?_, fun e h => ?_, fun h => ?_,
    fun w v h => ?_⟩
  · exact put_next_wide h (by simp only [HST_AP_BASE, HST_FN]; omega) v.isLt
      (rowIs_all (row_HST_AP_BASE j f a) (by simp only [HST_AP_BASE, HST_FN]; omega)) (commandWrite_HST_AP_BASE j.isLt f.isLt a.isLt) rfl
  · exact put_next h (by simp only [HST_AP_CTRL, HST_FN]; omega) v.isLt
      (rowIs_all (row_HST_AP_CTRL j f a) (by simp only [HST_AP_CTRL, HST_FN]; omega)) (commandWrite_HST_AP_CTRL j.isLt f.isLt a.isLt) rfl
  · have hj : Fin.ofNat 2 j.val = j := Fin.ext (Nat.mod_eq_of_lt j.isLt)
    have hf : Fin.ofNat 128 f.val = f := Fin.ext (Nat.mod_eq_of_lt f.isLt)
    have hcmd := commandWrite_HST_FN_FENCE (s := hostTouch s path) (p := path) j.isLt f.isLt (v := 1)
    rw [hj, hf] at hcmd
    exact put_next h (by simp only [HST_FN_FENCE, HST_FN]; omega) (by decide)
      (rowIs_all (row_HST_FN_FENCE j f) (by simp only [HST_FN_FENCE, HST_FN]; omega)) hcmd rfl
  · exact put_next h (by simp only [HST_FN_NOTE_TAIL, HST_FN]; omega) v.isLt
      (rowIs_all (row_HST_FN_NOTE_TAIL j f) (by simp only [HST_FN_NOTE_TAIL, HST_FN]; omega))
      ((commandWrite_HST_FN_NOTE_TAIL j.isLt f.isLt).trans (congrArg some (noteTail_word _ _ _ v))) rfl
  · exact put_next_wide h rfl mask.isLt (rowIs_all row_CNT_SNAP (by decide)) commandWrite_CNT_SNAP rfl
  · exact put_next h rfl (by omega) (rowIs_all row_CNT_CMD (by decide)) (commandWrite_CNT_CMD.trans (congrArg some (cntCmd_clear _ _ e)))
      (cntCmd_legal (by omega) (by omega))
  · exact put_next h rfl (by decide) (rowIs_all row_CNT_CMD (by decide)) commandWrite_CNT_CMD (cntCmd_legal (by decide) (by decide))
  · exact put_next h (by simp only [CNT_CHAIN]; omega) v.isLt (rowIs_all (row_CNT_CHAIN w) (by simp only [CNT_CHAIN]; omega))
      (commandWrite_CNT_CHAIN w.isLt) rfl

end Sys2Proof.Machine

/-! PROOFS. Reads and the register window (R8, R45, R119, R460), and the Hall: dispatch, waits, completions, walks and the array
(chapters 9 and 10). -/

namespace Sys2Proof.Machine

section
variable {s : State} {p : Path}

theorem pathRead_next {size : Nat} {off : Nat} (hl : live s = true) (hp : pathThere s p = true) :
    (Host.Outcome.next (access s fun s => pathRead s p off size) : Host.Outcome State Fault Refusal) =
      .next (progress (emit (mrsRead (hostTouch s p) p off size).2.1 (.readData p (BitVec.ofNat 64 (mrsRead (hostTouch s p) p off size).1)))) := by
  rw [access_live (f := fun s => pathRead s p off size) hl (pathRead_keeps (Keeps.refl s)), pathRead, onPath_there hp]

theorem pathThere_i3c (hl : live s = true) : pathThere s .i3c = true := by
  simp only [live, Bool.and_eq_true] at hl
  exact hl.1

theorem findReg_PWR_COUNTER (hz : Bool) : (findReg hz PWR_COUNTER).isSome = true := by cases hz <;> rfl

/-- A read of PWR_COUNTER is the low word, and the high word is latched for the path (R443). -/
theorem readWord_PWR_COUNTER (hm : mayRead s p PWR_COUNTER = true) : readWord s p PWR_COUNTER =
    (s.now % 2 ^ 32, setPwr s { s.pwr with
      counterLatch := (p, BitVec.ofNat 32 (s.now / 2 ^ 32)) :: s.pwr.counterLatch.filter fun e => e.1 != p }, false) := by
  obtain ⟨x, hf⟩ := Option.isSome_iff_exists.mp (findReg_PWR_COUNTER s.part.hz7134)
  have hg : hallGone s PWR_COUNTER = false := rfl
  have hs : slotOfOff PWR_COUNTER = none := by decide
  unfold readWord
  rw [hf]
  dsimp only
  rw [if_neg (by simp [hm]), hg, hs]
  rfl

theorem windowRead_past {d : Delivered} (h : 2 ^ 26 ≤ d.pkt.offset) : windowRead s d = respond s d.pkt stNOREGION 0 0 0 [] := if_pos h

theorem windowRead_inside {d : Delivered} (h : d.pkt.offset < 2 ^ 26) : windowRead s d =
    let r := mrsRead s (.window d.pkt.src) d.pkt.offset (2 ^ d.pkt.asize)
    if r.2.2 then respond r.2.1 d.pkt stPARTITION 0 0 0 [] else respond r.2.1 d.pkt stOK 0 0 0 (leBytes (2 ^ d.pkt.asize) r.1) :=
  if_neg (Nat.not_le.mpr h)

theorem windowWrite_past {d : Delivered} (h : 2 ^ 26 ≤ d.pkt.offset) : windowWrite s d = respond s d.pkt stNOREGION 0 0 0 [] := if_pos h

theorem windowWrite_inside {d : Delivered} (h : d.pkt.offset < 2 ^ 26) : windowWrite s d =
    let r := mrsWrite s (.window d.pkt.src) d.pkt.offset (2 ^ d.pkt.asize) (leAt d.pkt.payload 0 (2 ^ d.pkt.asize))
    respond (if d.dup then s else r.1) d.pkt (if r.2 then stPARTITION else stOK) 0 0 0 [] := if_neg (Nat.not_le.mpr h)

end

/-- Settles O36: a read of a path is `mrsRead`'s, and the window's packets are by the offset. -/
theorem readsAndWindowAccessesAnswer : Obligations.ReadsAndWindowAccessesAnswer := by
  unfold Obligations.ReadsAndWindowAccessesAnswer
  refine ⟨fun s path hl => ⟨fun hp => ⟨fun off size => pathRead_next hl hp, fun k size => pathRead_next hl hp, fun hm => ?_⟩,
    fun off => ⟨pathRead_next hl (pathThere_i3c hl), pathRead_next hl (pathThere_i3c hl)⟩⟩, fun s d hl => ⟨fun ho => ⟨fun h => ?_, fun h => ?_⟩, fun ho => ⟨fun h => ?_, fun h => ?_⟩⟩⟩
  · refine (pathRead_next hl hp).trans ?_
    rw [mrsRead_word (.inr (.inr (by decide))) (by decide), readWord_PWR_COUNTER hm]
  · exact taken_next hl ho (fun _ h => windowRead_keeps h) (windowRead_past h)
  · exact taken_next hl ho (fun _ h => windowRead_keeps h) (windowRead_inside h)
  · exact taken_next hl ho (fun _ h => windowWrite_keeps h) (windowWrite_past h)
  · exact taken_next hl ho (fun _ h => windowWrite_keeps h) (windowWrite_inside h)

/-! ## Dispatch and completion -/

section
variable {s : State} {c : Nat} {l : Line}

/-- A command that fails a check of R281 halts its context. -/
theorem dispatch_bad (hf : (hctx s c).fetched = some l) (he : dispatchErr s c l ≠ 0) :
    dispatch s c = haltCtx s c (dispatchErr s c l) (rd64 s (HAL_CTX_LIST c)) := by
  unfold dispatch
  simp only [hf]
  exact if_pos he

/-- Any other is queued and what may begin begins. -/
theorem dispatch_good (c : Fin 16) (hf : (hctx s c).fetched = some l) (he : dispatchErr s c l = 0) :
    dispatch s c =
      let va := rd64 s (HAL_CTX_LIST c)
      let k : HCmd := { id := s.hall.nextId, va := BitVec.ofNat 48 va, body := l, inst := instOf c l }
      let t := setHall s { s.hall with nextId := s.hall.nextId + 1, turn := vset s.hall.turn (c % 2) c }
      let t := wr64 (setHctx t c { hctx t c with fetched := none, cmds := (hctx t c).cmds ++ [k] }) (HAL_CTX_LIST c) ((va + 128) % 2 ^ 48)
      let t := ev (ev t 1725 1) (1800 + 4 * c + 1) 1
      let t := if cOp l = 5 then startFence t (.hall c) [hallEpc t] none else t
      startFetch (startAll t c true) c none := by
  have hc : Fin.ofNat 16 c.val = c := Fin.ext (Nat.mod_eq_of_lt c.isLt)
  unfold dispatch
  simp only [hf, hc]
  refine (if_neg (not_not_intro he)).trans ?_
  split
  case h_1 h => rw [if_neg (by omega)]
  case h_2 h => rw [if_pos h]
  case h_3 h => rw [if_neg h]

theorem dispatchRow_chosen {pick : Line → Bool} (hf : (hctx s c).fetched = some l) (hp : pick l = true) (hc : coreChoice s (c % 2) = some c) :
    dispatchRow s c pick = dispatch s c := by
  unfold dispatchRow
  simp only [hf, hp, hc, decide_true, Bool.and_self, if_true]

/-- The dispatch of a row of R248 by the context its core chooses. -/
theorem dispatch_next {pick : Line → Bool} {x : State} (hl : live s = true) (hf : (hctx s c).fetched = some l) (hc : coreChoice s (c % 2) = some c)
    (hp : pick l = true) (e : dispatch s c = x) :
    (Host.Outcome.next (event s fun s => dispatchRow s c pick) : Host.Outcome State Fault Refusal) = .next (progress x) :=
  event_next hl (dispatchRow_keeps (Keeps.refl s)) ((dispatchRow_chosen hf hp hc).trans e)

end

/-- Settles O37: every row dispatches the command whose opcode, and for DMA whose KIND, it is. -/
theorem commandsAreDispatched : Obligations.CommandsAreDispatched := by
  unfold Obligations.CommandsAreDispatched
  intro s c l i hl hf hc hi va
  have hx {y : State} (e : dispatch s c = y) : exec i s = .next (progress y) := by
    rcases hi with ⟨rfl, h⟩ | ⟨rfl, h⟩ | ⟨rfl, h, hd⟩ | ⟨rfl, h, hd⟩ | ⟨rfl, h, hd⟩ | ⟨rfl, h, hd⟩ | ⟨rfl, h, hd⟩ | ⟨rfl, h, hd⟩ | ⟨rfl, h, hd⟩ |
      ⟨rfl, h, hd⟩ | ⟨rfl, h, hd⟩ | ⟨rfl, h⟩ | ⟨rfl, h⟩ | ⟨rfl, h⟩ | ⟨rfl, h⟩ | ⟨rfl, h⟩
    all_goals
      refine dispatch_next hl hf hc ?_ e
      simp [*]
  exact ⟨fun he => hx (dispatch_bad hf he), fun he => hx (dispatch_good c hf he)⟩

section
variable {s : State} {c : Nat}

theorem waitSatisfied_due {l : Line} (hf : (hctx s c).fetched = some l) (hs : ctxState s c = 2) (hw : waitOk s c l = true) (hh : hallOn s = true) :
    waitSatisfied s c =
      if coreChoice (setCtxState s c 1) (c % 2) = some c then dispatch (setCtxState s c 1) c else setCtxState s c 1 := by
  unfold waitSatisfied
  simp only [hf]
  exact if_pos (by simp [hs, hw, hh])

theorem completeCmd_finished {id : Nat} {k : HCmd} (hk : findCmd s c id = some k) (hf : cmdFinished s c k = true) :
    completeCmd s c id =
      startFetch (startAll (removeCmd (if k.err = 0 then s else haltCtx s c k.err k.va.toNat) c k) c false) c none := by
  unfold completeCmd
  simp only [hk]
  exact if_neg (by simp [hf])

theorem ctxCfgApply_busy (h : ctxState s c ≠ 0) : ctxCfgApply s c = s := if_pos (by simp [h])

/-- Parameters that leave a context's Pantry and its partition as they were. -/
theorem ctxCfgApply_keepsPantry (hp : (hctx s c).pendingCfg ≠ []) (hs : ctxState s c = 0) (hn : (hctx s c).cmds = []) {u : State}
    (hu : u = (let t := forEach (hctx s c).pendingCfg s fun s e => wr s e.1 e.2.toNat
      setHctx (dropTranslations t c) c { hctx t c with pendingCfg := [] }))
    (hw : rd u (HAL_CTX_PANTRY c) = rd s (HAL_CTX_PANTRY c)) (hq : fldOf u (HAL_CTX_CFG c) 7 0 = fldOf s (HAL_CTX_CFG c) 7 0) :
    ctxCfgApply s c = u := by
  refine (if_neg (by simp [hp, hs, hn])).trans ?_
  subst hu
  exact if_pos (Bool.or_eq_true_iff.mpr (.inl (by rw [Bool.and_eq_true, decide_eq_true_eq, decide_eq_true_eq]; exact ⟨hq.symm, hw.symm⟩)))

end

/-- Settles O38: waits, release points, completions and parameters by their conditions. -/
theorem hallCommandsGoOn : Obligations.HallCommandsGoOn := by
  unfold Obligations.HallCommandsGoOn
  refine fun s c hl => ⟨fun l hf hs hw hh => ?_, ?_, fun id k hk hf => ?_, fun _ hs => ?_, fun hp hs hn => ?_⟩
  · exact event_next hl (waitSatisfied_keeps (Keeps.refl s)) (waitSatisfied_due hf hs hw hh)
  · exact event_next hl (startAll_keeps (Keeps.refl s)) rfl
  · exact event_next hl (completeCmd_keeps (Keeps.refl s)) (completeCmd_finished hk hf)
  · exact event_next hl (ctxCfgApply_keeps (Keeps.refl s)) (ctxCfgApply_busy hs)
  · intro t u hw hq
    exact event_next hl (ctxCfgApply_keeps (Keeps.refl s)) (ctxCfgApply_keepsPantry hp hs hn rfl hw hq)

/-! ## What a completion adds to the semaphores -/

theorem rd_setHctx (s : State) (c : Nat) (x : HallCtx) (o : Nat) : rd (setHctx s c x) o = rd s o := rfl

/-- A semaphore is neither a context's status nor an event's register. -/
theorem rd_setCtxState_sem (s : State) {c n v : Nat} (hc : c < 16) (hn : n < 256) : rd (setCtxState s c v) (HAL_SEM n) = rd s (HAL_SEM n) := by
  have hne : HAL_CTX_STATUS c ≠ HAL_SEM n := by simp only [HAL_CTX_STATUS, HAL_SEM]; omega
  have hlow : HAL_SEM n < 0x2C00000 := by simp only [HAL_SEM]; omega
  unfold setCtxState
  dsimp only
  rw [rd_setFld_other _ hne]
  have hev (a : State) : rd (if ctxState a c = 2 && v != 2 then ev a (1800 + 4 * c + 2) (a.now - (hctx a c).since) else a) (HAL_SEM n) =
      rd a (HAL_SEM n) := by
    split
    · exact rd_ev_below hlow _ _ _
    · rfl
  rw [apply_ite (rd · (HAL_SEM n)), rd_setHctx, ite_self, hev]

theorem rd_maybeIdle_sem (s : State) {c n : Nat} (hc : c < 16) (hn : n < 256) : rd (maybeIdle s c) (HAL_SEM n) = rd s (HAL_SEM n) := by
  unfold maybeIdle
  split
  · exact rd_setCtxState_sem s hc hn
  · rfl

/-- The context's status decides how its semaphores are numbered, not its commands. -/
theorem rd_removeCmd_sem (s : State) {c : Nat} (k : HCmd) {n : Nat} (hc : c < 16) (hn : n < 256) : rd (removeCmd s c k) (HAL_SEM n) =
    rd (if k.err = 0 && cbit k.body 9 0 then semAdd s (ctxSem s c (cby k.body 8 1)) (cby k.body 12 4) else s) (HAL_SEM n) := by
  unfold removeCmd
  rw [rd_maybeIdle_sem _ hc hn]
  split
  · rfl
  · rfl

theorem ctxSem_lt (s : State) (c k : Nat) : ctxSem s c k < 256 := Nat.mod_lt _ (by decide)

theorem HAL_SEM_injective {a b : Nat} (h : HAL_SEM a = HAL_SEM b) : a = b := by simp only [HAL_SEM] at h; omega

/-- Settles O39: a completion adds to one semaphore, and what follows it writes no semaphore. -/
theorem completedCommandsSignal : Obligations.CompletedCommandsSignal := by
  unfold Obligations.CompletedCommandsSignal
  intro s c k hcanon sem t
  refine ⟨fun he hs => ?_, fun h n hn => ?_⟩
  · have hadd {n : Nat} (hn : n < 256) : rd t (HAL_SEM n) = rd (semAdd s sem (cby k.body 12 4)) (HAL_SEM n) :=
      (rd_removeCmd_sem s k c.isLt hn).trans (by rw [if_pos (by simp [he, hs])])
    refine ⟨?_, fun n hn hne => ?_⟩
    · rw [hadd (ctxSem_lt s c _), semAdd, rd_wr_same hcanon.regs, Nat.mod_mod]
    · rw [hadd hn, semAdd, rd_wr_other s fun h => hne (HAL_SEM_injective h).symm]
  · have hno : ¬(k.err = 0 && cbit k.body 9 0) = true := by
      rcases h with h | h <;> simp [h]
    rw [rd_removeCmd_sem s k c.isLt hn, if_neg hno]

/-! ## Walks and the array -/

theorem walkDone_entry {s : State} {c : Fin 16} {va : BitVec 48} {w : Walk} {pte : BitVec 128}
    (hw : (s.hall.walks.find? fun w => w.ctx == c.val && w.va.toNat == va.toNat && w.pte.isSome) = some w) (hp : w.pte = some pte) :
    walkDone s c va.toNat =
      let big := w.level == 1
      let leaf := bit pte.toNat 0 && bit pte.toNat 1
      let entry : TlbEntry := { ctx := c, vaPage := if big then va.toNat / 2 ^ 32 else va.toNat / 2 ^ 26, big := big, pte := pte }
      let tlb := if leaf && !w.stale then
          (s.hall.tlb.filter fun u => !(u.ctx == entry.ctx && u.vaPage == entry.vaPage && u.big == entry.big)) ++ [entry]
        else s.hall.tlb
      let t := setHall s { s.hall with walks := s.hall.walks.erase w, tlb := tlb.drop (tlb.length - 8192) }
      let res : WalkResult := (va.toNat / 2 ^ 26, if leaf then some (big, pte) else none)
      startFetch (forEach (hctx t c).cmds t fun s k => runDma s c k.id (some res)) c (some res) := by
  unfold walkDone
  simp only [hw, hp, Option.getD_some]

/-- Settles O40, by the walk whose entry has come. -/
theorem walksEndInTranslations : Obligations.WalksEndInTranslations := by
  unfold Obligations.WalksEndInTranslations
  exact fun s c va w pte hl hw hp => event_next hl (walkDone_keeps (Keeps.refl s)) (walkDone_entry hw hp)

section
variable {s : State} {r : ArrayRun}

/-- A pass charged: counted, and its cost added to its context's share of the frame (R260). -/
def chargedPass (s : State) (r : ArrayRun) (ok : Bool) : State :=
  let t := countPass s r ok
  let l := runBody s r
  setHctx t r.ctx { hctx t r.ctx with
    shareUsed := (hctx t r.ctx).shareUsed + max (rowsOfTile s l r.tile).2 (colsOfTile s l r.tile).2 }

section
variable (hr : s.hall.run = some r) (hs : s.hall.stopped = false) (hp : r.pass < nPasses (runBody s r))
include hr hs hp

theorem passEnds_good : passEnds s true =
    let q := { r with bank := addPass (chargedPass s r true) (runBody s r) r, pass := r.pass + 1, tries := 0 }
    let t := setHall (chargedPass s r true) { (chargedPass s r true).hall with run := some q }
    if nPasses (runBody s r) ≤ r.pass + 1 then outputTileEnds t q else if (r.pass + 1) % aKP (runBody s r) = 0 then tileBoundary t q else t := by
  unfold passEnds chargedPass
  simp only [hr, if_true]
  rw [if_neg (by simp [hs, hp])]

theorem passEnds_again (ht : r.tries < 2) : passEnds s false =
    let t := ev (halErr (chargedPass s r false) 1) 1716 1
    let t := setHall t { t.hall with run := some { r with tries := r.tries + 1 } }
    if onceSince t 0x0501 1000000000 then fault (noteSince t 0x0501) 0x0501 1 4 (hallEpc t) (det [(16, 1, r.ctx)]) else t := by
  unfold passEnds chargedPass
  simp only [hr, Bool.false_eq_true, if_false]
  rw [if_neg (by simp [hs, hp]), if_pos ht]

theorem passEnds_third (ht : 2 ≤ r.tries) {k : HCmd} {t : State}
    (e : t = (let t := fault (halErr (chargedPass s r false) 2) 0x0501 3 4 (hallEpc (chargedPass s r false)) (det [(16, 1, r.ctx)])
      setHall t { t.hall with run := none }))
    (hk : runCmd t r = some k) :
    passEnds s false = chooseOp (setCmd t r.ctx { k with err := 11, fullyIssued := true, finished := true }) := by
  have hpass : passEnds s false = chooseOp (match runCmd t r with
      | some k => setCmd t r.ctx { k with err := 11, fullyIssued := true, finished := true }
      | none => t) := by
    subst e
    unfold passEnds chargedPass
    simp only [hr, Bool.false_eq_true, if_false]
    rw [if_neg (by simp [hs, hp]), if_neg (Nat.not_lt.mpr ht)] <;> rfl
  rw [hpass, hk]

end

theorem spillEnds_bank (hr : s.hall.spilling = some r) : spillEnds s =
    let n := (colsOfTile s (runBody s r) r.tile).2
    let t := forEach (List.range (rowsOfTile s (runBody s r) r.tile).2) (countGap s) fun s i =>
      pWrite s (saveArea (ctxPrio s r.ctx) + i * arrayCols s * 4)
        ((List.range n).flatMap fun j => leBytes 4 (cget (0 : Word) r.bank (bankAt i j)).toNat)
    chooseOp (setHall t { t.hall with spilling := none, spilled := t.hall.spilled ++ [{ r with bank := [] }] }) := by
  unfold spillEnds
  simp only [hr]

theorem restoreEnds_bank (hr : s.hall.restoring = some r) : restoreEnds s =
    let l := runBody s r
    let bank := (List.range (rowsOfTile s l r.tile).2).foldl (fun b i => (List.range (colsOfTile s l r.tile).2).foldl (fun b j =>
      cset (0 : Word) b (bankAt i j) (BitVec.ofNat 32 (leNat (pRead s (saveArea (ctxPrio s r.ctx) + (i * arrayCols s + j) * 4) 4)))) b) []
    let t := ev (countGap s) 1718 1
    tileBoundary (setHall t { t.hall with restoring := none, run := some { r with bank := bank } }) { r with bank := bank } := by
  unfold restoreEnds
  simp only [hr]

/-- What an epilogue leaves once its tile is written and its bank is free (R258). -/
def tileWritten (s : State) (e : ArrayRun) : State :=
  let t := writeTile (countGap s) (runBody s e) e
  setHall t { t.hall with epilogue := none }

/-- An epilogue ends its command with the last tile, and the array goes on (R258). -/
theorem epilogueEnds_eq (he : s.hall.epilogue = some r) : epilogueEnds s =
    let u := if r.tile + 1 = nTiles (tileWritten s r) (runBody s r) then
        match runCmd (tileWritten s r) r with
        | some k => setCmd (spoilOverlap (tileWritten s r) (arrayOuts (runBody s r)) (arrayClash (runBody s r))) r.ctx { k with finished := true }
        | none => tileWritten s r
      else tileWritten s r
    match u.hall.run with
    | some r => if nPasses (runBody u r) ≤ r.pass then outputTileEnds u r else u
    | none => chooseOp u := by
  unfold epilogueEnds
  simp only [he]
  rfl

theorem epilogueEnds_midway (he : s.hall.epilogue = some r) (hn : (tileWritten s r).hall.run = none)
    (ht : r.tile + 1 ≠ nTiles (tileWritten s r) (runBody s r)) : epilogueEnds s = chooseOp (tileWritten s r) := by
  rw [epilogueEnds_eq he]
  simp only [if_neg ht, hn]

theorem epilogueEnds_last (he : s.hall.epilogue = some r) (ht : r.tile + 1 = nTiles (tileWritten s r) (runBody s r)) {k : HCmd}
    (hk : runCmd (tileWritten s r) r = some k) : epilogueEnds s =
      let u := setCmd (spoilOverlap (tileWritten s r) (arrayOuts (runBody s r)) (arrayClash (runBody s r))) r.ctx { k with finished := true }
      match u.hall.run with
      | some r => if nPasses (runBody u r) ≤ r.pass then outputTileEnds u r else u
      | none => chooseOp u := by
  rw [epilogueEnds_eq he]
  dsimp only
  rw [if_pos ht, hk]

end

/-- Settles O41: each end of the array's work by what was under way. -/
theorem arrayPassesAndBanks : Obligations.ArrayPassesAndBanks := by
  unfold Obligations.ArrayPassesAndBanks
  intro s hl
  have hpass {ok : Bool} {y : State} (e : passEnds s ok = y) : exec (.arrayPassEnd ok) s = .next (progress y) :=
    event_next hl (passEnds_keeps (Keeps.refl s)) e
  have hepi {y : State} (e : epilogueEnds s = y) : exec .epilogueComplete s = .next (progress y) :=
    event_next hl (epilogueEnds_keeps (Keeps.refl s)) e
  refine ⟨fun r hr hs hp => ⟨?_, ?_, ?_⟩,
    fun r hr => event_next hl (spillEnds_keeps (Keeps.refl s)) (spillEnds_bank hr),
    fun r hr => event_next hl (restoreEnds_keeps (Keeps.refl s)) (restoreEnds_bank hr),
    fun e he hn => ⟨fun ht => hepi (epilogueEnds_midway he hn ht), fun k ht hk => ?_⟩,
    event_next hl (frameEnds_keeps (Keeps.refl s)) rfl⟩
  · exact hpass (passEnds_good hr hs hp)
  · exact fun ht => hpass (passEnds_again hr hs hp ht)
  · exact fun ht k hk => hpass (passEnds_third hr hs hp ht rfl hk)
  · exact hepi (epilogueEnds_last he ht hk)

end Sys2Proof.Machine

/-! PROOFS. What the collective engine does with the packets of C4 (R313-R334). -/

namespace Sys2Proof.Machine

section
variable {s t : State} {d : Delivered} {period cells : Nat} (hx : takeHearth s d = (t, period, cells))
include hx

theorem pushIn_stray (h : gValid t d.pkt.group = false ∨ gLeaf t d.pkt.group = false ∨ 2 < gKind t d.pkt.group) :
    pushIn s d = strayInput t d period cells := by
  unfold pushIn
  rw [hx]
  exact if_pos (by simpa [or_assoc] using h)

section
variable (hv : gValid t d.pkt.group = true) (hl : gLeaf t d.pkt.group = true) (hk : gKind t d.pkt.group ≤ 2)
include hv hl hk

/-- A push for a leaf of the group, by its form and its step (R313, R316). -/
theorem pushIn_leaf : pushIn s d =
    if !pieceFits t d.pkt (gFmtIn t d.pkt.group) then malformedInput t d period cells
    else if !pushOpen t d.pkt then duplicateInput t d period cells
    else holdInput (ev t 1960 1) d period cells := by
  unfold pushIn
  rw [hx]
  exact if_neg (by simp [hv, hl, hk])

end

theorem partialIn_spine (hv : gValid t d.pkt.group = true) (hl : gSpine t d.pkt.group = true) (hk : gKind t d.pkt.group ≤ 2)
    (hs : (gLeaves t d.pkt.group).contains d.pkt.src = true) (hf : pieceFits t d.pkt 0 = true) : partialIn s d =
    if stepClosed t d.pkt.group d.pkt.step then duplicateInput t d period cells
    else holdInput (ev (openStep t d.pkt.group d.pkt.step) 1962 1) d period cells := by
  unfold partialIn
  rw [hx]
  exact (if_neg (by rw [hv, hl, hs]; simp [hk])).trans (if_neg (by simp [hf]))

theorem resultIn_owner (hv : gValid t d.pkt.group = true) (hm : d.pkt.mcast = false) (ho : gOwner t d.pkt.group = true)
    (hk : gKind t d.pkt.group = 1 ∨ gKind t d.pkt.group = 2) (hc : (myChunks t d.pkt.group).contains d.pkt.chunk.toNat = true)
    (hf : pieceFits t d.pkt (gFmtOut t d.pkt.group) = true) : resultIn s d =
      let u := dropInput t d period cells
      if stepClosed u d.pkt.group d.pkt.step then u else ownerResult u d.pkt := by
  unfold resultIn
  rw [hx]
  refine (if_neg (by simp [hv])).trans ((if_neg (by simp [hm])).trans ((if_neg ?_).trans (if_neg (by simp [hf]))))
  have hk' : (decide (gKind t d.pkt.group = 1) || decide (gKind t d.pkt.group = 2)) = true := by simpa only [Bool.or_eq_true, decide_eq_true_eq] using hk
  rw [ho, hc, hk']
  decide

theorem a2aIn_open {src dst : Nat} (hs : memberOf t d.pkt.group d.pkt.src = some src) (hd : memberOf t d.pkt.group d.pkt.dest = some dst)
    (hl : a2aLeaf t d.pkt = true) (hf : d.pkt.fmt = 15) (hp : d.pkt.piece = 0) (hst : d.pkt.strand = false) (hr : gRecord t d.pkt.group ≠ 0)
    (hn : d.pkt.length.toNat % gRecord t d.pkt.group = 0) (hc : stepClosed t d.pkt.group d.pkt.step = false) : a2aIn s d =
      if gCountMode t d.pkt.group then countRecords t d period cells dst (d.pkt.length.toNat / gRecord t d.pkt.group)
      else padRecords t d period cells src dst (d.pkt.length.toNat / gRecord t d.pkt.group) := by
  unfold a2aIn
  rw [hx]
  dsimp only
  rw [hs, hd]
  exact (if_neg (by simp [hl])).trans ((if_neg (by simp [hf, hp, hst, hr, hn])).trans (if_neg (ne_true_of_eq_false hc)))

end

/-- What is told of a REVOKE before it acts (R334). -/
def revokeTold (s : State) (p : Packet) : State :=
  noticeAll (ev (bump64 s COL_REVOKES 1) 1972 1) (gPart s p.group) p.group 0x11 p.step.toNat p.chunk.toNat 0

section
variable {s : State} {d : Delivered}

/-- A REVOKE of a group of the module that is not the module's own is told, and then acts (R334). -/
theorem revokeIn_told (hv : gValid s d.pkt.group = true) (hn : ¬(d.pkt.src = myEpc s 12 ∧ d.pkt.mcast = true)) : revokeIn s d =
    let u := revokeTold s d.pkt
    if actsSteward u d.pkt.group then revokeAtSteward u d.pkt
    else if fromSteward u d.pkt && (!stepClosed u d.pkt.group d.pkt.step ||
        (u.coll.revoked.contains (d.pkt.group, d.pkt.step) && revokedSteps u d.pkt.group d.pkt.step != [d.pkt.step])) then
      revokeHere u d.pkt.group d.pkt.step d.pkt.chunk
    else u := if_neg (by simpa [hv] using hn)

end

/-- Settles O42: each packet of C4 by its role, its form and its step. -/
theorem collectivePacketsAtTheirRole : Obligations.CollectivePacketsAtTheirRole := by
  unfold Obligations.CollectivePacketsAtTheirRole
  intro s d hl p g x t period cells
  have hx : takeHearth (takeInbox s d) d = (t, period, cells) := rfl
  refine ⟨fun ho => ?_, fun ho hv hsp hk hs hf => ?_, fun ho hv hm how hk hc hf => ?_, fun ho src dst hs hd hle hf hp hst hr hn hc => ?_,
    fun ho => ?_⟩
  · have hpush {y : State} (e : pushIn (takeInbox s d) d = y) : exec (.collPush d) s = .next (progress y) :=
      taken_next hl ho (fun _ h => pushIn_keeps h) e
    refine ⟨fun h => hpush (pushIn_stray hx h), fun hv hle hk => ?_⟩
    have hleaf := pushIn_leaf hx hv hle hk
    exact ⟨fun hf => hpush (hleaf.trans (if_pos (by rw [hf]; rfl))),
      fun hf hp => hpush (hleaf.trans ((if_neg (by rw [hf]; decide)).trans (if_pos (by rw [hp]; rfl)))),
      fun hf hp => hpush (hleaf.trans ((if_neg (by rw [hf]; decide)).trans (if_neg (by rw [hp]; decide))))⟩
  · have hpartial {y : State} (e : partialIn (takeInbox s d) d = y) : exec (.collPartial d) s = .next (progress y) :=
      taken_next hl ho (fun _ h => partialIn_keeps h) e
    have hspine := partialIn_spine hx hv hsp hk hs hf
    exact ⟨fun hc => hpartial (hspine.trans (if_pos hc)), fun hc => hpartial (hspine.trans (if_neg (ne_true_of_eq_false hc)))⟩
  · exact taken_next hl ho (fun _ h => resultIn_keeps h) (resultIn_owner hx hv hm how hk hc hf)
  · exact taken_next hl ho (fun _ h => a2aIn_keeps h) (a2aIn_open hx hs hd hle hf hp hst hr hn hc)
  · intro i hv hn u
    have hrevoke {y : State} (e : revokeIn i d = y) : exec (.revoke d) s = .next (progress y) :=
      taken_next hl ho (fun _ h => revokeIn_keeps h) e
    have htold := revokeIn_told hv hn
    exact ⟨fun ha => hrevoke (htold.trans (if_pos ha)),
      fun ha hf hc => hrevoke (htold.trans ((if_neg (ne_true_of_eq_false ha)).trans (if_pos (Bool.and_eq_true_iff.mpr ⟨hf, Bool.or_eq_true_iff.mpr (.inl (congrArg (!·) hc))⟩))))⟩

/-! ## COLL_COUNT by its KIND -/

/-- Another FMT than 15 is malformed, whatever the KIND (R313). -/
theorem countTaken_fmt {s : State} {d : Delivered} {kind : Nat} {f : State → Delivered → State} (h : live s = true)
    (ho : d.pkt.opcode = opCOLL_COUNT) (hk : leAt d.pkt.payload 0 1 = kind) (hf : d.pkt.fmt ≠ 15) :
    (Host.Outcome.next (countTaken s d kind f) : Host.Outcome State Fault Refusal) = .next (progress (malformedInput (takeInbox s d) d 0 0)) := by
  unfold countTaken takenBy
  rw [if_pos (by simp [ho, hk])]
  simp only [ne_eq, hf, not_false_eq_true, decide_true, Bool.true_or, if_true]
  exact congrArg Host.Outcome.next
    (event_live (f := fun s => malformedInput (takeInbox s d) d 0 0) h (malformedInput_keeps (takeInbox_keeps (Keeps.refl s))))

section
variable {s : State} {d : Delivered}

section
variable (ha : actsSteward s d.pkt.group = true) (hc : stepClosed s d.pkt.group d.pkt.step = false) (hk : gKind s d.pkt.group ≠ 5)
include ha hc hk

/-- A leaf's votes (R332). -/
theorem voteIn_leaf (harg : argOf d.pkt = 0xFFFFFFFF) (hl : (gLeaves s d.pkt.group).contains d.pkt.src = true)
    (hn : (tallyOf s d.pkt.group d.pkt.step).leaves.contains d.pkt.src = false) : voteIn s d =
      let y := tallyOf s d.pkt.group d.pkt.step
      commitIfComplete (setTally s { y with leaves := d.pkt.src :: y.leaves, votes := y.votes + countOf d.pkt }) d.pkt.group d.pkt.step :=
  (if_neg (by simp [ha, hc, hk])).trans ((if_pos harg).trans (if_neg (by rw [hl, hn]; decide)))

/-- An owner's vote (R332). -/
theorem voteIn_owner (hlt : argOf d.pkt < gOwners s d.pkt.group) (harg : argOf d.pkt ≠ 0xFFFFFFFF)
    (ho : ownerEpc s d.pkt.group (argOf d.pkt) = d.pkt.src)
    (hn : (tallyOf s d.pkt.group d.pkt.step).owners.contains (argOf d.pkt) = false) : voteIn s d =
      let y := tallyOf s d.pkt.group d.pkt.step
      commitIfComplete (setTally s { y with owners := argOf d.pkt :: y.owners }) d.pkt.group d.pkt.step :=
  (if_neg (by simp [ha, hc, hk])).trans ((if_neg harg).trans (if_neg (by rw [hn]; simp [hlt, ho])))

end

theorem committedIn_steward (hv : gValid s d.pkt.group = true) (hf : fromSteward s d.pkt = true) (hc : stepClosed s d.pkt.group d.pkt.step = false) :
    committedIn s d = commitHere s d.pkt.group d.pkt.step := if_pos (by rw [hv, hf, hc]; rfl)

theorem arrivedIn_leaf (ha : actsSteward s d.pkt.group = true) (hc : stepClosed s d.pkt.group d.pkt.step = false)
    (hk : gKind s d.pkt.group = 5 ∨ ((gKind s d.pkt.group = 3 ∨ gKind s d.pkt.group = 4) ∧ gSource1 s d.pkt.group = false))
    (hl : (gLeaves s d.pkt.group).contains d.pkt.src = true)
    (hn : (tallyOf s d.pkt.group d.pkt.step).arrivedFrom.contains d.pkt.src = false) : arrivedIn s d =
      let y := tallyOf s d.pkt.group d.pkt.step
      let y := { y with arrivedFrom := d.pkt.src :: y.arrivedFrom, arrived := y.arrived + countOf d.pkt }
      let u := setTally s y
      if y.arrived = gMembers u d.pkt.group then releaseStep u d.pkt.group d.pkt.step else u := by
  refine (if_neg ?_).trans (if_neg (by rw [hl, hn]; decide))
  have hk' : (decide (gKind s d.pkt.group = 5) ||
      ((decide (gKind s d.pkt.group = 3) || decide (gKind s d.pkt.group = 4)) && !gSource1 s d.pkt.group)) = true := by
    simpa only [Bool.or_eq_true, Bool.and_eq_true, decide_eq_true_eq, Bool.not_eq_true'] using hk
  rw [ha, hc, hk']
  decide

theorem releaseIn_barrier (hv : gValid s d.pkt.group = true) (hf : fromSteward s d.pkt = true)
    (hc : stepClosed s d.pkt.group d.pkt.step = false) (hk : gKind s d.pkt.group = 5) (hl : gLeaf s d.pkt.group = true) :
    releaseIn s d = barrierHere s d.pkt.group d.pkt.step :=
  (if_neg (by rw [hv, hf, hc]; decide)).trans ((if_pos hk).trans (if_pos hl))

theorem reissueIn_here (hv : gValid s d.pkt.group = true) (hr : gLeaf s d.pkt.group = true ∨ gSpine s d.pkt.group = true)
    (hc : stepClosed s d.pkt.group d.pkt.step = false) (hk : gKind s d.pkt.group ≤ 2)
    (hp : halfPieces s d.pkt.group d.pkt.chunk.toNat d.pkt.strand ≠ []) (hn : d.pkt.chunk.toNat < gChunks s d.pkt.group)
    (hf : findHalf s d.pkt.group d.pkt.step d.pkt.chunk d.pkt.strand = none) : reissueIn s d =
      let u := { s with coll := { s.coll with sentHalves := s.coll.sentHalves.filter fun h =>
        !(h.g == d.pkt.group && h.step == d.pkt.step && h.chunk == d.pkt.chunk && h.strand == d.pkt.strand) } }
      reissueAll u d.pkt.group d.pkt.step d.pkt.chunk d.pkt.strand := by
  refine if_neg ?_
  have hlen : (halfPieces s d.pkt.group d.pkt.chunk.toNat d.pkt.strand).length ≠ 0 := by simpa using hp
  have hr' : (gLeaf s d.pkt.group || gSpine s d.pkt.group) = true := Bool.or_eq_true_iff.mpr hr
  rw [hv, hr', hc, hf, decide_eq_true hk, decide_eq_true hn]
  simp [hlen]

theorem regatherIn_published (hv : gValid s d.pkt.group = true) (ho : gOwner s d.pkt.group = true)
    (hm : (memberOf s d.pkt.group d.pkt.src).isSome = true) (hc : (myChunks s d.pkt.group).contains d.pkt.chunk.toNat = true) {r : StepRec}
    (hr : stepRec s d.pkt.group d.pkt.step = some r) (hp : r.published = true) : regatherIn s d =
      let ps := (List.range 16).filter fun q => bit (argOf d.pkt) q && decide (0 < pieceElems s d.pkt.group d.pkt.chunk.toNat q)
      beginGathers s (ps.map fun q =>
        { g := d.pkt.group, step := d.pkt.step, chunk := d.pkt.chunk.toNat, piece := q, member := some d.pkt.src, slot := slotNew s d.pkt.group }) := by
  unfold regatherIn
  simp only [hr, hp, if_true]
  refine if_neg ?_
  rw [hv, ho, hc, Option.isNone_eq_false_iff.mpr hm]
  decide

section
variable {src dst : Nat} (hs : memberOf s d.pkt.group d.pkt.src = some src) (hd : memberOf s d.pkt.group d.pkt.dest = some dst)
  (hl : a2aLeaf s d.pkt = true) (hc : stepClosed s d.pkt.group d.pkt.step = false)
include hs hd hl hc

theorem a2aEndIn_open (hm : gCountMode s d.pkt.group = false) : a2aEndIn s d =
    padProgress (setA2a s { a2aPair s d.pkt.group d.pkt.step src dst with expect := some (countOf d.pkt) }) d.pkt.group d.pkt.step src dst := by
  unfold a2aEndIn
  dsimp only
  rw [hs, hd]
  exact if_neg (by rw [hl, hm, hc]; decide)

theorem a2aCountIn_open (hm : gCountMode s d.pkt.group = true) (hn : a2aTold s d.pkt.group d.pkt.step dst = false) : a2aCountIn s d =
    let u := setA2a s { a2aPair s d.pkt.group d.pkt.step src dst with count := some (countOf d.pkt) }
    if (List.range (gMembers u d.pkt.group)).all fun i => (a2aPair u d.pkt.group d.pkt.step i dst).count.isSome then
      releaseA2a (tellA2a u d.pkt.group d.pkt.step dst 0x09
        ((List.range (gMembers u d.pkt.group)).map fun i => ((a2aPair u d.pkt.group d.pkt.step i dst).count).getD 0)) d.pkt.group d.pkt.step dst
    else u := by
  unfold a2aCountIn
  dsimp only
  rw [hs, hd]
  exact if_neg (by rw [hl, hm, hc, hn]; decide)

end

end

/-- Settles O43: COLL_COUNT by its FMT and its KIND. -/
theorem countMessagesByKind : Obligations.CountMessagesByKind := by
  unfold Obligations.CountMessagesByKind
  intro s d hl ho p g t kind
  refine ⟨fun c hc hf => ?_, fun hf hn => ⟨fun hk ha hc hg => ⟨fun harg hle hs => ?_, fun hlt harg how hs => ?_⟩, fun hk hv hst hc => ?_,
    fun hk ha hc hg hle hs => ?_, fun hk hv hst hc hg hle => ?_, fun hk hv hr hc hg hp hch hh => ?_, fun hk hv how hm hch r hr hp => ?_,
    fun src dst hs hd hle hc => ⟨fun hk hm => ?_, fun hk hm ht => ?_⟩⟩⟩
  · rcases hc with ⟨rfl, hk⟩ | ⟨rfl, hk⟩ | ⟨rfl, hk⟩ | ⟨rfl, hk⟩ | ⟨rfl, hk⟩ | ⟨rfl, hk⟩ | ⟨rfl, hk⟩ | ⟨rfl, hk⟩ <;>
      exact countTaken_fmt hl ho hk hf
  · exact countTaken_next hl ho hk hf hn (fun _ h => voteIn_keeps h) (voteIn_leaf ha hc hg harg hle hs)
  · exact countTaken_next hl ho hk hf hn (fun _ h => voteIn_keeps h) (voteIn_owner ha hc hg hlt harg how hs)
  · exact countTaken_next hl ho hk hf hn (fun _ h => committedIn_keeps h) (committedIn_steward hv hst hc)
  · exact countTaken_next hl ho hk hf hn (fun _ h => arrivedIn_keeps h) (arrivedIn_leaf ha hc hg hle hs)
  · exact countTaken_next hl ho hk hf hn (fun _ h => releaseIn_keeps h) (releaseIn_barrier hv hst hc hg hle)
  · exact countTaken_next hl ho hk hf hn (fun _ h => reissueIn_keeps h) (reissueIn_here hv hr hc hg hp hch hh)
  · exact countTaken_next hl ho hk hf hn (fun _ h => regatherIn_keeps h) (regatherIn_published hv how hm hch hr hp)
  · exact countTaken_next hl ho hk hf hn (fun _ h => a2aEndIn_keeps h) (a2aEndIn_open hs hd hle hc hm)
  · exact countTaken_next hl ho hk hf hn (fun _ h => a2aCountIn_keeps h) (a2aCountIn_open hs hd hle hc hm ht)

end Sys2Proof.Machine

/-! PROOFS. The collective engine's own events (R308-R337), the twin's supervision (R237, R341-R350), and the fault records' way to the ring
and the summary (R354-R365). -/

namespace Sys2Proof.Machine

section
variable {s : State} {g : Nat} {c : GroupChange} (hc : (s.coll.changes.find? fun c => c.g == g) = some c)
include hc

theorem changeApply_quiet (ho : openSteps s g = []) : changeApply s g =
    let t := forEach c.words s fun s e => wr s e.1 e.2.toNat
    let t := if c.words.any fun w => isMemberWord w.1 then setBitOf t (COL_GSTATE g 2) 2 false else t
    let t := forEach (swappedSeats s c.words) t retireSeat
    releaseStarts (noteGState { t with coll := { t.coll with changes := t.coll.changes.erase c } } g) g := by
  unfold changeApply
  simp only [hc]
  exact if_neg (not_not_intro ho)

theorem changeAbandon_late (hd : c.since + fldOf s COL_TIMEOUT 31 16 * 10000000 ≤ s.now) (h1 : c.owner ≠ .commitJob) (h2 : c.owner ≠ .returnJob) :
    changeAbandon s g =
      let t := fault s 0x0602 0 1 (myEpc s 12) (det [(16, 2, g)])
      releaseStarts (noteGState { t with coll := { t.coll with changes := t.coll.changes.erase c } } g) g := by
  unfold changeAbandon
  simp only [hc]
  exact (if_neg (Nat.not_lt.mpr hd)).trans (if_neg (by simp [h1, h2]))

end

section
variable {s : State} {g : Nat} {step chunk : Word} {strand : Bool} {h : Half} (hh : findHalf s g step chunk strand = some h)
include hh

theorem combineDone_ready {piece : Nat} {ok : Bool} (hp : pieceReady s h piece = true) (hn : ∀ x ∈ h.done, x.1 ≠ piece) :
    combineDone s g step chunk strand piece ok =
      let adds := (h.inputs.filter fun x => x.piece == piece).length - 1
      let t := ev (ev s (1964 + combNo h.combiner) 1) (1966 + combNo h.combiner) (adds * pieceElems s g chunk.toNat piece)
      if ok then piecePasses t h piece else pieceFails t h piece := by
  have hany : (h.done.any fun x => x.1 == piece) = false := by simpa using hn
  unfold combineDone
  simp only [hh]
  exact if_neg (by rw [hp, hany]; decide)

theorem reissueDue_half {srcs : List Epc} (hs : srcs = (halfSources s h.g h.step).filter fun src => lackMask s h src ≠ 0)
    (hd : max h.firstAt h.reissuedAt + reissueTime s ≤ s.now) (hn : srcs ≠ []) : reissueDue s g step chunk strand =
      forEach srcs (setHalf s { h with reissuedAt := s.now }) fun s src =>
        sendReissue s h.g h.step h.chunk h.strand src (lackMask s h src) ((memberOf s h.g src).getD 0xFFFF) := by
  subst hs
  unfold reissueDue
  simp only [hh]
  refine if_neg ?_
  rw [Bool.or_eq_true, decide_eq_true_eq, decide_eq_true_eq]
  rintro (h | h)
  · exact absurd hd (Nat.not_le.mpr h)
  · exact hn h

end

section
variable {s : State} {g : Nat}

/-- An owner of a sharded result, kind 2, writes its step record at once (R319). -/
theorem shardReleased_record {step : Word} {r : StepRec} (hr : stepRec s g step = some r) (ho : gOwner s g = true) (hk : gKind s g = 2)
    (hd : r.shardDone = false) (hw : shardWritten s r = true) (hb : openBefore s g r = false) :
    shardReleased s g step = writeStepRec (setStep s { r with shardDone := true }) g step 1 0xFFFFFFFF := by
  unfold shardReleased
  simp only [hr]
  refine (if_neg (by rw [ho, hd, hw]; simp [hk])).trans ?_
  simp [hk, hb]

theorem voteDue_late {r : StepRec} (hr : openSteps s g = [r]) (ht : ∀ t ∈ s.coll.tallies, t.g ≠ g) (hn : r.firstAt ≤ s.now)
    (ha : actsSteward s g = true) (hk : gKind s g ≠ 5) (hd : r.firstAt + fldOf s COL_TIMEOUT 31 16 * 10000000 ≤ s.now) :
    voteDue s g = stewardRevoke s g r.step 0xFFFFFFFF (myEpc s 12) := by
  have hnone : (s.coll.tallies.filter fun t => t.g == g) = [] := List.filter_eq_nil_iff.mpr fun t h => by simpa using ht t h
  unfold voteDue
  simp only [hr, hnone, List.map_cons, List.map_nil, List.append_nil, List.foldl_nil, List.filter_cons, beq_self_eq_true, if_true,
    List.filter_nil, List.foldl_cons, Nat.min_eq_right hn]
  exact if_neg (by simp [ha, hk, Nat.not_lt.mpr hd])

theorem memberLost_portDown {i : Nat} (hv : gValid s g = true) (hl : gLeaf s g = true) (hs : isLocalSeat s (memberEpc s g i) = true)
    (hi : i < gMembers s g) (hd : degraded s g = false) (hp : memberPort s g i < 258) (ho : inService s (memberPort s g i) = false)
    (ht : (link s (memberPort s g i)).outAt + fldOf s COL_TIMEOUT 15 0 * 100000 ≤ s.now) : memberLost s g i =
      let t := markDegraded (forEach (openSteps s g) s fun s r => revokeToSteward s g r.step 0xFFFFFFFF) g
      if fldOf t FLT_SUSPECT_CFG 20 20 = 1 && !seatRetired t (memberEpc s g i) then proposeSwap t (memberEpc s g i) else t := by
  refine if_neg ?_
  rw [hv, hl, hs, ho, hd, decide_eq_true hi, decide_eq_true hp, decide_eq_true ht]
  simp

end

/-- Settles O44: each of the engine's own events by its condition. -/
theorem collectiveTimersAct : Obligations.CollectiveTimersAct := by
  unfold Obligations.CollectiveTimersAct
  refine fun s g hl => ⟨fun c hc => ⟨fun ho => ?_, fun hd h1 h2 => ?_⟩, fun step chunk strand h hh => ⟨fun piece hp hn => ⟨?_, ?_⟩, ?_⟩,
    fun step r hr ho hk hd hw hb => ?_, fun r hr ht hn ha hk hd => ?_, fun i hv hle hs hi hd hp ho ht => ?_⟩
  · exact event_next hl (changeApply_keeps (Keeps.refl s)) (changeApply_quiet hc ho)
  · exact event_next hl (changeAbandon_keeps (Keeps.refl s)) (changeAbandon_late hc hd h1 h2)
  · exact event_next hl (combineDone_keeps (Keeps.refl s)) (combineDone_ready (ok := true) hh hp hn)
  · exact event_next hl (combineDone_keeps (Keeps.refl s)) (combineDone_ready (ok := false) hh hp hn)
  · intro srcs hd hn
    exact event_next hl (reissueDue_keeps (Keeps.refl s)) (reissueDue_half hh rfl hd hn)
  · exact event_next hl (shardReleased_keeps (Keeps.refl s)) (shardReleased_record hr ho hk hd hw hb)
  · exact event_next hl (voteDue_keeps (Keeps.refl s)) (voteDue_late hr ht hn ha hk hd)
  · exact event_next hl (memberLost_keeps (Keeps.refl s)) (memberLost_portDown hv hle hs hi hd hp ho ht)

/-! ## The twin -/

section
variable {s : State}

/-- The run of CONFIRM with no twin port in service (R341). -/
theorem confirmRun_late {down : Nat} (hp : pwrState s = 0) (hu : twinUp s = false) (hn : s.res.twin.lost = false)
    (hd : s.res.twin.downAt = some down) (ht : down + confirmNs s ≤ s.now) : confirmRun s = true := by
  unfold confirmRun
  rw [hp, hu, hn, hd]
  exact decide_eq_true ht

theorem confirmTimeout_absent (hc : confirmRun s = true) (hp : bitOf s PWR_INPUTS 4 = false) (hu : twinUp s = false) (hn : s.res.twin.lost = false) :
    confirmTimeout s = startTakeover (fault (noteActivePath (setTwin s { s.res.twin with lost := true, probeAt := none })) 0x0702 0 5 (twinEpc s 0) 0) :=
  (if_neg (by rw [hc]; decide)).trans ((if_pos (by rw [hp]; rfl)).trans (if_neg (by rw [hn, hu]; decide)))

theorem confirmTimeout_probes (hc : confirmRun s = true) (hp : bitOf s PWR_INPUTS 4 = true) (ho : ∀ r ∈ s.e2e.outs, r.agent ≠ .probe)
    (ht : ∀ t, s.res.twin.probeAt = some t → t ≤ s.now) :
    confirmTimeout s = issue s (mkPkt opREG_READ 1 (twinEpc s 31) (myEpc s 0) (opfM IDN_PART 2 0 0 0) []) .probe none := by
  have hany : (s.e2e.outs.any fun r => r.agent == .probe) = false := by simpa using ho
  have hwait : (match s.res.twin.probeAt with | some t => decide (s.now < t) | none => false) = false := by
    cases h : s.res.twin.probeAt with
    | none => rfl
    | some t => exact decide_eq_false (Nat.not_lt.mpr (ht t h))
  refine (if_neg (by rw [hc]; decide)).trans ((if_neg (by rw [hp]; decide)).trans (if_neg ?_))
  rw [hany]
  exact ne_true_of_eq_false hwait

/-- The state in which every record of the standby directory that a region of the module holds has been loaded (R344). -/
def recordsLoaded (s : State) : State := forEach (s.homes.standbyDir.filter fun r => (regionOfLine s r.line).isSome) s loadRecord

theorem takeoverLoaded_loaded (hs : s.res.twin.stage = 1)
    (hn : ∀ r ∈ (recordsLoaded s).homes.standbyDir, regionOfLine (recordsLoaded s) r.line = none)
    (hr : (recordsLoaded s).res.twin.returning = false) : takeoverLoaded s =
      let u := recordsLoaded s
      let rs := syncedEntries u
      let u1 := forEach rs u fun s r => wr s (HOM_REGION r.i 0) (setBits (setBits (rd s (HOM_REGION r.i 0)) 23 23 0) 22 22 1)
      let t := setTwin u1 { u1.res.twin with stage := 2, returning := false, taken := rs.map Region.i }
      let u2 := fault t 0x0703 3 5 (myEpc t 0) (det [(16, 2, rs.length)])
      let u3 := setAlias (setBitOf u2 FLT_STATUS 8 true) true
      forEach (waitingLines u3) u3 settle := by
  have hany : ((recordsLoaded s).homes.standbyDir.any fun r => (regionOfLine (recordsLoaded s) r.line).isSome) = false :=
    List.any_eq_false.mpr fun r h => by rw [hn r h]; decide
  unfold takeoverLoaded
  rw [if_neg (not_not_intro hs)]
  unfold recordsLoaded at hany hr ⊢
  simp only [hany, hr, Bool.false_eq_true, if_false]

theorem aliasDue_first {due : Nat} {rest : List Nat} (h : s.res.twin.aliasDue = due :: rest) (hd : due ≤ s.now) :
    aliasDue s = broadcastAlias (setTwin s { s.res.twin with aliasDue := rest }) := by
  unfold aliasDue
  simp only [h, if_pos hd]

theorem handoffComplete_quiet (hh : s.res.twin.handingOff = true) (hu : twinUp s = true) (hq : handoffQuiet s = true) : handoffComplete s =
    let rs := ((validRegions s).map (regionOf s)).filter (handRegion s)
    let gone (l : Nat) : Bool := rs.any fun r => r.holds (l * 128)
    let recs := s.homes.dir.filter fun r => gone r.line
    let u := forEach recs (emit s (.twin .handoff)) fun s r => setDirBits s r.line 0
    let u := { u with homes := { u.homes with dir := u.homes.dir.filter (fun r => !(gone r.line)), standbyDir := u.homes.standbyDir ++ recs } }
    let u := forEach rs (noteDir (noteDir u 0) 1) fun s r => setBitOf s (HOM_REGION r.i 0) 23 true
    let u := setTwin u { u.res.twin with handingOff := false, stage := 0, taken := [] }
    if aliasActive u then setAlias (setBitOf u FLT_STATUS 8 false) false else u := if_neg (by rw [hh, hu, hq]; decide)

/-- A handoff that is over tells the power state's entry (R428). -/
theorem handoffOver_over (hh : s.res.twin.handingOff = true) (ho : (handoffComplete s).res.twin.handingOff = false) : handoffOver s =
    let u := handoffComplete s
    pwrProgress (if u.pwr.target = 5 || u.pwr.target = 6 then setPwr u { u.pwr with handedOver := true } else u) :=
  (if_neg (by rw [hh]; decide)).trans (if_neg (ne_true_of_eq_false ho))

theorem resyncDone_quiet (hr : bitOf s FLT_STATUS 10 = true) (hu : twinUp s = true)
    (hq : ∀ e ∈ s.homes.lines, e.2.active.isSome = true → s.res.twin.changeMap.contains (e.1 / 8192) = false) : resyncDone s =
      let u := forEach s.res.twin.changeMap s fun s b => forEach (blockLines s b) s fun s l =>
        homEv (emit s (.twin (.mirror (.data l (memLine s l) (lineVersion s l))))) l 18 1
      let u := forEach (u.homes.dir.filter fun r => twinnedHere u r.line) u fun s r => emit s (.twin (.mirror (.dir r.line r.holders r.owned)))
      let u := setFld (setTwin u { u.res.twin with changeMap := [] }) FLT_RESYNC 19 0 0
      fault0 (emit (setBitOf u FLT_STATUS 10 false) (.twin .resyncEnd)) 0x0705 0 5 := by
  have hbusy : (s.homes.lines.any fun e => e.2.active.isSome && s.res.twin.changeMap.contains (e.1 / 8192)) = false := by
    refine List.any_eq_false.mpr fun e he => ?_
    cases ha : e.2.active.isSome with
    | false => simp
    | true => rw [hq e he ha]; decide
  exact if_neg (by rw [hr, hu, hbusy]; decide)

theorem takeDigest_differs {d : BitVec 256} (hd : d ≠ myDigest s) (hm : s.res.twin.mismatch = false) (ht : hasTwinned s = true) :
    takeDigest s d = fault0 (setTwin s { s.res.twin with mismatch := true }) 0x0306 3 5 := by
  have hb : (d != myDigest s) = true := bne_iff_ne.mpr hd
  have ht' : hasTwinned (setTwin s { s.res.twin with mismatch := true }) = true := ht
  unfold takeDigest
  simp only [hb, hm]
  exact if_pos (by rw [ht']; rfl)

theorem takeDigest_agrees {d : BitVec 256} (hd : d = myDigest s) (hm : s.res.twin.mismatch = false) :
    takeDigest s d = setTwin s { s.res.twin with mismatch := false } := by
  have hb : (d != myDigest s) = false := bne_eq_false_iff_eq.mpr hd
  unfold takeDigest
  simp only [hb, hm, Bool.false_and, Bool.and_false, Bool.false_eq_true, if_false]

end

/-- Settles O45: each event of the twin by its condition. -/
theorem twinSupervision : Obligations.TwinSupervision := by
  unfold Obligations.TwinSupervision
  refine fun s hl => ⟨fun hp hu hn down hd ht => ?_, fun hs => ?_, fun due rest h hd => ?_, fun hh hu hq => ?_, ?_, fun hr hu hq => ?_, fun started => ?_,
    fun d => ⟨fun hd hm ht => ?_, fun hd hm => ?_⟩⟩
  · have hc := confirmRun_late hp hu hn hd ht
    exact ⟨fun hi => event_next hl (confirmTimeout_keeps (Keeps.refl s)) (confirmTimeout_absent hc hi hu hn),
      fun hi ho ha => event_next hl (confirmTimeout_keeps (Keeps.refl s)) (confirmTimeout_probes hc hi ho ha)⟩
  · intro u hn rs u1 hr
    exact event_next hl (takeoverLoaded_keeps (Keeps.refl s)) (takeoverLoaded_loaded hs hn hr)
  · exact event_next hl (aliasDue_keeps (Keeps.refl s)) (aliasDue_first h hd)
  · intro rs gone recs u0 u1 u2 u3 u4 ho
    have hu4 : handoffComplete s = u4 := handoffComplete_quiet hh hu hq
    refine event_next hl (handoffOver_keeps (Keeps.refl s)) ((handoffOver_over hh (hu4 ▸ ho)).trans ?_)
    rw [hu4]
  · exact event_next hl (handoffReceived_keeps (Keeps.refl s)) rfl
  · exact event_next hl (resyncDone_keeps (Keeps.refl s)) (resyncDone_quiet hr hu hq)
  · exact event_next hl (setTwin_keeps (Keeps.refl s)) rfl
  · exact event_next hl (takeDigest_keeps (Keeps.refl s)) (takeDigest_differs hd hm ht)
  · exact event_next hl (takeDigest_keeps (Keeps.refl s)) (takeDigest_agrees hd hm)

/-! ## The ring and the summary -/

section
variable {s : State}

theorem windowEvaluate_ended {w k : Nat} (hw : w = fldOf s FLT_WINDOW 15 0 * 1000000) (hk : k = min s.res.nextWindow (s.now / max w 1)) (h0 : w ≠ 0)
    (he : (k + 1) * w ≤ s.now) : windowEvaluate s =
      let all := s.res.lates
      let ch := charges s ((k + 1) * w)
      let part (p : Nat) : List (Nat × Nat) :=
        ((all.filter fun a => a.port == p && a.stamp / w == k).map fun a => if a.n ≤ 1 then (0, 1) else (lateRank all a, a.n - 1)) ++
        ((ch.filter fun c => memberPort s c.1.g c.2 == p).map fun _ => (1, 1))
      let u := forEach (allPorts s) s fun s p => scorePort s p (if isDownPort s p then part p else [])
      let u := forEach ch u fun s e => match stepRec s e.1.g e.1.step with
        | some r => setStep s { r with late := r.late ++ [e.2] }
        | none => s
      { u with res := { u.res with
        nextWindow := k + 1, lates := u.res.lates.filter fun a => decide ((k + 1) * w ≤ a.stamp) || (stepRec u a.g a.step).isSome } } := by
  subst hk hw
  exact if_neg (by simp [h0, Nat.not_lt.mpr he])

theorem drainOne_room {r : FaultRec} (hc : bitOf s FLT_RING_CFG 0 = true) (hw : s.res.ringWrite = none)
    (hr : drainChoice (ringFree s) [] s.res.queue = some r) : drainOne s =
      let a := rd64 s FLT_RING_BASE + 32 * (rd s FLT_RING_HEAD % 65536)
      let p := { mkPkt opWRITE_MASK 1 (myEpc s 1) (myEpc s 0) (opfM (a / 128 * 128) 0 0 0 0)
        (leBytes 16 ((2 ^ 32 - 1) * 2 ^ (a % 128)) ++ splice (List.replicate 128 0) (a % 128) (recBytes r)) with regionKey := regionKeyAt s a }
      issue { s with res := { s.res with ringWrite := some r, ringRetryAt := 0 } } p .ring none := by
  unfold drainOne
  rw [if_neg (by rw [hc, hw]; decide), hr]

theorem queueDrain_idle (h : s.res.ringRetryAt = 0) : queueDrain s = drainOne s := if_neg (not_not_intro h)

theorem ringRetry_due (h : s.res.ringRetryAt ≠ 0) (hd : s.res.ringRetryAt ≤ s.now) : ringRetry s = drainOne s := if_pos (by simp [h, hd])

theorem summaryWrite_due (hp : s.res.summaryPend ≠ []) (hd : ∀ t, s.res.summaryAt = some t → t + 10000000000 ≤ s.now) : summaryWrite s =
    let u := writeSummary s ((s.res.summary ++ s.res.summaryPend).drop ((s.res.summary ++ s.res.summaryPend).length - 64))
    { u with res := { u.res with summaryPend := [], summaryAt := some u.now } } := by
  have hdue : (match s.res.summaryAt with | some t => decide (t + 10000000000 ≤ s.now) | none => true) = true := by
    cases h : s.res.summaryAt with
    | none => rfl
    | some t => exact decide_eq_true (hd t h)
  refine if_neg ?_
  rw [Bool.or_eq_true, decide_eq_true_eq, not_or]
  refine ⟨hp, ?_⟩
  rw [Bool.not_eq_true, Bool.not_eq_false']
  exact hdue

end

/-- Settles O46: the windows, the ring and the summary by their conditions. -/
theorem faultRecordsReachRingAndSummary : Obligations.FaultRecordsReachRingAndSummary := by
  unfold Obligations.FaultRecordsReachRingAndSummary
  refine fun s hl => ⟨?_, fun hc hw r hr => ?_, fun hp hd => ?_⟩
  · intro w k h0 he
    exact event_next hl (windowEvaluate_keeps (Keeps.refl s)) (windowEvaluate_ended rfl rfl h0 he)
  · have hd := drainOne_room hc hw hr
    exact ⟨fun h => event_next hl (queueDrain_keeps (Keeps.refl s)) ((queueDrain_idle h).trans hd),
      fun h ht => event_next hl (ringRetry_keeps (Keeps.refl s)) ((ringRetry_due h ht).trans hd)⟩
  · exact event_next hl (summaryWrite_keeps (Keeps.refl s)) (summaryWrite_due hp hd)

end Sys2Proof.Machine

/-! PROOFS. Clasp's queue, deliveries and start (R372, R378, R383, R393), the twin's keys and debug tokens (R388, R389, R394), and the ends of
the configuration's jobs (R408-R418). -/

namespace Sys2Proof.Machine

section
variable {s : State} {rest : List ClaspJob}

theorem validateHead_request {w by_ : Nat} {items : List Item} (hq : s.sec.queue = .request w items by_ :: rest) :
    validateHead s = takeRequest (popQueue s) w items := by
  unfold validateHead
  simp only [hq]

section
variable {w : Nat} {scope : Bool} {p : Byte} {nonce : BitVec 256} {start : Nat} (hq : s.sec.queue = .locket w scope p nonce start :: rest)
include hq

/-- A Locket at the head: the window's right, its buffer, and then the start sequence and the rate (R381, R383). -/
theorem validateHead_locket : validateHead s =
    if w = 4 || (w = 3 && scope) then refuseReq (popQueue s) w 5 0
    else if !areaOk s (windowBuf s w) (2 ^ 19) then refuseReq (popQueue s) w 3 0
    else if !bitOf s SEC_STATUS 8 || !maySign s then s
    else noteSigning (setWState (popQueue (setSec s { s.sec with signing := some (w, scope, p, nonce, start) })) w 3) := by
  unfold validateHead
  simp only [hq]

/-- A Locket at the head that has waited 2 s is taken out (R383). -/
theorem locketLate_head (hd : start + 2000000000 ≤ s.now) :
    locketLate s w = refuseReq (noteHead (setSec s { s.sec with queue := rest })) w 12 0 := by
  unfold locketLate
  simp [hq, hd]

end

theorem validateHead_grant {w t : Nat} (hq : s.sec.queue = .grant w t :: rest) (hr : bitOf s SEC_STATUS 8 = true) (hd : s.sec.delivery = none) :
    validateHead s = takeGrant (popQueue s) w := by
  unfold validateHead
  simp only [hq]
  exact if_neg (by rw [hr, hd]; decide)

theorem locketSigned_pending {w t : Nat} {scope : Bool} {p : Byte} {nonce : BitVec 256} (h : s.sec.signing = some (w, scope, p, nonce, t)) :
    locketSigned s =
      let x := makeLocket (setSec s { s.sec with signing := none }) scope p.toNat nonce
      claspWrite (wr x.2 (SEC_W_LEN w) x.1.length) (windowBuf x.2 w) x.1 w := by
  unfold locketSigned
  simp only [h]

theorem deliverKey_next {d : Delivery} {e : Epc} {box : BitVec 40} {ek : List Byte} (hd : s.sec.delivery = some d) (h0 : d.sent = 0)
    (he : d.entries[d.index]? = some (e, box, ek)) : deliverKey s =
      let x := Config.kemSeal ek (Config.free s.freeIdx)
      let g := Config.gcmSeal x.2 0 [] (leBytes 32 d.key.key.toNat)
      let u := takeFree s
      let bytes := leBytes 2 1 ++ leBytes 2 d.key.job.toNat ++ leBytes 1 d.key.epoch.toNat ++ leBytes 1 d.key.partition.toNat ++ leBytes 2 0 ++
        leBytes 3 (myEpc u 0).toNat ++ leBytes 5 0 ++ slice x.1 0 1088 ++ slice g.1 0 32 ++ leBytes 16 g.2.toNat ++ List.replicate 128 0
      let u := forEach (List.range 10) (setSec u { u.sec with delivery := some { d with sent := 11 } }) fun s n =>
        issue s { mkPkt opWRITE 1 e (myEpc s 0) (opfM (box.toNat + 128 * n) 0 0 0 0) (slice bytes (128 * n) 128) with
          partition := d.key.partition } (.delivery d.index) none
      let flag := leBytes 4 (d.key.job.toNat + d.key.epoch.toNat * 2 ^ 16) ++ List.replicate 124 0
      ev (issue u { mkPkt opWRITE_MASK 1 e (myEpc u 0) (opfM (box.toNat + 1280) 0 0 0 0) (leBytes 16 255 ++ flag) with
        partition := d.key.partition, flag := true } (.delivery d.index) none) 2038 1 := by
  unfold deliverKey
  simp only [hd, h0, he]

/-- Clasp's start, a step at a time (R378). -/
theorem bootStep_next {n : Nat} (hp : 2 ≤ phase s) (hs : s.sec.bootStep = n) (hm : n = 2 → maySign s = true) : bootStep s n =
    let u := setSec s { s.sec with bootStep := n + 1 }
    if n = 0 then
      let x := draw256 u
      let u := setSec x.2 { x.2.sec with kemSeed := x.1, identity := Config.hkdfIdentity u.part.seed u.part.serial (bitOf u SEC_STATUS 3) }
      setBitOf (setBitOf u SEC_STATUS 1 true) SEC_STATUS 8 true
    else if n = 1 then chooseAnnex u
    else
      let x := makeLocket (noteSigning u) false 0 0
      let u := setSec x.2 { x.2.sec with bootLocket := x.1 }
      if twinUp u then twinLocketSend u else u := by
  refine if_neg ?_
  have hsign : (n == 2 && !maySign s) = false := by
    by_cases h2 : n = 2
    · rw [hm h2]; simp
    · simp [h2]
  rw [hsign]
  simp [hs, Nat.not_lt.mpr hp]

end

/-- Settles O47: the head of Clasp's queue by its kind, and each of Clasp's own events. -/
theorem claspServesItsQueue : Obligations.ClaspServesItsQueue := by
  unfold Obligations.ClaspServesItsQueue
  intro s hl
  have hx {y : State} (e : validateHead s = y) : exec .claspRequestValidated s = .next (progress y) :=
    event_next hl (validateHead_keeps (Keeps.refl s)) e
  refine ⟨fun w items by_ rest hq => hx (validateHead_request hq), fun items gs rest hq => hx ?_,
    fun w scope p nonce start rest hq => ⟨fun hw => hx ?_, fun hw hs ha => hx ?_, fun hw hs ha hr hm => hx ?_, fun v hv hd => ?_⟩,
    fun w t rest hq hr hd => hx (validateHead_grant hq hr hd), fun w scope p nonce t h => ?_, fun d e box ek hd h0 he => ?_,
    fun n hp hs => ?_⟩
  · unfold validateHead
    simp only [hq]
  · exact (validateHead_locket hq).trans (if_pos (by simpa using hw))
  · exact (validateHead_locket hq).trans ((if_neg (by simpa using ⟨hw, by simpa using hs⟩)).trans (if_pos (by rw [ha]; rfl)))
  · exact (validateHead_locket hq).trans ((if_neg (by simpa using ⟨hw, by simpa using hs⟩)).trans
      ((if_neg (by rw [ha]; decide)).trans (if_neg (by rw [hr, hm]; decide))))
  · subst hv
    exact event_next hl (locketLate_keeps (Keeps.refl s)) (locketLate_head hq hd)
  · exact event_next hl (locketSigned_keeps (Keeps.refl s)) (locketSigned_pending h)
  · exact event_next hl (deliverKey_keeps (Keeps.refl s)) (deliverKey_next hd h0 he)
  · have hb {y : State} (e : bootStep s n = y) : exec (.claspBootStep n) s = .next (progress y) :=
      event_next hl (bootStep_keeps (Keeps.refl s)) e
    refine ⟨?_, ?_, ?_⟩
    · rintro rfl
      exact hb (bootStep_next hp hs fun h => absurd h (by decide))
    · rintro rfl
      exact hb (bootStep_next hp hs fun h => absurd h (by decide))
    · rintro rfl hm
      exact hb (bootStep_next hp hs fun _ => hm)

/-! ## Keys and debug tokens -/

section
variable {s : State}

theorem takeTwinLocket_up {l : List Byte} (hu : twinUp s = true) : takeTwinLocket s l =
    if sigForm l 5 && Config.twinCertOk (sigKey l) && leAt l 0 4 == 1 && leAt l 240 3 == (twinEpc s 0).toNat && leAt l 16 4 == idnPart s then
      let t := setTwin s { s.res.twin with locketOk := true, peerKem := slice l 256 1184 }
      forEach (partsUsed t) t sendKeys
    else s := by
  unfold takeTwinLocket
  simp only [hu, Bool.not_true, Bool.or_false]
  generalize (sigForm l 5 && Config.twinCertOk (sigKey l) && leAt l 0 4 == 1 && leAt l 240 3 == (twinEpc s 0).toNat && leAt l 16 4 == idnPart s) = ok
  cases ok <;> rfl

/-- A partition whose keys are here waits for them no more (R388). -/
def keysCame (p : Byte) (s : State) : State := setSec s { s.sec with keyWait := s.sec.keyWait.filter fun k => k.1.toNat != p.toNat }

/-- The keys of a partition as the twin wraps them (R388). -/
def unwrappedKeys (p : Byte) (bs : List Byte) : MemKey :=
  { id := p, enc := BitVec.ofNat 256 (leAt bs 0 32), mac := BitVec.ofNat 256 (leAt bs 32 32) }

section
variable {p : Byte} {check : BitVec 64} {ct wrapped : List Byte} {tag : BitVec 128} (hl : s.res.twin.locketOk = true)
include hl

theorem takeTwinKeys_known {k : MemKey} (hk : memKey s p.toNat = some k) : takeTwinKeys s p.toNat true check ct wrapped tag =
    if Config.keyCheck k.enc = check then keysCame p s else keyFail (keysCame p s) p.toNat := by
  unfold takeTwinKeys
  simp only [hk]
  exact if_neg (by rw [hl]; decide)

theorem takeTwinKeys_wrapped (hk : memKey s p.toNat = none) : takeTwinKeys s p.toNat true check ct wrapped tag =
    ((Config.gcmOpen (Config.kemOpen s.sec.kemSeed ct) 0 [] wrapped tag).map fun bs =>
      if Config.keyCheck (unwrappedKeys p bs).enc = check then keysCame p (setMemKey s (unwrappedKeys p bs)) else keyFail s p.toNat).getD
        (keyFail s p.toNat) := by
  unfold takeTwinKeys unwrappedKeys
  simp only [hk, BitVec.ofNat_toNat, BitVec.setWidth_eq]
  refine (if_neg (by rw [hl]; decide)).trans ?_
  cases Config.gcmOpen (Config.kemOpen s.sec.kemSeed ct) 0 [] wrapped tag <;> rfl

theorem takeTwinKeys_draws (hk : memKey s p.toNat = none) (hs : lowerSeat s = true) :
    takeTwinKeys s p.toNat false check ct wrapped tag = sendKeys (keysCame p (makeMemKey s p.toNat)) p.toNat := by
  unfold takeTwinKeys
  simp only [hk]
  exact (if_neg (by rw [hl]; decide)).trans (if_pos hs)

end

theorem keyWaitEnds_late {p : Byte} {t : Nat} (h : (s.sec.keyWait.find? fun k => k.1.toNat == p.toNat) = some (p, t))
    (hd : t + 1000000000 ≤ s.now) : keyWaitEnds s p.toNat =
      keyFail (sendKeys (makeMemKey (setSec s { s.sec with keyWait := s.sec.keyWait.erase (p, t) }) p.toNat) p.toNat) p.toNat := by
  unfold keyWaitEnds
  simp only [h]
  exact if_neg (Nat.not_lt.mpr hd)

/-- A debug token in Waking after a power-on reset, by what it is signed for (R394). -/
theorem debugToken_waking {tok : List Byte} {k : Nat} (hd : debugLeft s = some k) (hp : phase s = 0) (hc : bitOf s PWR_RESET_CAUSE 0 = true)
    (hf : bit s.part.fuse.toNat 0 = false) : debugToken s tok =
      let u := setJobKeys s []
      let u := setSec u { u.sec with memKeys := [], keyMismatch := [], kemSeed := 0,
                                     identity := Config.hkdfIdentity u.part.seed u.part.serial true }
      let u := { u with part := { u.part with fuse := BitVec.ofNat 32 (setBits u.part.fuse.toNat (16 + k) (16 + k) 1) } }
      if sigValid tok 6 (fwAccepted s) = true ∧ (sigBody tok).length = 12 ∧ leAt (sigBody tok) 0 8 = s.part.serial.toNat ∧
        leAt (sigBody tok) 8 4 = s.cfg.boots.toNat
      then fault0 (setBitOf u SEC_STATUS 3 true) 0x0807 3 11 else s := by
  unfold debugToken
  simp only [hd]
  by_cases h : sigValid tok 6 (fwAccepted s) = true ∧ (sigBody tok).length = 12 ∧ leAt (sigBody tok) 0 8 = s.part.serial.toNat ∧
      leAt (sigBody tok) 8 4 = s.cfg.boots.toNat
  · rw [if_pos h]
    obtain ⟨hv, hn, h8, h4⟩ := h
    exact if_neg (by simp [hp, hc, hf, hv, hn, h8, h4])
  · rw [if_neg h]
    refine if_pos (by_contra fun hn => h ?_)
    simp only [Bool.or_eq_true, not_or, decide_eq_true_eq, ne_eq, not_not, Bool.not_eq_true', Bool.not_eq_false] at hn
    obtain ⟨⟨⟨⟨-, hv⟩, hn⟩, h8⟩, h4⟩ := hn
    exact ⟨hv, hn, h8, h4⟩

end

/-- Settles O48: the twin's Locket and keys by what is known here, and a token by what it is signed for. -/
theorem keysAndDebugTokens : Obligations.KeysAndDebugTokens := by
  unfold Obligations.KeysAndDebugTokens
  refine fun s hl => ⟨fun l hu => ?_, fun p check ct wrapped tag ho => ?_, fun p t h hd => ?_, fun tok k hd hp hc hf => ?_⟩
  · exact event_next hl (takeTwinLocket_keeps (Keeps.refl s)) (takeTwinLocket_up hu)
  · have hx {held : Bool} {y : State} (e : takeTwinKeys s p.toNat held check ct wrapped tag = y) :
        exec (.twinKeyReceive p held check ct wrapped tag) s = .next (progress y) := event_next hl (takeTwinKeys_keeps (Keeps.refl s)) e
    exact ⟨fun k hk he => hx ((takeTwinKeys_known ho hk).trans (if_pos he)), fun k hk he => hx ((takeTwinKeys_known ho hk).trans (if_neg he)),
      fun hk => hx (takeTwinKeys_wrapped ho hk), fun hk hs => hx (takeTwinKeys_draws ho hk hs)⟩
  · exact event_next hl (keyWaitEnds_keeps (Keeps.refl s)) (keyWaitEnds_late h hd)
  · exact event_next hl (debugToken_keeps (Keeps.refl s)) (debugToken_waking hd hp hc hf)

/-! ## The configuration's jobs -/

section
variable {s : State}

section
variable (hc : cfgState s = 1) (hs : s.cfg.roles.stgState = 1)
include hc hs

theorem stagingEnds_nvmErr : stagingEnds s true =
    let u := nvmError (nvmWrite s (cfgSlotAt s.cfg.roles.staged) (areaBytes s (cfgBuf s) s.cfg.stageLen))
    let v := setCfgState (setResult (setRoles u { u.cfg.roles with stgState := 3 }) 15 0) 0
    showRoles (fault v 0x0904 0 11 (myEpc v 0) (det [(16, 1, 15)])) := by
  refine (if_neg (by simp [hc, hs])).trans ?_
  simp only [if_true, show ¬((15 : Nat) = 1) by decide, decide_false, Bool.false_and, Bool.false_eq_true, if_false]

theorem stagingEnds_checked : stagingEnds s false =
    let img := areaBytes s (cfgBuf s) s.cfg.stageLen
    let u := nvmWrite s (cfgSlotAt s.cfg.roles.staged) img
    let cur := match slotImage u u.cfg.roles.current with | some i => imgVersion i | none => 0
    let chk := if (imageCheck u img false).1 = 1 ∧ imgVersion img ≤ cur then (5, 0) else imageCheck u img false
    let v := setCfgState (setResult (setRoles u { u.cfg.roles with stgState := if chk.1 = 1 then 2 else 3 }) chk.1 chk.2) 0
    showRoles (if chk.1 = 1 then fault0 v 0x0903 0 11 else fault v 0x0904 0 11 (myEpc v 0) (det [(16, 1, chk.1)])) := by
  refine (if_neg (by simp [hc, hs])).trans ?_
  simp only [Bool.false_eq_true, if_false, Bool.and_eq_true, decide_eq_true_eq] <;> rfl

end

section
variable (hc : cfgState s = 1) (hs : s.cfg.roles.stgState ≠ 1)
include hc hs

theorem stageFwEnds_nvmErr : stageFwEnds s true = setResult (nvmError (setCfgState s 0)) 15 0 := (if_neg (by simpa [hc] using hs)).trans (if_pos rfl)

theorem stageFwEnds_checked : stageFwEnds s false =
    let kind := if s.cfg.fwAnnex then 2 else 1
    let running := if s.cfg.fwAnnex then fldOf s SEC_STATUS 7 6 else fldOf s SEC_STATUS 5 4
    let slot := 2 * (kind - 1) + (if running = 1 then 1 else 0)
    let size := if kind = 1 then 0x80000 else 0x2000000
    let img := areaBytes s (cfgBuf s) s.cfg.stageLen
    let u := setCfgState s 0
    let v := nvmWrite (nvmErase u (fwSlotAt slot) (fwSlotAt slot + size)) (fwSlotAt slot) img
    if areaOk u (cfgBuf u) img.length = false ∨ size < img.length then setResult u 6 0
    else if fwBad u kind img = 0 then setResult (setCfg v { v.cfg with fwLen := cset 0 v.cfg.fwLen slot img.length }) 1 0
    else if fwBad u kind img = 1 then setResult u 2 0 else setResult u 5 0 := by
  refine (if_neg (by simpa [hc] using hs)).trans ((if_neg Bool.false_ne_true).trans ?_)
  refine if_congr (by simp only [Bool.or_eq_true, Bool.not_eq_true', decide_eq_true_eq]) rfl ?_
  split
  case h_1 h => rw [if_pos h]
  case h_2 h => rw [if_neg (by omega), if_pos h]
  case h_3 h0 h1 => rw [if_neg h0, if_neg h1]

end

section
variable {reset : Bool} {rest : List ClaspJob} (hq : s.sec.queue = .commitImage reset :: rest) (hd : s.sw.drain = none) (hj : s.cfg.job = none)
include hq hd hj

theorem commitApply_noImage (hi : jobImage (popQueue s) .commit = none) : commitApply s = (commitFails (popQueue s) 13 0, false) := by
  unfold commitApply
  simp only [hq, hd, hj, hi, Option.isSome_none, Bool.or_self, Bool.false_eq_true, if_false]

/-- A commit at the head of the queue with nothing under way, and whether it asks for a reset (R410). -/
theorem commitApply_image {img : List Byte} (hi : jobImage (popQueue s) .commit = some img) : commitApply s =
    let u := popQueue s
    let chk := imageCheck u img (!reset)
    let v := setCfg u { u.cfg with before := u.cfg.roles }
    let v := setRoles v (committedRoles v.cfg.roles .commit true)
    if chk.1 ≠ 1 then (commitFails u chk.1 chk.2, false)
    else if reset then (setCfgState (setResult (showRoles v) 1 0) 0, true)
    else if needsReset (imageDiff u (some img)) || creditsDiffer u img then (commitFails u 9 0, false)
    else (startJob u .commit, false) := by
  unfold commitApply
  simp only [hq, hd, hj, hi, Option.isSome_none, Bool.or_self, Bool.false_eq_true, if_false]
  rfl

end

theorem commitTakes_stays {t : State} (h : commitApply s = (t, false)) : commitTakes s = t := by
  unfold commitTakes
  rw [h]
  rfl

theorem commitTakes_resets {t : State} (h : commitApply s = (t, true)) : commitTakes s = requestReset t 6 := by
  unfold commitTakes
  rw [h]
  rfl

theorem commitTakes_image {reset : Bool} {rest : List ClaspJob} {img : List Byte} (hq : s.sec.queue = .commitImage reset :: rest)
    (hd : s.sw.drain = none) (hj : s.cfg.job = none) (hi : jobImage (popQueue s) .commit = some img) : commitTakes s =
    let u := popQueue s
    let chk := imageCheck u img (!reset)
    let v := setCfg u { u.cfg with before := u.cfg.roles }
    let v := setRoles v (committedRoles v.cfg.roles .commit true)
    if chk.1 ≠ 1 then commitFails u chk.1 chk.2
    else if reset then requestReset (setCfgState (setResult (showRoles v) 1 0) 0) 6
    else if needsReset (imageDiff u (some img)) || creditsDiffer u img then commitFails u 9 0
    else startJob u .commit := by
  extract_lets u chk v v'
  have h := commitApply_image hq hd hj hi
  extract_lets at h
  by_cases h1 : chk.1 ≠ 1
  · rw [if_pos h1] at h ⊢
    exact commitTakes_stays h
  rw [if_neg h1] at h ⊢
  by_cases h2 : reset = true
  · rw [if_pos h2] at h ⊢
    exact commitTakes_resets h
  rw [if_neg h2] at h ⊢
  by_cases h3 : (needsReset (imageDiff u (some img)) || creditsDiffer u img) = true
  · rw [if_pos h3] at h ⊢
    exact commitTakes_stays h
  · rw [if_neg h3] at h ⊢
    exact commitTakes_stays h

section
variable (hr : s.cfg.roles.probation = true) (hj : s.cfg.job = none) (he : s.cfg.probEnd ≠ 0)
include hr hj he

theorem probationPass_clean (hd : s.cfg.probEnd ≤ s.now) (hv : probationVerdict s = 0) : probationPass s = probationEnds s :=
  (if_pos (by simp [hr, hj, he, hd])).trans (if_neg (not_not_intro hv))

theorem probationPort_out {p : Nat} (hc : bitOf s CFG_PROBATION 0 = true) (hp : s.cfg.probPorts.contains p = true) (hen : portEnabled s p = true)
    (hs : inService s p = false) (hd : (link s p).outAt + 1000000000 ≤ s.now) :
    probationPort s p = startJob (setCfgState (setResult s 0 0) 4) (.back 1) :=
  (if_pos (by rw [hc, hp, hen, hs, decide_eq_true hd]; rfl)).trans (if_pos (by simp [hr, hj, he]))

end

section
variable (hc : cfgState s = 5)
include hc

theorem summaryEnds_nvmErr : summaryEnds s true = setResult (nvmError (setCfgState s 0)) 15 0 := (if_neg (not_not_intro hc)).trans rfl

theorem summaryEnds_clear (hs : (setCfgState s 0).cfg.summaryClear = true) :
    summaryEnds s false = setResult (fault0 (writeSummary (setCfgState s 0) []) 0x090B 0 11) 1 0 :=
  (if_neg (not_not_intro hc)).trans ((if_neg Bool.false_ne_true).trans (if_pos hs))

theorem summaryEnds_copy (hs : (setCfgState s 0).cfg.summaryClear = false) (ha : areaOk (setCfgState s 0) (cfgBuf (setCfgState s 0)) 4096 = true) :
    summaryEnds s false =
      let u := setCfgState s 0
      setResult (claspWrite u (cfgBuf u) (nvmRead u (sumBlockAt (u.res.summarySeq % 16)) 4096) 6) 1 0 :=
  (if_neg (not_not_intro hc)).trans ((if_neg Bool.false_ne_true).trans ((if_neg (ne_true_of_eq_false hs)).trans (if_neg (by rw [ha]; decide))))

end

end

/-- Settles O49: each end of a job by its state and what its check found. -/
theorem configurationJobsEnd : Obligations.ConfigurationJobsEnd := by
  unfold Obligations.ConfigurationJobsEnd
  refine fun s hl => ⟨fun hc hs => ⟨?_, ?_⟩, fun hc hs => ⟨?_, ?_⟩, fun reset rest hq hd hj => ⟨fun hi => ?_, fun img hi => ?_⟩,
    fun hr hj he => ⟨fun hd hv => ?_, fun p hc hp hen hs hd => ?_⟩, fun hc => ⟨?_, fun hs => ?_, fun hs ha => ?_⟩⟩
  · exact event_next hl (stagingEnds_keeps (Keeps.refl s)) (stagingEnds_nvmErr hc hs)
  · exact event_next hl (stagingEnds_keeps (Keeps.refl s)) (stagingEnds_checked hc hs)
  · exact event_next hl (stageFwEnds_keeps (Keeps.refl s)) (stageFwEnds_nvmErr hc hs)
  · exact event_next hl (stageFwEnds_keeps (Keeps.refl s)) (stageFwEnds_checked hc hs)
  · exact event_next hl (commitTakes_keeps (Keeps.refl s)) (commitTakes_stays (commitApply_noImage hq hd hj hi))
  · exact event_next hl (commitTakes_keeps (Keeps.refl s)) (commitTakes_image hq hd hj hi)
  · exact event_next hl (probationPass_keeps (Keeps.refl s)) (probationPass_clean hr hj he hd hv)
  · exact event_next hl (probationPort_keeps (Keeps.refl s)) (probationPort_out hr hj he hc hp hen hs hd)
  · exact event_next hl (summaryEnds_keeps (Keeps.refl s)) (summaryEnds_nvmErr hc)
  · exact event_next hl (summaryEnds_keeps (Keeps.refl s)) (summaryEnds_clear hc hs)
  · exact event_next hl (summaryEnds_keeps (Keeps.refl s)) (summaryEnds_copy hc hs ha)

end Sys2Proof.Machine

/-! PROOFS. Power states and wake events (R422-R427), resets, trips and the phases of start-up (R421, R437-R441), the discrete inputs and the
cap (R428-R434). -/

namespace Sys2Proof.Machine

section
variable {s : State} {e : WakeEvent}

theorem wakeEvent_idle (h : pwrState s = 1 ∨ pwrState s = 2) : wakeEvent s e = wakeRun s := by
  unfold wakeEvent
  rcases h with h | h <;> rw [h] <;> rfl

theorem wakeEvent_held (h : pwrState s = 3 ∨ pwrState s = 4) (hd : deepWake e = false) :
    wakeEvent s e = setPwr s { s.pwr with heldWakes := s.pwr.heldWakes ++ [e] } := by
  unfold wakeEvent
  rcases h with h | h <;> rw [h] <;> exact if_neg (ne_true_of_eq_false hd)

theorem wakeEvent_run (h : pwrState s = 0) (he : entering s = true) : wakeEvent s e =
    if deepWake e then abandonEntry s else setPwr s { s.pwr with heldWakes := s.pwr.heldWakes ++ [e] } := by
  unfold wakeEvent
  rw [h]
  exact if_neg (by rw [he]; decide)

theorem abandonEntry_entering (he : entering s = true) : abandonEntry s =
    let u := setPwr (setBitOf s PWR_STATUS 10 false) { s.pwr with target := 0, entryStep := 0 }
    fault0 (if s.pwr.entryStep = 4 then portsUp u else u) 0x0A09 0 13 := if_neg (by rw [he]; decide)

theorem wakeEvent_still (h : pwrState s = 3) (hd : deepWake e = true) : wakeEvent s e = stillExit s := by
  unfold wakeEvent
  rw [h]
  exact if_pos hd

theorem wakeEvent_vigil (h : pwrState s = 4) (hd : deepWake e = true) : wakeEvent s e = vigilExit s := by
  unfold wakeEvent
  rw [h]
  exact if_pos hd

theorem stillExit_still (h : pwrState s = 3) : stillExit s =
    let u := setPwrState s 0
    let u := setPwr u { s.pwr with idleSince := s.now, heldWakes := [] }
    let t := Vector.ofFn fun (i : Fin 12) => decide (4 ≤ i.val) && vget false u.homes.trained i.val
    let u := setBitOf { u with homes := { u.homes with trained := t } } MEM_STATUS 12 true
    portsUp (contentLost (setBitOf u MEM_STATUS 14 (u.homes.evacSaved != [])) 0) := if_neg (not_not_intro h)

theorem vigilExit_vigil (h : pwrState s = 4) : vigilExit s =
    let u := resetState s 1 4 (s.homes.dirBits.map (·.1)).contains
    let u := setPwr u { u.pwr with heldWakes := [] }
    contentLost (contentLost (setBitOf u MEM_STATUS 14 (u.homes.evacSaved != [])) 0) 1 := if_neg (not_not_intro h)

theorem stateEntered_quiet (he : entering (pwrProgress s) = true) (h4 : (pwrProgress s).pwr.entryStep = 4)
    (hn : noneCached (pwrProgress s) (fun _ => true) = true) : stateEntered s = enterDeep (pwrProgress s) := if_pos (by rw [he, h4, hn]; rfl)

theorem poiseEntry_due (hp : pwrState s = 0) (ht : s.pwr.target = 0) (ha : autoIdle s = 1 ∨ autoIdle s = 2) (hr : poiseReady s = true)
    (hd : idleFrom s + poiseDwell s ≤ s.now) : poiseEntry s =
      let u := setPwrState s 1
      let u := ev (setPwr u { s.pwr with idleSince := s.now }) 8 1
      if u.pwr.heldWakes = [] then u else wakeRun (setPwr u { u.pwr with heldWakes := [] }) := by
  refine if_neg ?_
  rw [hr]
  rcases ha with h | h <;> simp [hp, ht, h, Nat.not_lt.mpr hd]

theorem hushEntry_due (hp : pwrState s = 1) (ha : autoIdle s = 2) (hr : hushReady s = true) (hd : idleFrom s + hushDwell s ≤ s.now) : hushEntry s =
    let u := forEach ((allPorts s).filter (inService s)) s fun s p =>
      sendControl (setLink s p { link s p with stopTx := true, stopHush := true }) p
    ev (setPwrState u 2) 9 1 := if_neg (by rw [hr]; simp [hp, ha, Nat.not_lt.mpr hd])

end

/-- Settles O50: a wake event by the state it meets, and each entry by its conditions. -/
theorem powerStatesComeAndGo : Obligations.PowerStatesComeAndGo := by
  unfold Obligations.PowerStatesComeAndGo
  refine fun s hl => ⟨fun e => ⟨fun h => ?_, fun h hd => ?_, fun h he hd => ?_, fun h he hd => ?_, fun h hd c hc => ?_, fun h hd c hc => ?_⟩, ?_,
    fun hp ht ha hr hd => ?_, fun hp ha hr hd => ?_⟩
  · exact event_next hl (wakeEvent_keeps (Keeps.refl s)) (wakeEvent_idle h)
  · exact event_next hl (wakeEvent_keeps (Keeps.refl s)) (wakeEvent_held h hd)
  · exact event_next hl (wakeEvent_keeps (Keeps.refl s)) ((wakeEvent_run h he).trans (if_neg (ne_true_of_eq_false hd)))
  · exact event_next hl (wakeEvent_keeps (Keeps.refl s)) ((wakeEvent_run h he).trans ((if_pos hd).trans (abandonEntry_entering he)))
  · rcases hc with rfl | rfl
    · exact event_next hl (wakeEvent_keeps (Keeps.refl s)) ((wakeEvent_still h hd).trans (stillExit_still h))
    · exact event_next (f := fun s => if deepWake e then stillExit s else s) hl (stillExit_keeps (Keeps.refl s)) (stillExit_still h) (if_pos hd)
  · rcases hc with rfl | rfl
    · exact event_next hl (wakeEvent_keeps (Keeps.refl s)) ((wakeEvent_vigil h hd).trans (vigilExit_vigil h))
    · exact event_next (f := fun s => if deepWake e then vigilExit s else s) hl (vigilExit_keeps (Keeps.refl s)) (vigilExit_vigil h) (if_pos hd)
  · intro u he h4 hn
    exact event_next hl (stateEntered_keeps (Keeps.refl s)) (stateEntered_quiet he h4 hn)
  · exact event_next hl (poiseEntry_keeps (Keeps.refl s)) (poiseEntry_due hp ht ha hr hd)
  · exact event_next hl (hushEntry_keeps (Keeps.refl s)) (hushEntry_due hp ha hr hd)

/-! ## Resets, trips and phases -/

/-- A meaning of an input or of a reset, which acts whether or not the module runs. -/
theorem aside_next {s x y : State} {f : State → State} (k : Keeps s y) (e : y = x) (hf : f s = y := by rfl) :
    (Host.Outcome.next (aside s f) : Host.Outcome State Fault Refusal) = .next x := by
  subst hf
  rw [aside_eq k.pending, e]

/-- One that nothing but power coming on takes out of Off. -/
theorem aside_next_on {s x y : State} {f : State → State} (ho : s.pwr.off = false) (k : Keeps s y) (e : y = x) (hf : f s = y := by rfl) :
    (Host.Outcome.next (aside s fun s => if s.pwr.off then s else f s) : Host.Outcome State Fault Refusal) = .next x :=
  aside_next k e ((if_neg (ne_true_of_eq_false ho)).trans hf)

theorem dark_of_live {s : State} (h : live s = true) : s.pwr.dark = false := by
  simp only [live, Bool.and_eq_true, Bool.not_eq_true'] at h
  exact h.2

theorem off_of_live {s : State} (h : live s = true) : s.pwr.off = false := by
  simp only [live, Bool.and_eq_true, Bool.not_eq_true'] at h
  exact h.1

section
variable {s : State}

theorem thermalTrip_again {d : Die} (hd : s.pwr.dark = false) (ht : s.pwr.tripped = true) : thermalTrip s d = setPwr s { s.pwr with dark := true } :=
  (if_neg (ne_true_of_eq_false hd)).trans (if_pos ht)

theorem thermalTrip_first {d : Die} (hd : s.pwr.dark = false) (ht : s.pwr.tripped = false) : thermalTrip s d =
    let u := fault s 0x0A08 4 13 (myEpc s 0) (det [(16, 1, dieNum d)])
    setPwr u { u.pwr with tripped := true, dark := true } := (if_neg (ne_true_of_eq_false hd)).trans (if_neg (ne_true_of_eq_false ht))

theorem domainReset_there {d : Domain} (h : domainExists s d = true) : domainReset s d =
    let u := setPwr s { s.pwr with inReset := d :: s.pwr.inReset.filter (· ≠ d) }
    fault (domainEffects u d) 0x0A05 1 13 (myEpc u 0) (det [(16, 1, domainNum d)]) := if_neg (by rw [h]; decide)

/-- The end of a phase of start-up, in Run (R439). -/
theorem phaseEnd_run (h : pwrState s = 0) : phaseEnd s =
    match phase s with
    | 0 =>
      let u := setBitOf (setBitOf s SEC_STATUS 0 true) HAL_STATUS 0 (!dieDead (setBitOf s SEC_STATUS 0 true) .hall)
      let u := wr u COL_STATUS (if dieDead u .hearth then 0 else 7)
      notePhase (setPwr u { u.pwr with tripped := false }) 0
    | 1 =>
      let u := setBitOf (setBitOf (readConfig (chooseClasp s)) MEM_STATUS 12 true) MEM_STATUS 13 true
      notePhase (forEach (allPorts u) u bringUpPort) 1
    | 2 => if tierTrained s false && tierTrained s true then notePhase s 2 else s
    | 3 => notePhase (if twinUp s then sendDigest s else s) 3
    | 4 => if !bitOf s MEM_STATUS 12 && !bitOf s MEM_STATUS 13 && floorUp s then startServing s else s
    | _ => s := by
  refine (if_neg (by omega)).trans ?_
  rfl

theorem startupLate_due (hp : phase s = 4) (hf : floorUp s = false) (hs : s.pwr.lateSent = false) (hd : s.pwr.startAt + 1200000000 ≤ s.now) :
    startupLate s = fault0 (setPwr s { s.pwr with lateSent := true }) 0x0A07 3 13 := if_neg (by rw [hf, hs]; simp [hp, Nat.not_lt.mpr hd])

end

/-- Settles O51: resets and trips in any state, the phases in Run. -/
theorem resetsTripsAndPhases : Obligations.ResetsTripsAndPhases := by
  unfold Obligations.ResetsTripsAndPhases
  refine fun s => ⟨?_, fun ho => ⟨?_, ?_⟩, fun ho hd hi => ?_, fun hl => ⟨fun d => ⟨fun ht => ?_, fun ht => ?_⟩, fun d => ⟨fun h => ?_, ?_⟩, fun hp => ?_,
    fun hp hf hs hd => ?_⟩⟩
  · exact aside_next (powerOn_keeps (Keeps.refl s)) rfl
  · exact aside_next_on ho (switchOff_keeps (Keeps.refl s)) rfl
  · exact aside_next_on ho (switchOff_keeps (Keeps.refl s)) rfl
  · exact aside_next_on ho (thermalRestart_keeps (Keeps.refl s)) (if_pos (by rw [hd, hi]; rfl))
  · exact event_next hl (thermalTrip_keeps (Keeps.refl s)) (thermalTrip_again (dark_of_live hl) ht)
  · exact event_next hl (thermalTrip_keeps (Keeps.refl s)) (thermalTrip_first (dark_of_live hl) ht)
  · exact event_next hl (domainReset_keeps (Keeps.refl s)) (domainReset_there h)
  · exact event_next hl (crossingResume_keeps (Keeps.refl s)) rfl
  · have hx {y : State} (e : phaseEnd s = y) : exec .phaseEnd s = .next (progress y) := event_next hl (phaseEnd_keeps (Keeps.refl s)) e
    have hr := phaseEnd_run hp
    refine ⟨fun h => hx ?_, fun h => hx ?_, fun h h0 h1 => hx ?_, fun h => hx ?_, fun h h0 h1 hf => hx ?_⟩ <;> rw [hr, h]
    · rfl
    · rfl
    · exact if_pos (by rw [h0, h1]; rfl)
    · rfl
    · exact if_pos (by rw [h0, h1, hf]; rfl)
  · exact event_next hl (startupLate_keeps (Keeps.refl s)) (startupLate_due hp hf hs hd)

/-! ## Inputs and the cap -/

section
variable {s : State} {i : Sys2Proof.Input} {active : Bool}

theorem inputAccept_pwrgood (ho : s.pwr.off = true) : inputAccept s .pwrgood true = setBitOf (powerOn s) PWR_INPUTS 0 true := if_pos ho

theorem inputAccept_same (ho : s.pwr.off = false) (h : bitOf s PWR_INPUTS (inputBit i) = active) : inputAccept s i active = s :=
  (if_neg (ne_true_of_eq_false ho)).trans (if_pos (beq_iff_eq.mpr h))

theorem inputAccept_new (ho : s.pwr.off = false) (h : bitOf s PWR_INPUTS (inputBit i) ≠ active)
    (hd : (inputOf s i).damped = false ∨ (inputOf s i).lastChange + 10000000 ≤ s.now ∨ (i = .capLow ∧ active = true)) :
    inputAccept s i active = inputActs (wakeRun (noteChange s i active)) i active := by
  refine (if_neg (ne_true_of_eq_false ho)).trans ((if_neg (by simpa using h)).trans (if_neg ?_))
  rcases hd with hd | hd | ⟨rfl, rfl⟩
  · simp [hd]
  · simp [Nat.not_lt.mpr hd]
  · simp

theorem inputAccept_damped (ho : s.pwr.off = false) (hd : (inputOf s i).damped = true) (ht : s.now < (inputOf s i).lastChange + 10000000)
    (hc : ¬(i = .capLow ∧ active = true)) : inputAccept s i active = s := by
  refine (if_neg (ne_true_of_eq_false ho)).trans ?_
  split
  · rfl
  · have hn : (i == .capLow && active) = false :=
      Bool.eq_false_iff.mpr fun h => hc (by simpa only [Bool.and_eq_true, beq_iff_eq] using h)
    exact if_pos (by rw [hn]; simp [hd, ht])

theorem inputStuck_late (h1 : i ≠ .pwrgood) (h2 : i ≠ .twinPrsnt) (ha : bitOf s PWR_INPUTS (inputBit i) = true)
    (hs : (inputOf s i).stuckSent = false) (hd : (inputOf s i).activeSince + 10000000000 ≤ s.now) : inputStuck s i =
      let u := setInput s i { inputOf s i with stuckSent := true }
      fault (alertEdge u (setBitOf u PWR_INPUTS (8 + inputBit i) true)) 0x0A03 0 13 (myEpc u 0) (det [(16, 1, inputBit i)]) :=
  if_neg (by rw [ha]; simp [h1, h2, hs, Nat.not_lt.mpr hd])

theorem dampingEnd_due (hd : (inputOf s i).damped = true) (ht : (inputOf s i).tripleAt + 1000000000 ≤ s.now) :
    dampingEnd s i = setInput s i { inputOf s i with damped := false } := if_neg (by simp [hd, Nat.not_lt.mpr ht])

/-- What a measurement of the power does to the measures in force (R431), before the counts it starts from are noted. -/
def measured (s : State) (watts : Nat) : State :=
  let u := takeFree (wr s PWR_MEASURE (watts % 2 ^ 16 + freeVal s % 2 ^ 16 * 2 ^ 16))
  if pwrState u ≠ 0 then u
  else if fldOf s PWR_CAP 15 0 ≠ 0 && decide (fldOf s PWR_CAP 15 0 < watts) then tighten u watts
  else if u.pwr.capRaised then release1 u else u

theorem capControl_eq {watts : Nat} : capControl s watts =
    forEach (allPorts (measured s watts)) (measured s watts) fun s p =>
      if inService s p then setLink s p { link s p with sentBase := evGet s (32 + 4 * p) } else s := rfl

section
variable {watts : Nat} {u : State} (hu : u = takeFree (wr s PWR_MEASURE (watts % 2 ^ 16 + freeVal s % 2 ^ 16 * 2 ^ 16)))
include hu

theorem measured_above (hp : pwrState u = 0) (hc : fldOf s PWR_CAP 15 0 ≠ 0) (hw : fldOf s PWR_CAP 15 0 < watts) :
    measured s watts = tighten u watts := by
  subst hu
  exact (if_neg (not_not_intro hp)).trans (if_pos (by simp [hc, hw]))

theorem measured_raised (hp : pwrState u = 0) (hw : fldOf s PWR_CAP 15 0 = 0 ∨ watts ≤ fldOf s PWR_CAP 15 0) (hr : u.pwr.capRaised = true) :
    measured s watts = release1 u := by
  subst hu
  refine (if_neg (not_not_intro hp)).trans ((if_neg ?_).trans (if_pos hr))
  simp only [Bool.and_eq_true, decide_eq_true_eq]
  omega

theorem measured_same (h : pwrState u ≠ 0 ∨ ((fldOf s PWR_CAP 15 0 = 0 ∨ watts ≤ fldOf s PWR_CAP 15 0) ∧ u.pwr.capRaised = false)) :
    measured s watts = u := by
  subst hu
  unfold measured
  dsimp only
  by_cases hp : pwrState (takeFree (wr s PWR_MEASURE (watts % 2 ^ 16 + freeVal s % 2 ^ 16 * 2 ^ 16))) = 0
  · obtain ⟨hw, hr⟩ := h.resolve_left (not_not_intro hp)
    rw [if_neg (not_not_intro hp), if_neg (by simp only [Bool.and_eq_true, decide_eq_true_eq]; omega), if_neg (ne_true_of_eq_false hr)]
  · exact if_pos hp

end

end

/-- Settles O52: an input by its level and its damping, a measurement by the cap. -/
theorem inputsAndCapAct : Obligations.InputsAndCapAct := by
  unfold Obligations.InputsAndCapAct
  refine fun s => ⟨fun i active => ⟨?_, fun ho hn => ?_, fun ho h hd => ?_, fun ho hd ht hc => ?_⟩, fun i ho h1 h2 ha hs hd => ?_, fun i ho hd ht => ?_,
    fun hl => ⟨fun hi hs => ?_, fun hi hs => ?_, fun watts => ?_⟩⟩
  · rintro ho rfl rfl
    exact aside_next (inputAccept_keeps (Keeps.refl s)) (inputAccept_pwrgood ho)
  · exact aside_next (inputAccept_keeps (Keeps.refl s)) (inputAccept_off ho hn)
  · exact aside_next (inputAccept_keeps (Keeps.refl s)) (inputAccept_new ho h hd)
  · exact aside_next (inputAccept_keeps (Keeps.refl s)) (inputAccept_damped ho hd ht hc)
  · exact aside_next_on ho (inputStuck_keeps (Keeps.refl s)) (inputStuck_late h1 h2 ha hs hd)
  · exact aside_next_on ho (dampingEnd_keeps (Keeps.refl s)) (dampingEnd_due hd ht)
  · have hsame : inputAccept s .capLow true = s := inputAccept_same (off_of_live hl) hi
    exact event_next hl (throttleOn_keeps (Keeps.refl s)) (if_neg (ne_true_of_eq_false hs)) (congrArg throttleOn hsame)
  · have hsame : inputAccept s .capLow false = s := inputAccept_same (off_of_live hl) hi
    exact event_next hl (throttleOff_keeps (Keeps.refl s)) (if_neg (by rw [hs, hi]; decide)) (congrArg throttleOff hsame)
  · have hx {v : State} (e : measured s watts.toNat = v) : exec (.capControl watts) s = .next (progress (forEach (allPorts v) v fun s p =>
        if inService s p then setLink s p { link s p with sentBase := evGet s (32 + 4 * p) } else s)) :=
      event_next hl (capControl_keeps (Keeps.refl s)) (by rw [capControl_eq, e])
    exact ⟨fun hp hc hw => hx (measured_above rfl hp hc hw), fun hp hw hr => hx (measured_raised rfl hp hw hr), fun h => hx (measured_same rfl h)⟩

end Sys2Proof.Machine

/-! PROOFS. The host's accesses (R444-R452), the requests to it and the events of its port (R446-R460), a step (log entry 18) and what
reset leaves (R15, R438, R443). -/

namespace Sys2Proof.Machine

/-- What a host does while its link is up, after it has ended Poise and Hush (R422). -/
theorem hostDoes_next {s x : State} {j : Nat} {f : State → State} (h : live s = true) (hu : linkUp s j = true)
    (k : ∀ t, Keeps s t → Keeps s (f t)) (e : f (wakeRun (hostBusy s)) = x) :
    (Host.Outcome.next (event s fun s => hostDoes s j f) : Host.Outcome State Fault Refusal) = .next (progress x) :=
  event_next h (hostDoes_keeps k (Keeps.refl s)) ((hostDoes_up hu).trans e)

/-- The sizes an atomic may have (R452). -/
theorem atomicSize_iff {size aop x : Nat} : ((if aop = 8 then [4, 8, 16] else [4, 8]).contains size = true ∧ x % size = 0) ↔
    (size = 4 ∨ size = 8 ∨ (size = 16 ∧ aop = 8)) ∧ x % size = 0 := by
  by_cases h : aop = 8 <;> simp [h]

section
variable {s : State} {j f x : Nat} (hu : linkUp s j = true) (hf : fnThere s j f = true)
include hu hf

theorem bar2_served {len : Nat} {data : Option (List Byte)} (h : apFails (hostBusy s) j f x = 0) : bar2 s j f x len data =
    forEach (cutLines (len / 128 + 2) x len) (hostBusy s) fun s e =>
      ev (issue s (bar2Pkt s j f e.1 e.2 (data.map fun d => slice d (e.1 - x) e.2)) (.bar j f e.1 e.2 data.isNone) (some (j, f)))
        (2040 + 4 * j) 1 := by
  refine (if_neg (by rw [hu, hf]; decide)).trans (congrArg (forEach _ _) (funext fun t => funext fun e => ?_))
  exact if_neg (not_not_intro h)

theorem bar2_writeFails {len : Nat} {data : List Byte} (h : apFails (hostBusy s) j f x ≠ 0) : bar2 s j f x len (some data) =
    let st := apFails (hostBusy s) j f x
    forEach (cutLines (len / 128 + 2) x len) (hostBusy s) fun s e => fnFail s j f 1 st (apAddr s j f e.1) := by
  refine (if_neg (by rw [hu, hf]; decide)).trans (congrArg (forEach _ _) (funext fun t => funext fun e => ?_))
  exact if_pos h

theorem bar2_readFails {len : Nat} (h : apFails (hostBusy s) j f x ≠ 0) : bar2 s j f x len none =
    let st := apFails (hostBusy s) j f x
    forEach (cutLines (len / 128 + 2) x len) (hostBusy s) fun s e =>
      fnFail (emit s (.pcieData j f e.1 (List.replicate e.2 0xFF))) j f 0 st (apAddr s j f e.1) := by
  refine (if_neg (by rw [hu, hf]; decide)).trans (congrArg (forEach _ _) (funext fun t => funext fun e => ?_))
  exact if_pos h

section
variable {size aop : Nat} {operand compare : BitVec 128} {malformed : State → State}

theorem bar2Atomic_malformed (h : ¬((size = 4 ∨ size = 8 ∨ (size = 16 ∧ aop = 8)) ∧ x % size = 0)) :
    bar2Atomic s j f x size aop operand compare malformed = malformed (hostBusy s) := by
  refine (if_neg (by rw [hu, hf]; decide)).trans (if_pos ?_)
  rw [← atomicSize_iff, not_and_or, Bool.not_eq_true] at h
  simpa using h

/-- An atomic of an allowed size, by what its aperture can serve. -/
theorem bar2Atomic_formed (h : (size = 4 ∨ size = 8 ∨ (size = 16 ∧ aop = 8)) ∧ x % size = 0) :
    bar2Atomic s j f x size aop operand compare malformed =
      let v := hostBusy s
      if apFails v j f x ≠ 0 then fnFail v j f 1 (apFails v j f x) (apAddr v j f x)
      else hostAtomic v
        { j := j, fn := f, x := x, size := size, aop := aop, operand := operand, compare := compare, src := fnSrc v j f (apEpc v j f x),
          dest := apEpc v j f x, off := apOff v j f x, part := fnPart v j f, key := BitVec.ofNat 32 (rd v (HST_AP_KEY j f (apOf x))) } := by
  refine (if_neg (by rw [hu, hf]; decide)).trans (if_neg ?_)
  obtain ⟨hs, hx⟩ := atomicSize_iff.mpr h
  rw [hs, hx]
  decide

end

end

/-- Settles O53: an access by what its aperture can serve, an atomic by its size first. -/
theorem hostAccessesMakeRequests : Obligations.HostAccessesMakeRequests := by
  unfold Obligations.HostAccessesMakeRequests
  intro s j fn x hl hu u hul hf v st
  refine ⟨fun data => ⟨fun h => ?_, fun h => ?_⟩, fun len => ⟨fun h => ?_, fun h => ?_⟩, fun c size aop operand compare hc => ?_⟩
  · exact hostDoes_next hl hu (fun _ h => bar2_keeps h) (bar2_served hul hf h)
  · exact hostDoes_next hl hu (fun _ h => bar2_keeps h) (bar2_writeFails hul hf h)
  · exact hostDoes_next hl hu (fun _ h => bar2_keeps h) (bar2_served hul hf h)
  · exact hostDoes_next hl hu (fun _ h => bar2_keeps h) (bar2_readFails hul hf h)
  · have hx {y : State} (e : bar2Atomic u j fn x.toNat size aop operand compare (fun s => hostTlpErr s j false) = y) :
        exec c s = .next (progress y) := by
      rcases hc with ⟨rfl, rfl, rfl⟩ | ⟨rfl, rfl, rfl⟩ | ⟨rfl, rfl⟩ <;>
        exact hostDoes_next hl hu (fun _ h => bar2Atomic_keeps (fun _ h => hostTlpErr_keeps h) h) e
    exact ⟨fun hn => hx (bar2Atomic_malformed hul hf hn), fun ho hs => hx ((bar2Atomic_formed hul hf ho).trans (if_pos hs)),
      fun ho hs => hx ((bar2Atomic_formed hul hf ho).trans (if_neg (not_not_intro hs)))⟩

/-! ## Requests to the host -/

section
variable {s : State} {d : Delivered} {j : Nat} (hh : hostOf s d.pkt.dest = some j) (ht : d.pkt.opcode ≠ opTELEMETRY)
include hh ht

theorem inboundRequest_linkDown (hu : linkUp s j = false) : inboundRequest s d = inboundRefused s j d.pkt stUNREACHABLE := by
  unfold inboundRequest
  simp only [hh]
  rw [if_neg ht, if_pos (by rw [hu]; rfl)]

theorem inboundRequest_unbound (hu : linkUp s j = true) (hb : boundFns s j d.pkt.partition.toNat = []) :
    inboundRequest s d = inboundRefused s j d.pkt stPARTITION := by
  unfold inboundRequest
  simp only [hh, hb]
  rw [if_neg ht, if_neg (by rw [hu]; decide)]

/-- A request to a function bound to its partition: its key, and then what it asks for (R454). -/
theorem inboundRequest_bound (hu : linkUp s j = true) {f : Nat} {fs : List Nat} (hb : boundFns s j d.pkt.partition.toNat = f :: fs) :
    inboundRequest s d =
      let p := d.pkt
      let a := (rd64 s (HST_IN_BASE j) + p.offset) % 2 ^ 64
      let v := ev (bump64 (hostBusy s) (HST_IN_COUNT j) 1) (2040 + 4 * j + 1) 1
      if rd s (HST_FN_INKEY j f) ≠ 0 && rd s (HST_FN_INKEY j f) ≠ p.regionKey.toNat then inboundRefused s j p stKEYFAIL
      else if p.opcode = opREAD || p.opcode = opREAD_VOL then
        emit (setHosts v { v.hosts with
          nextN := s.hosts.nextN + 1, inbound := s.hosts.inbound ++ [{ j := j, n := s.hosts.nextN, d := d, at_ := s.now }] })
          (.dmaRead j f s.hosts.nextN a 128)
      else if p.opcode = opWRITE || p.opcode = opWRITE_MASK then respond (if d.dup then v else hostStore v j f a p) p stOK 0 0 0 []
      else if p.opcode = opSTREAM_WRITE then hostStore v j f a p
      else inboundRefused s j p stNOREGION := by
  unfold inboundRequest
  simp only [hh, hb]
  rw [if_neg ht, if_neg (by rw [hu]; decide)]

end

/-- Settles the requests of O54: any opcode but COLL_COUNT and TELEMETRY is an inbound request. -/
theorem hostInboundRequest_next {s x : State} {d : Delivered} (hl : live s = true) (hc : d.pkt.opcode ≠ opCOLL_COUNT)
    (e : inboundRequest (takeInbox s d) d = x) : exec (.hostInboundRequest d) s = .next (progress x) :=
  event_next (f := fun s => hostTakes (takeInbox s d) d) hl (hostTakes_keeps (takeInbox_keeps (Keeps.refl s))) ((if_neg hc).trans e)

section
variable {s : State} {j : Nat}

theorem dmaComplete_known {n : Nat} {data : List Byte} {i : Inbound} (h : findInbound s j n = some i) :
    dmaComplete s j n data = respond (hostBusy (dropInbound s i)) i.d.pkt stOK 0 0 0 (slice data 0 128) := by
  unfold dmaComplete
  simp only [h]

theorem dmaTimeout_late {n : Nat} {i : Inbound} (h : findInbound s j n = some i) (hd : i.at_ + 10000000 ≤ s.now) :
    dmaTimeout s j n = respond (fault (hostErr (dropInbound s i) j 3) 0x0B02 2 10 i.d.pkt.src (det [(16, 1, j), (17, 5, i.d.pkt.offset)]))
      i.d.pkt stUNREACHABLE 0 0 0 [] := by
  unfold dmaTimeout
  simp only [h]
  exact if_neg (Nat.not_lt.mpr hd)

theorem msixHoldoff_due {f v : Nat} (hp : bitOf s (HST_PBA j f) v = true) (hm : bitOf s (HST_MSIX j f (4 * v + 3)) 0 = false)
    (hd : cget 0 s.hosts.msixAt ((j * 128 + f) * 4 + v) + 1000 ≤ s.now + 1) :
    msixHoldoff s j f v = msix (setBitOf s (HST_PBA j f) v false) j f v :=
  if_neg (by rw [hp, hm]; simp [Nat.not_lt.mpr hd])

theorem vfEnable_up {on : Bool} {n : Nat} (hu : linkUp s j = true) :
    vfEnable s j on n = setFld (setBitOf s (HST_PORT_STATUS j) 17 on) (HST_PORT_STATUS j) 16 10 n := if_neg (by rw [hu]; decide)

theorem hostTlpErr_up {poisoned : Bool} (hu : linkUp s j = true) : hostTlpErr s j poisoned =
    let v := hostErr (hostBusy s) j (if poisoned then 2 else 1)
    if onceSince v (0x0B0400 + j) 1000000 then
      fault (noteSince v (0x0B0400 + j)) 0x0B04 2 10 (myEpc v 0) (det [(16, 1, j), (17, 1, b2n poisoned)])
    else v := if_neg (by rw [hu]; decide)

theorem hostLinkDown_up (hu : linkUp s j = true) :
    hostLinkDown s j = fault (hostErr (hostLinkGone s j) j 0) 0x0B01 2 10 (myEpc s 0) (det [(16, 1, j)]) := if_neg (by rw [hu]; decide)

theorem hostLinkUp_trains {rate width : Nat} (hp : bitOf s PWR_INPUTS (1 + j) = false) (hc : bitOf s (HST_PORT_CFG j) 0 = true)
    (hd : dieDead s (.port 0) = false) (h0 : rate ≠ 0) (h7 : rate ≠ 7) : hostLinkUp s j rate width =
      noteActivePath (hostBusy (setFld s (HST_PORT_STATUS j) 8 0 (1 + rate * 2 + width % 16 * 16 + b2n (rate == 6) * 256))) :=
  if_neg (by rw [hp, hc, hd]; simp [h0, h7])

theorem snapDone_taken {i : Nat} {r : SnapReq} {v : Nat} {c d : Bool} (hr : ((captureDue s).cnt.snaps.find? fun r => r.slot == i) = some r)
    (ht : r.taken = some (v, c, d)) : snapDone s i =
      let u := captureDue s
      let u := setCnt u { u.cnt with snaps := u.cnt.snaps.filter fun q => q.slot != i }
      let u := wr (wr64 u (CNT_SNAP_LO i) (v % 2 ^ 64)) (CNT_SNAP_HI i) (v / 2 ^ 64)
      wr64 (wr u (CNT_SNAP_STATUS i) (r.event + b2n c * 2 ^ 12 + 2 ^ 13 + b2n d * 2 ^ 14)) (CNT_SNAP_STAMP i) r.stamp := by
  unfold snapDone
  simp only [hr, ht]

end

/-- Settles O54: a request by the checks of R454, and each event of the port by its condition. -/
theorem hostPortsAnswer : Obligations.HostPortsAnswer := by
  unfold Obligations.HostPortsAnswer
  refine fun s j hl => ⟨fun d hc ht => ?_, fun n i => ⟨fun data hu hi => ?_, fun hi hd => ?_⟩, fun fn vec hp hm hd => ?_, fun hu => ?_, ?_,
    fun rate width hp hc hd h0 h7 => ?_, fun addr => ?_, fun slot r v c d hr ht => ?_⟩
  · intro p t hh
    have hx {y : State} (e : inboundRequest t d = y) : exec (.hostInboundRequest d) s = .next (progress y) := hostInboundRequest_next hl hc e
    refine ⟨fun hu => hx (inboundRequest_linkDown hh ht hu), fun hu => ⟨fun hb => hx (inboundRequest_unbound hh ht hu hb), fun f fs hb => ?_⟩⟩
    intro k a v
    have hb' := inboundRequest_bound hh ht hu hb
    refine ⟨fun h0 hk => hx (hb'.trans (if_pos (by simp [k, p] at h0 hk ⊢; exact ⟨h0, hk⟩))), fun hk => ?_⟩
    have hkey : ¬(rd t (HST_FN_INKEY j f) ≠ 0 && rd t (HST_FN_INKEY j f) ≠ d.pkt.regionKey.toNat) = true := by
      simp only [Bool.and_eq_true, decide_eq_true_eq, not_and_or, not_not]
      exact hk
    have hask := hb'.trans (if_neg hkey)
    refine ⟨fun ho => hx (hask.trans (if_pos (by simpa using ho))), fun ho => hx (hask.trans ?_), fun ho => hx (hask.trans ?_)⟩
    · refine (if_neg ?_).trans (if_pos (by simpa using ho))
      rcases ho with ho | ho <;> rw [show d.pkt.opcode = _ from ho] <;> decide
    · have ho' : d.pkt.opcode = opSTREAM_WRITE := ho
      exact (if_neg (by rw [ho']; decide)).trans ((if_neg (by rw [ho']; decide)).trans (if_pos ho'))
  · exact hostDoes_next hl hu (fun _ h => dmaComplete_keeps h) (dmaComplete_known hi)
  · exact event_next hl (dmaTimeout_keeps (Keeps.refl s)) (dmaTimeout_late hi hd)
  · exact event_next hl (msixHoldoff_keeps (Keeps.refl s)) (msixHoldoff_due hp hm hd)
  · refine ⟨fun hul on n => ?_, fun hul poisoned => ?_, ?_⟩
    · exact hostDoes_next hl hu (fun _ h => vfEnable_keeps h) (vfEnable_up hul)
    · have htlp := hostTlpErr_up (poisoned := poisoned) hul
      exact ⟨fun h => hostDoes_next hl hu (fun _ h => hostTlpErr_keeps h) (htlp.trans (if_pos h)),
        fun h => hostDoes_next hl hu (fun _ h => hostTlpErr_keeps h) (htlp.trans (if_neg (ne_true_of_eq_false h)))⟩
    · exact event_next hl (hostLinkDown_keeps (Keeps.refl s)) (hostLinkDown_up hu)
  · exact event_next hl (hostPerst_keeps (Keeps.refl s)) rfl
  · have h0' : rate.toNat ≠ 0 := fun h => h0 (BitVec.eq_of_toNat_eq h)
    have h7' : rate.toNat ≠ 7 := fun h => h7 (BitVec.eq_of_toNat_eq h)
    exact event_next (f := fun s => wakeRun (hostLinkUp s j rate.toNat width.toNat)) hl (wakeRun_keeps (hostLinkUp_keeps (Keeps.refl s)))
      (congrArg wakeRun (hostLinkUp_trains hp hc hd h0' h7'))
  · exact congrArg Host.Outcome.next (if_neg (ne_true_of_eq_false (off_of_live hl)))
  · exact event_next hl (snapDone_keeps (Keeps.refl s)) (snapDone_taken hr ht)

/-! ## A step, and reset -/

/-- Settles O55, by what the queue holds. -/
theorem stepRunsTheFrontCommand : Obligations.StepRunsTheFrontCommand := by
  unfold Obligations.StepRunsTheFrontCommand
  refine ⟨fun s c rest => rfl, fun s h => ?_⟩
  unfold step
  rw [h]

theorem reset_canon : State.reset.Canon := ⟨by decide, by decide, by decide, by decide, by decide, by decide⟩

/-- A word of the reset state is its Reset value (R15). -/
theorem rd_reset (off : Nat) : rd State.reset off = (regReset off).toNat := rfl

/-! ### What a module reset keeps of the words -/

section
variable {s r : State} {cause : Nat} (hr : r.regs = [])
include hr

/-- The words kept, over a state with every word at its Reset value: the audit's count, the cause, the inputs, the cap and Debug (R438). -/
theorem rd_keptRegs_audit : rd (keptRegs s cause r) SWC_AUDIT_RECLAIMED = rd s SWC_AUDIT_RECLAIMED := by
  have hcanon : swf regReset r.regs = true := by rw [hr]; rfl
  unfold keptRegs
  rw [rd_wr_other _ (by decide), rd_setBitOf_other _ (by decide), rd_wr_other _ (by decide), rd_setBitOf_other _ (by decide),
    rd_wr_other _ (by decide), rd_wr_same hcanon, Nat.mod_eq_of_lt (rd_lt s _)]

theorem keptRegs_canon : swf regReset (keptRegs s cause r).regs = true := by
  have hcanon : swf regReset r.regs = true := by rw [hr]; rfl
  unfold keptRegs
  exact wr_canon (wr_canon (wr_canon (wr_canon (wr_canon (wr_canon hcanon _ _) _ _) _ _) _ _) _ _) _ _

theorem bitOf_keptRegs_cause (hc : cause < 32) : bitOf (keptRegs s cause r) PWR_RESET_CAUSE cause = true := by
  have hcanon : swf regReset r.regs = true := by rw [hr]; rfl
  have hother : rd (keptRegs s cause r) PWR_RESET_CAUSE =
      rd (setBitOf (wr (wr r SWC_AUDIT_RECLAIMED (rd s SWC_AUDIT_RECLAIMED)) PWR_RESET_CAUSE (rd s PWR_RESET_CAUSE)) PWR_RESET_CAUSE cause true)
        PWR_RESET_CAUSE := by
    unfold keptRegs
    rw [rd_wr_other _ (by decide), rd_setBitOf_other _ (by decide), rd_wr_other _ (by decide)]
  rw [bitOf, hother]
  exact bitOf_setBitOf_same (wr_canon (wr_canon hcanon _ _) _ _) _ hc true

/-- PWR_STATUS keeps the cap's bit alone, so a module reset is in Run (R438). -/
theorem fldOf_keptRegs_state : fldOf (keptRegs s cause r) PWR_STATUS 2 0 = 0 := by
  have hcanon : swf regReset r.regs = true := by rw [hr]; rfl
  have hzero : rd r PWR_STATUS = 0 := by unfold rd; rw [hr]; rfl
  unfold keptRegs
  rw [fldOf_wr_other _ (by decide)]
  refine (fldOf_setFld_apart (wr_canon (wr_canon (wr_canon (wr_canon hcanon _ _) _ _) _ _) _ _) _ (by decide) (by decide)
    (.inl (by decide)) _).trans ?_
  rw [fldOf_wr_other _ (by decide)]
  refine (fldOf_setFld_other _ (by decide) _ _ _ _ _).trans ?_
  rw [fldOf_wr_other _ (by decide), fldOf_wr_other _ (by decide), fldOf, hzero]
  rfl

end

/-- What a module reset leaves outside the words: only words are written after it (R438). -/
theorem resetState_kept (s : State) (cause : Nat) (kept : Nat → Bool) :
    let t := resetState s 0 cause kept
    t.now = s.now ∧ t.part = s.part ∧ t.sec.memKeys = s.sec.memKeys ∧ t.sec.jobKeys = [] ∧ t.homes.mem = s.homes.mem ∧
    t.homes.roots = s.homes.roots ∧ t.homes.storedMem = s.homes.storedMem ∧ t.cfg.boots = s.cfg.boots ∧ t.cfg.nvm = s.cfg.nvm ∧
    t.hall = {} ∧ t.coll = {} ∧ t.pending = s.pending := by
  simp [resetState, keptRegs, keptCfg, State.reset]

/-- Settles O56: the reset state, power-on and a module reset, word by word where a word is kept. -/
theorem resetLeavesResetValues : Obligations.ResetLeavesResetValues := by
  unfold Obligations.ResetLeavesResetValues
  intro r
  refine ⟨reset_canon, rfl, rfl, rfl, rfl, rfl, rfl, rfl, rd_reset, fun s => ?_, fun s cause kept _ hc => ?_⟩
  · exact ⟨powerOn s, aside_next (powerOn_keeps (Keeps.refl s)) rfl, rd_reset, rfl, rfl, rfl, rfl, rfl, rfl, rfl, rfl, rfl⟩
  · intro t
    obtain ⟨hnow, hpart, hmem, hjob, hcells, hroots, hstored, hboots, hnvm, hhall, hcoll, hpend⟩ := resetState_kept s cause kept
    refine ⟨hnow, hpart, hmem, hjob, hcells, hroots, hstored, hboots, hnvm, hhall, hcoll, hpend, ?_, ?_, ?_, ?_⟩
    · exact fldOf_setFld_same (keptRegs_canon rfl) _ (by decide) (by decide) 0
    · exact (fldOf_setFld_apart (keptRegs_canon rfl) _ (by decide) (by decide) (.inl (by decide)) 0).trans (fldOf_keptRegs_state rfl)
    · refine (congrArg (bit · cause) (rd_setFld_other _ (by decide) _ _ _)).trans (bitOf_keptRegs_cause rfl hc)
    · exact (rd_setFld_other _ (by decide) _ _ _).trans (rd_keptRegs_audit rfl)

end Sys2Proof.Machine

/-! PROOFS. A line reads back as written; memory, Pantry and keys stay under the commands that act on links, lanes, monitors, inputs and
records alone (R42, R240). -/

namespace Sys2Proof.Machine

section
/-! A line as bytes and as a word: what is written is what is read. -/

theorem leNat_lt (bs : List Byte) : leNat bs < 256 ^ bs.length := by
  induction bs with
  | nil => decide
  | cons b bs ih =>
    have hb : b.toNat < 256 := b.isLt
    simp only [leNat, List.length_cons, pow_succ]
    omega

theorem leBytes_leNat (bs : List Byte) : leBytes bs.length (leNat bs) = bs := by
  induction bs with
  | nil => rfl
  | cons b bs ih =>
    have hb : b.toNat < 256 := b.isLt
    have hm : (b.toNat + 256 * leNat bs) % 256 = b.toNat := by omega
    have hd : (b.toNat + 256 * leNat bs) / 256 = leNat bs := by omega
    rw [List.length_cons, leBytes, leNat, hm, hd, ih, BitVec.ofNat_toNat, BitVec.setWidth_eq]

theorem lineBytes_bytesLine {bs : List Byte} (h : bs.length = 128) : lineBytes (bytesLine bs) = bs := by
  have hlt : leNat bs < 2 ^ 1024 := lt_of_lt_of_eq (leNat_lt bs) (by rw [h, show (256 : Nat) = 2 ^ 8 by norm_num, ← pow_mul])
  rw [lineBytes, bytesLine, BitVec.toNat_ofNat, Nat.mod_eq_of_lt hlt, ← h, leBytes_leNat]

theorem slice_take {bs : List Byte} {n : Nat} (h : n ≤ bs.length) : slice bs 0 n = bs.take n := by simp [slice, h]

/-- A line reads as it was written, and every byte of another line as before. -/
theorem memWriteLine_reads (s : State) (line : Nat) {bs : List Byte} (hm : Memory.wf s.homes.mem = true) (h : 128 ≤ bs.length) :
    let t := memWriteLine s line bs
    lineBytes (memLine t line) = bs.take 128 ∧ Memory.wf t.homes.mem = true ∧
      ∀ a, a / 128 ≠ line → cellGet t.homes.mem a = cellGet s.homes.mem a := by
  have hl : (bs.take 128).length = 128 := by rw [List.length_take, Nat.min_eq_left h]
  have hread := cellRead_cellWrite (bs.take 128) s.homes.mem (line * 128) hm
  rw [hl] at hread
  dsimp only
  rw [memLine, memWriteLine_homes, slice_take h]
  refine ⟨(congrArg (fun x => lineBytes (bytesLine x)) hread).trans (lineBytes_bytesLine hl), cellWrite_wf _ _ _ hm, fun a ha => ?_⟩
  exact cellGet_cellWrite_outside _ _ _ _ (by rw [hl]; omega)

end

/-- Memory, Pantry and keys, with the changes under way that could still alter them. -/
structure MemView where
  mem : List Host.Cell
  pantry : List Host.Cell
  dirBits : SMap (BitVec 2)
  memKeys : List MemKey
  jobKeys : List JobKey
  job : Option CfgJob
  applying : List Applying

/-- A state's memory, Pantry and keys. -/
def memView (s : State) : MemView :=
  ⟨s.homes.mem, s.hall.pantry, s.homes.dirBits, s.sec.memKeys, s.sec.jobKeys, s.cfg.job, s.sec.applying⟩

section
/-! The operations of the state that leave memory, Pantry and keys as they were. Each is proved by `(rfl)`, in brackets, so that `simp` rewrites
with it and does not have the kernel unfold the words that are written. -/

variable (s : State)

@[simp] theorem memView_wr (o v : Nat) : memView (wr s o v) = memView s := (rfl)
@[simp] theorem memView_setFld (o hi lo v : Nat) : memView (setFld s o hi lo v) = memView s := (rfl)
@[simp] theorem memView_setBitOf (o n : Nat) (b : Bool) : memView (setBitOf s o n b) = memView s := (rfl)
@[simp] theorem memView_wr64 (o v : Nat) : memView (wr64 s o v) = memView s := (rfl)
@[simp] theorem memView_bump64 (o k : Nat) : memView (bump64 s o k) = memView s := memView_wr64 ..
@[simp] theorem memView_bumpSat (o hi lo k : Nat) : memView (bumpSat s o hi lo k) = memView s := (rfl)
@[simp] theorem memView_setLink (p : Nat) (l : PortLink) : memView (setLink s p l) = memView s := (rfl)
@[simp] theorem memView_setLane (n : Nat) (l : Lane) : memView (setLane s n l) = memView s := (rfl)
@[simp] theorem memView_setTwin (t : Twin) : memView (setTwin s t) = memView s := (rfl)
@[simp] theorem memView_setPwr (p : Pwr) : memView (setPwr s p) = memView s := (rfl)
@[simp] theorem memView_emit (e : OutEvent) : memView (emit s e) = memView s := (rfl)
@[simp] theorem memView_takeFree : memView (takeFree s) = memView s := (rfl)
@[simp] theorem memView_noteSince (k : Nat) : memView (noteSince s k) = memView s := (rfl)
theorem memView_sw (x : Switch) : memView { s with sw := x } = memView s := (rfl)
theorem memView_training (x y : Vector Bool 12) :
    memView { s with homes := { s.homes with trained := x, storedMem := y } } = memView s := (rfl)
theorem memView_queue (q : List ClaspJob) : memView (setSec s { s.sec with queue := q }) = memView s := (rfl)

theorem memView_forEach {α : Type} {f : State → α → State} (h : ∀ s x, memView (f s x) = memView s) (xs : List α) :
    ∀ s, memView (forEach xs s f) = memView s := by
  induction xs with
  | nil => exact fun _ => rfl
  | cons x xs ih => exact fun s => (ih (f s x)).trans (h s x)

@[simp] theorem memView_ev (n k : Nat) : memView (ev s n k) = memView s := by
  obtain ⟨_, _, h⟩ := ev_shape s n k
  rw [h]
  rfl

@[simp] theorem memView_msix (j fn vec : Nat) : memView (msix s j fn vec) = memView s := by
  obtain ⟨_, _, _, h⟩ := msix_shape s j fn vec
  rw [h]
  rfl

@[simp] theorem memView_alertEdge (a : State) : memView (alertEdge a s) = memView s := by
  obtain ⟨_, h⟩ := alertEdge_shape a s
  rw [h]
  rfl

@[simp] theorem memView_fault (code sev source : Nat) (e : Epc) (d : BitVec 128) : memView (fault s code sev source e d) = memView s := by
  obtain ⟨_, _, _, _, _, _, h⟩ := fault_shape s code sev source e d
  rw [h]
  rfl

@[simp] theorem memView_fault0 (code sev source : Nat) : memView (fault0 s code sev source) = memView s := memView_fault s ..

end

section
/-! Lanes and ports. -/

variable (s : State) (n p : Nat)

@[simp] theorem memView_lnkEv (k : Nat) : memView (lnkEv s k n) = memView s := memView_ev s ..
@[simp] theorem memView_setLaneState (v : Nat) : memView (setLaneState s n v) = memView s := (rfl)
@[simp] theorem memView_enterPhase (ph : LanePhase) (t : Nat) : memView (enterPhase s n ph t) = memView s := (rfl)
@[simp] theorem memView_setLock (b : Nat) : memView (setLock s n b) = memView s := (rfl)
@[simp] theorem memView_startDetect : memView (startDetect s n) = memView s := (rfl)
@[simp] theorem memView_sendBlock (k v : Nat) : memView (sendBlock s n k v) = memView s := (rfl)
@[simp] theorem memView_noteRxIdle : memView (noteRxIdle s p) = memView s := (rfl)
@[simp] theorem memView_setTxIdle (b : Bool) : memView (setTxIdle s p b) = memView s := (rfl)
@[simp] theorem memView_sendControl : memView (sendControl s p) = memView s := memView_lnkEv ..

@[simp] theorem memView_codeword (errs : Nat) (corrects : Bool) : memView (codeword s n errs corrects) = memView s := by
  simp [codeword, apply_ite memView]

@[simp] theorem memView_decodePair (a b : Nat) (burst : Bool) : memView (decodePair s n a b burst) = memView s := by
  simp [decodePair, apply_ite memView]

@[simp] theorem memView_levelReset : memView (levelReset s n) = memView s := by simp [levelReset, apply_ite memView]
@[simp] theorem memView_twinReturns : memView (twinReturns s) = memView s := by simp [twinReturns, apply_ite memView]
@[simp] theorem memView_blockLocked : memView (blockLocked s n) = memView s := by simp [blockLocked, apply_ite memView]
@[simp] theorem memView_fecLocked : memView (fecLocked s n) = memView s := by simp [fecLocked, apply_ite memView]
@[simp] theorem memView_sfLocked : memView (sfLocked s n) = memView s := by simp [sfLocked, apply_ite memView]
@[simp] theorem memView_laneRestarts : memView (laneRestarts s n) = memView s := by simp [laneRestarts, apply_ite memView]
@[simp] theorem memView_quarantineEnds : memView (quarantineEnds s n) = memView s := by simp [quarantineEnds, apply_ite memView]

@[simp] theorem memView_idleHeard : memView (idleHeard s n) = memView s := by
  unfold idleHeard
  split
  · rfl
  · simp [apply_ite memView]

@[simp] theorem memView_idleExits : memView (idleExits s p) = memView s := by simp [idleExits, apply_ite memView, memView_forEach]
@[simp] theorem memView_idleEnters : memView (idleEnters s p) = memView s := by simp [idleEnters, apply_ite memView, memView_forEach]
@[simp] theorem memView_checkingAgain : memView (checkingAgain s p) = memView s := by simp [checkingAgain, apply_ite memView, memView_forEach]

@[simp] theorem memView_marginWarn (b source place : Nat) : memView (marginWarn s b source place) = memView s := by
  simp [marginWarn, apply_ite memView]

@[simp] theorem memView_eyeSearched (w h e : Nat) : memView (eyeSearched s n w h e) = memView s := by simp [eyeSearched, apply_ite memView]
@[simp] theorem memView_eyeCounted (c : Nat) : memView (eyeCounted s n c) = memView s := by simp [eyeCounted, apply_ite memView]
@[simp] theorem memView_opticalRead (r o b l : Nat) : memView (opticalRead s n r o b l) = memView s := by simp [opticalRead, apply_ite memView]
@[simp] theorem memView_droopSeen (d i mv m : Nat) : memView (droopSeen s d i mv m) = memView s := by simp [droopSeen, apply_ite memView]

end

section
/-! The switch core, the twin, memory devices, power, inputs, the host's vectors and Clasp's queue. -/

variable (s : State)

@[simp] theorem memView_startDrain (o : DrainOwner) (sh : List (Nat × Word)) (en : List Nat) : memView (startDrain s o sh en) = memView s :=
  memView_ev ..

@[simp] theorem memView_routeAdd (p : Nat) : memView (routeAdd s p) = memView s := by
  simp [routeAdd, apply_ite memView, memView_sw]

@[simp] theorem memView_checkReserve : memView (checkReserve s) = memView s := by
  simp [checkReserve, apply_ite memView, memView_forEach, memView_sw]

@[simp] theorem memView_mirrorDelivered : memView (mirrorDelivered s) = memView s := by
  unfold mirrorDelivered
  split
  · rfl
  · simp [memView_sw]

@[simp] theorem memView_bufAudit : memView (bufAudit s) = memView s := by
  simp [bufAudit, apply_ite memView, memView_forEach, memView_sw]

@[simp] theorem memView_handoffReceived : memView (handoffReceived s) = memView s := by
  simp [handoffReceived, startTakeover, apply_ite memView]

@[simp] theorem memView_startHandoff : memView (startHandoff s) = memView s := by simp [startHandoff, apply_ite memView]
@[simp] theorem memView_startResync : memView (startResync s) = memView s := by simp [startResync, apply_ite memView]
@[simp] theorem memView_takeDigest (d : BitVec 256) : memView (takeDigest s d) = memView s := by simp [takeDigest, apply_ite memView]
@[simp] theorem memView_deviceLost (n code : Nat) : memView (deviceLost s n code) = memView s := by simp [deviceLost]
@[simp] theorem memView_memLost (n : Nat) : memView (memLost s n) = memView s := by simp [memLost, apply_ite memView]

@[simp] theorem memView_trainingDone (n : Nat) (ok stored : Bool) : memView (trainingDone s n ok stored) = memView s := by
  simp [trainingDone, apply_ite memView, memView_training]

@[simp] theorem memView_setPwrState (v : Nat) : memView (setPwrState s v) = memView s := (rfl)
@[simp] theorem memView_hushEntry : memView (hushEntry s) = memView s := by simp [hushEntry, apply_ite memView, memView_forEach]
@[simp] theorem memView_thermalTrip (d : Die) : memView (thermalTrip s d) = memView s := by simp [thermalTrip, apply_ite memView]
@[simp] theorem memView_startupLate : memView (startupLate s) = memView s := by simp [startupLate, apply_ite memView]
@[simp] theorem memView_setInput (i : Sys2Proof.Input) (x : InputState) : memView (setInput s i x) = memView s := (rfl)
@[simp] theorem memView_inputStuck (i : Sys2Proof.Input) : memView (inputStuck s i) = memView s := by simp [inputStuck, apply_ite memView]
@[simp] theorem memView_dampingEnd (i : Sys2Proof.Input) : memView (dampingEnd s i) = memView s := by simp [dampingEnd, apply_ite memView]
@[simp] theorem memView_msixHoldoff (j f v : Nat) : memView (msixHoldoff s j f v) = memView s := by simp [msixHoldoff, apply_ite memView]

@[simp] theorem memView_setWState (w v : Nat) : memView (setWState s w v) = memView s := by simp [setWState, apply_ite memView]
@[simp] theorem memView_windowDone (w r i : Nat) : memView (windowDone s w r i) = memView s := by simp [windowDone, apply_ite memView]
@[simp] theorem memView_refuseReq (w r i : Nat) : memView (refuseReq s w r i) = memView s := by simp [refuseReq]

@[simp] theorem memView_noteHead : memView (noteHead s) = memView s := by
  unfold noteHead
  split
  · exact memView_setWState ..
  · exact memView_setWState ..
  · exact memView_setWState ..
  · rfl

@[simp] theorem memView_locketLate (w : Nat) : memView (locketLate s w) = memView s := by
  unfold locketLate
  split
  · simp [memView_queue]
  · rfl

end

section
/-! A whole command: nothing under way goes on behind an effect that leaves these stores alone. -/

variable {s : State}

theorem settled_of_memView {t : State} (h : settled s) (e : memView t = memView s) : settled t := by
  obtain ⟨hj, ha⟩ := h
  exact ⟨(congrArg MemView.job e).trans hj, (congrArg MemView.applying e).trans ha⟩

theorem memView_aside {f : State → State} (e : memView (f s) = memView s) : memView (aside s f) = memView s := e

/-- An effect that leaves these stores alone leaves them alone as an event. -/
theorem memView_event (h : settled s) {f : State → State} (e : memView (f s) = memView s) : memView (event s f) = memView s := by
  unfold event act
  split
  · exact memView_aside (by rw [progress_settled (settled_of_memView h e), e])
  · rfl

theorem memView_next {x t : State} (e : memView x = memView s)
    (h : (Host.Outcome.next x : Host.Outcome State Fault Refusal) = .next t) : memView t = memView s := by
  cases h
  exact e

/-- Each command that acts on links, lanes, monitors, inputs and records alone leaves memory, Pantry and keys as they were. -/
theorem exec_memView {t : State} {c : Instr} (h : settled s) (hc : memoryAside c = true) (ht : exec c s = .next t) : memView t = memView s := by
  have ev {f : State → State} (hn : Host.Outcome.next (event s f) = (.next t : Host.Outcome State Fault Refusal)) (e : memView (f s) = memView s) :
      memView t = memView s := memView_next (memView_event h e) hn
  cases c with
  | resyncSignalReceive => exact ev ht (memView_setTwin ..)
  | quarantineLevelReset => exact ev ht (memView_levelReset ..)
  | twinHandoffReceive => exact ev ht (memView_handoffReceived ..)
  | twinPortReturn => exact ev ht (memView_twinReturns ..)
  | blockLock => exact ev ht (memView_blockLocked ..)
  | eyeManualDone => exact ev ht (memView_eyeCounted ..)
  | msixHoldoffEnd => exact ev ht (memView_msixHoldoff ..)
  | fecLock => exact ev ht (memView_fecLocked ..)
  | eiEnterReceive => exact ev ht (memView_idleHeard ..)
  | laneRestart => exact ev ht (memView_laneRestarts ..)
  | quarantineEnd => exact ev ht (memView_quarantineEnds ..)
  | routeAddRequest => exact ev ht (memView_routeAdd ..)
  | superframeLock => exact ev ht (memView_sfLocked ..)
  | idleExit => exact ev ht (memView_idleExits ..)
  | checkingRetry => exact ev ht (memView_checkingAgain ..)
  | codewordDecode => exact ev ht (memView_decodePair ..)
  | hushEntry => exact ev ht (memView_hushEntry ..)
  | idleEntry => exact ev ht (memView_idleEnters ..)
  | thermalTrip => exact ev ht (memView_thermalTrip ..)
  | eyeSearchDone => exact ev ht (memView_eyeSearched ..)
  | opticalRefresh => exact ev ht (memView_opticalRead ..)
  | startupLate => exact ev ht (memView_startupLate ..)
  | supplyDroop => exact ev ht (memView_droopSeen ..)
  | memDeviceLost => exact ev ht (memView_memLost ..)
  | memTrainingDone => exact ev ht (memView_trainingDone ..)
  | mirrorRecordDelivered => exact ev ht (memView_mirrorDelivered ..)
  | twinDigestReceive => exact ev ht (memView_takeDigest ..)
  | bufAudit => exact ev ht (memView_bufAudit ..)
  | locketRateTimeout => exact ev ht (memView_locketLate ..)
  | dampingEnd i => exact memView_next (memView_aside (by simp [apply_ite memView])) ht
  | inputStuck i => exact memView_next (memView_aside (by simp [apply_ite memView])) ht
  | i3cAddressAssign a =>
    refine memView_next ?_ ht
    split <;> rfl
  | _ => exact absurd hc Bool.false_ne_true

end

/-- Settles O59: a line's bytes by what a write of its cells reads as, and each command by the stores that its effect leaves alone. -/
theorem memoryReadsBackAndStays : Obligations.MemoryReadsBackAndStays := by
  unfold Obligations.MemoryReadsBackAndStays
  refine ⟨fun s line bs => memWriteLine_reads s line, fun s t c h hc ht => ?_⟩
  obtain ⟨hmem, hpantry, hdir, hkeys, hjobs, -, -⟩ := MemView.mk.inj (exec_memView h hc ht)
  exact ⟨fun a => congrArg (cellGet · a) hmem, fun a => congrArg (cellGet · a) hpantry, hdir, hkeys, hjobs⟩

end Sys2Proof.Machine
